-- ==== Sys2Proof/Word.lean ====
section
/-! DEFINITION. The words of the module: bytes, register words and the index types of its parts
(cores R12, halls R12, links R19, stacks R320, banners R389, functions R366, queues R370). -/

namespace Sys2Proof

/-- A byte; every multi-byte quantity is little-endian (R6). -/
abbrev Byte := BitVec 8
/-- A 32-bit register of BAR0 (R474), a constant register or a lane. -/
abbrev Word := BitVec 32

/-- Core index 0-159 (R12). -/
abbrev CoreId := Fin 160
/-- Hall H0-H19 (R12). -/
abbrev HallId := Fin 20
/-- Link L0-L63 (R19). -/
abbrev LinkId := Fin 64
/-- Near-tier stack N0-N7 (R320). -/
abbrev StackId := Fin 8
/-- Gallery image slot 0-7 (R299). -/
abbrev SlotId := Fin 8
/-- Banner 0-7 (R389). -/
abbrev Banner := Fin 8
/-- Command source: PF0-PF3 (Table 17.1); 4 is the MCTP sideband (R387). -/
abbrev FnId := Fin 5
/-- Queue Q0-Q15 of a function (R370). -/
abbrev QueueId := Fin 16
/-- Service core SC0-SC5 (R17). -/
abbrev ScId := Fin 6

end Sys2Proof
end

