-- ==== Sys2Proof/Syntax.lean ====
section
/-! DEFINITION. The commands the module takes: one constructor of `Instr` per row of spec/opcode_table.json,
with the operands that come from outside (an instruction word that a core issues, a frame that a partner
sends, a value a host writes, a measurement). Every operand type is finite data. -/

namespace Sys2Proof

/-! ### Operands of core instructions -/

/-- The fields of the 128-bit instruction word other than its opcode, which the row fixes (Table 8.1). -/
structure IWord where
  mod  : BitVec 8
  wCc  : BitVec 4
  wAmt : BitVec 6
  sCc  : BitVec 4
  sEn  : Bool
  rsv  : Bool
  o0 : BitVec 16
  o1 : BitVec 16
  o2 : BitVec 16
  o3 : BitVec 16
  o4 : BitVec 16
  o5 : BitVec 16
  deriving DecidableEq, Repr, Inhabited

/-! ### Operands from the fabric -/

/-- Frame kinds of Table 12.2. -/
inductive FrameKind where
  | schedHead | schedData | management | bulkHead | bulkData | status | training | reserved
  deriving DecidableEq, Repr, Inhabited

/-- The head frame's payload (Table 12.4), with the mesh packet header fields of Table 11.1 it carries. -/
structure HeadInfo where
  kind     : BitVec 4      -- mesh packet kind (Table 11.1)
  banner   : Banner
  source   : BitVec 18     -- global address of the sending core
  sequence : BitVec 16     -- source sequence number
  rcc      : BitVec 4
  dest     : BitVec 8      -- destination core index
  slot     : BitVec 12     -- link schedule entry
  address  : BitVec 32
  deadline : Nat           -- TREAD_COUNT of the tread at whose end the message must be usable
  flits    : Nat           -- data frames, 1-64
  destMod  : BitVec 10     -- destination module fabric address
  twoHops  : Bool
  forwarded : Bool
  deriving DecidableEq, Repr, Inhabited

/-- What a received frame carries after the FEC and the GCM check (R259, R260). -/
structure Frame where
  kind    : FrameKind
  slot    : Fin 339        -- slot of the partner's tread it came in
  epoch   : Bool           -- key epoch bit of the header
  seq12   : BitVec 12      -- sequence bits [11:0] of the class
  fixed   : Nat            -- codewords that end in the frame and that the FEC corrected
  uncorr  : Nat            -- codewords that end in the frame and that it could not correct
  fecOk   : Bool           -- no codeword in which the frame lies was uncorrectable
  authOk  : Bool           -- the tag verifies under the key of the claimed epoch
  head    : Option HeadInfo  -- head frames
  data    : List Byte      -- data frames: 64 bytes
  deriving DecidableEq, Repr, Inhabited

/-- One NAK entry of a status frame: sequence number and class (Table 12.3). -/
structure NakEntry where
  seq : BitVec 16
  cls : Fin 3
  deriving DecidableEq, Repr, Inhabited

/-- A status frame's payload (Table 12.3), classes in the order scheduled, management, bulk. -/
structure StatusPayload where
  tread      : Nat
  slot       : Nat
  sent       : List (BitVec 16)
  ack        : List (BitVec 16)
  bulkCredit : Nat
  mgmtFree   : Bool
  rekeyArm   : Bool
  teardown   : Bool
  rekeyAt    : Nat
  rekeyEpoch : Bool
  naks       : List NakEntry
  deriving DecidableEq, Repr, Inhabited

/-- How a status frame came in: codewords as in `Frame`, whether its tag verifies, and, of a slot-0 frame, the delay and
the offset measured with it (R277), in units of 10 ps. -/
structure StatusRx where
  fixed  : Nat
  uncorr : Nat
  fecOk  : Bool
  authOk : Bool
  time   : Option (Int × Int)   -- of a slot-0 frame: the own Δ of R277 and the partner's, in units of 10 ps
  deriving DecidableEq, Repr, Inhabited

/-- What SECURE finds of the partner's certificates: the chain and signatures verify, and the validity periods hold. -/
structure CertResult where
  chainOk   : Bool
  periodsOk : Bool
  deriving DecidableEq, Repr, Inhabited

/-- SERVICE_CORES: its duration, whether a copy of the cached manifest can be read (R293), and the copies of gallery slot records
whose CRC-32 does not verify (R299). -/
structure CoresUp where
  us         : Nat
  manifestOk : Bool
  badCopies  : List (SlotId × Fin 2) := []
  deriving DecidableEq, Repr, Inhabited

/-- The partner's identity record (Table 12.6 IDENTIFY; R284 for a timing master). -/
structure IdentityRec where
  isMaster  : Bool
  serial    : BitVec 128
  row       : BitVec 5
  column    : BitVec 5
  link      : BitVec 6
  compat    : BitVec 16
  version   : BitVec 16
  config    : BitVec 384   -- configuration digest
  manifest  : BitVec 384   -- manifest digest
  deriving DecidableEq, Repr, Inhabited

/-- The exit outcomes, readiness and stream table range a member reports at a landing (R238, R345, R352). -/
structure MemberReport where
  member   : Nat
  outcomes : List (BitVec 18 × Bool)  -- global core address, outcome
  ready    : Bool
  rangeBase  : Nat     -- the stream table range of the banner (R345)
  rangeCount : Nat
  freePages  : Nat     -- free near-tier pages of the banner on the member (R353, R355)
  nearLost   : Bool    -- the member has lost the banner's near-tier contents (R359)
  deriving DecidableEq, Repr, Inhabited

/-- States of a stream (Table 16.2). -/
inductive StreamSt where
  | free | queued | prompting | ready | generating | paused | parked | done | faulted
  deriving DecidableEq, Repr, Inhabited

/-- The fields of a stream table entry that hold the same value on every member (R346, Table 16.1), with the orders to
SC2 that go with them. -/
structure StreamFields where
  gen : BitVec 16
  st : StreamSt
  banner : Banner
  cls : BitVec 2
  keep : Bool
  tree : Bool
  memory : Bool
  image : BitVec 3
  pauseCause : Nat
  tokens : BitVec 32
  context : BitVec 32
  pending : BitVec 32
  deadline : BitVec 64
  slot : Option Nat
  round : BitVec 32
  seed : BitVec 64
  maxTokens : BitVec 32
  temperature : BitVec 16
  topP : BitVec 16
  topK : BitVec 16
  stop : BitVec 32
  pair : Option (BitVec 64)    -- pair of tasks that admitted the stream (R225)
  parkRun : Bool               -- a park is running
  resumeRun : Bool             -- a resume is running
  model : Nat := 0             -- model identifier of the stream's image (R314): the model's own, beside Table 16.1
  deriving DecidableEq, Repr, Inhabited

/-- The task and task epoch that a message names (R295). -/
structure TaskRef where
  task : BitVec 32
  epoch : BitVec 32
  deriving DecidableEq, Repr, Inhabited

/-- The task, its epoch and the swap that a message about a swap names (R295, R315). -/
structure SwapRef extends TaskRef where
  swapId : Nat
  deriving DecidableEq, Repr, Inhabited

/-- What the lead sends each member at a serving landing (R352, step 5): changed stream entries, and the streams and
chunk positions of the task's slots. At the lead itself only the task counts. -/
structure ServingTurn where
  task : BitVec 32
  epoch : BitVec 32 := 1
  changes : List (Nat × StreamFields) := []
  slots : List (Nat × BitVec 32) := []
  slotPos : List (Nat × Nat) := []
  deriving DecidableEq, Repr, Inhabited

/-! ### Operands from hosts -/

/-- A reset of a function (R368): by a hot reset or a Function Level Reset, or by the loss of its PCIe link. -/
structure FnReset where
  fn : FnId
  linkLost : Bool := false
  deriving DecidableEq, Repr, Inhabited

/-- An accepted host command: the function and queue it came on and its tag (Table 17.2). -/
structure CmdRef where
  fn    : FnId
  queue : QueueId
  tag   : BitVec 32
  n     : Nat := 0     -- how many commands of the queue were accepted before it: a tag may come again (R378)
  deriving DecidableEq, Repr, Inhabited

/-- Who writes a register (R476): a host function, a service core or an enclave core. -/
inductive Writer where
  | host (f : FnId)
  | service (n : ScId)
  | enclave
  deriving DecidableEq, Repr, Inhabited

/-- A firmware image delivered by DMA or PLDM (R385, R396): what its verification finds. -/
structure FwImage where
  compat  : BitVec 16
  version : BitVec 16
  secver  : BitVec 16
  digestOk : Bool     -- its ECDSA signature verifies against the fused firmware key
  deriving DecidableEq, Repr, Inhabited

/-- The enclave firmware that boot finds (R396): whether its signature verifies, and its security version. -/
structure EnclaveImage where
  ok     : Bool
  secver : BitVec 16
  deriving DecidableEq, Repr, Inhabited

/-- What the host pushes (R428): the enclave firmware that boot finds, and the time that step 2 takes. -/
structure PushedEnclave extends EnclaveImage where
  us : Nat
  deriving DecidableEq, Repr, Inhabited

/-- The RC registers (Table 0.6) that a host can read. -/
inductive RcReg where
  | linkFecCorr (l : LinkId) | linkFecUncorr (l : LinkId) | linkAuthFail (l : LinkId)
  | linkReplay (l : LinkId) | linkDup (l : LinkId) | linkLate (l : LinkId)
  | nearLoad (n : StackId) | nearCe (n : StackId) | nearUe (n : StackId)
  | galCe | galUe | farRetry | farUe | cmdEvLost (f : FnId)
  deriving DecidableEq, Repr, Inhabited

/-- Reference candidates (Table 2.6). -/
inductive RefCand where
  | l62 | l63 | tref
  deriving DecidableEq, Repr, Inhabited

/-- A reference edge that arrives within the tolerance of R46: a beat with the master's tread count, or every 100th
period of TREF. -/
inductive Edge where
  | l62 (count : Nat) | l63 (count : Nat) | tref
  deriving DecidableEq, Repr, Inhabited

/-- What a module of a task sends another about an armed step change (R39): the lead's notice of tread n, its
cancellation, a member's report that it refused the arm, or a member's request for a step up or down (R458). -/
inductive ArmNotice where
  | arm (n : Nat) | cancel | refused | ask (up : Bool)
  deriving DecidableEq, Repr, Inhabited

/-- Which block RST_BLOCK_MISC, _HALL, _CORE or _LINK names (R425). -/
inductive Block where
  | hall (h : HallId) | core (c : CoreId) | link (l : LinkId) | near (n : StackId)
  | far | strm | mesh | sc (n : ScId)
  deriving DecidableEq, Repr, Inhabited

/-- Straps sampled at POR (Table 19.4). -/
structure Straps where
  bootSrc : BitVec 2
  clkMode : BitVec 2
  mgmtPortSel : Bool
  deriving DecidableEq, Repr, Inhabited

/-- The outcome of a far-tier or near-tier read that firmware makes: threshold retries of its pages, and the record
that no step could read. -/
inductive MediaResult where
  | ok (retries : Nat)
  | unreadable (retries : Nat) (record : Nat)
  | keyFail      -- the key that the records name is not held (R334)
  deriving DecidableEq, Repr, Inhabited

/-- A digest check's outcome that SC4 finds while it copies or verifies layers (R307, R316). -/
inductive LayerResult where
  | ok | badLayer (layer : Nat) | badTable
  deriving DecidableEq, Repr, Inhabited

/-- Lane findings of DETECT (Table 12.6). -/
structure DetectResult where
  present  : Bool
  openLanes  : BitVec 4
  shortLanes : BitVec 4
  polFixed : Bool
  laneSwap : Bool
  deriving DecidableEq, Repr, Inhabited

/-- One sensor sample of R459, in units of 0.1 degrees C. -/
structure ThermalReadings where
  hall     : List (HallId × Int)   -- logic die, per hall
  die      : Int                   -- hottest of mesh, link banks, control complex
  gallery  : Int
  near     : List (StackId × Int)
  farTier  : Int
  plate    : Int
  deriving DecidableEq, Repr, Inhabited

/-- The requester's side of an SPDM session (R386, R399). -/
structure SpdmPeer where
  session    : Nat
  mutualAuth : Bool
  rootDigest : BitVec 384
  deriving DecidableEq, Repr, Inhabited

/-- One command of the block: a row of spec/opcode_table.json. -/
inductive Instr where
  -- Control instructions (08, Table 8.6): core, word
  | nop (c : CoreId) (w : IWord)
  | halt (c : CoreId) (w : IWord)
  | loop (c : CoreId) (w : IWord)
  | jump (c : CoreId) (w : IWord)
  | call (c : CoreId) (w : IWord)
  | ret (c : CoreId) (w : IWord)
  | setkSet (c : CoreId) (w : IWord)
  | setkAdd (c : CoreId) (w : IWord)
  | setkCopy (c : CoreId) (w : IWord)
  | setkLoad (c : CoreId) (w : IWord)
  | setkFlags (c : CoreId) (w : IWord)
  | setkFlagClear (c : CoreId) (w : IWord)
  | setkFlagSet (c : CoreId) (w : IWord)
  | waitcc (c : CoreId) (w : IWord)
  | signalCc (c : CoreId) (w : IWord)
  | land (c : CoreId) (w : IWord)
  | untilTread (c : CoreId) (w : IWord)
  | fence (c : CoreId) (w : IWord)
  | exitRound (c : CoreId) (w : IWord)
  | instructionFetch (c : CoreId)
  -- Matrix (05, 09)
  | mLoadx (c : CoreId) (w : IWord)
  | mRun (c : CoreId) (w : IWord)
  | mDrain (c : CoreId) (w : IWord)
  | mClear (c : CoreId) (w : IWord)
  | mScale (c : CoreId) (w : IWord)
  | mFlight (c : CoreId) (w : IWord)
  | arrayLine (c : CoreId)
  | drainSnapshot (c : CoreId)
  | matrixCompletion (c : CoreId)
  -- Vector and set (06, 09)
  | vAdd (c : CoreId) (w : IWord)
  | vSub (c : CoreId) (w : IWord)
  | vMul (c : CoreId) (w : IWord)
  | vFma (c : CoreId) (w : IWord)
  | vMax (c : CoreId) (w : IWord)
  | vMin (c : CoreId) (w : IWord)
  | vCmp (c : CoreId) (w : IWord)
  | vSelect (c : CoreId) (w : IWord)
  | vCvt (c : CoreId) (w : IWord)
  | vExp2 (c : CoreId) (w : IWord)
  | vLog2 (c : CoreId) (w : IWord)
  | vRcp (c : CoreId) (w : IWord)
  | vRsqrt (c : CoreId) (w : IWord)
  | vTanh (c : CoreId) (w : IWord)
  | vSigm (c : CoreId) (w : IWord)
  | vSum (c : CoreId) (w : IWord)
  | vNorm (c : CoreId) (w : IWord)
  | vRope (c : CoreId) (w : IWord)
  | vGather (c : CoreId) (w : IWord)
  | vScatter (c : CoreId) (w : IWord)
  | vTopk (c : CoreId) (w : IWord)
  | vSort (c : CoreId) (w : IWord)
  | vRand (c : CoreId) (w : IWord)
  | vectorCompletion (c : CoreId)
  -- Stream (07, 09)
  | sCopy (c : CoreId) (w : IWord)
  | sFill (c : CoreId) (w : IWord)
  | sGather (c : CoreId) (w : IWord)
  | sScatter (c : CoreId) (w : IWord)
  | sAtomadd (c : CoreId) (w : IWord)
  | sPennantClear (c : CoreId) (w : IWord)
  | sPennantStore (c : CoreId) (w : IWord)
  | sPennantFold (c : CoreId) (w : IWord)
  | sPennantEmit (c : CoreId) (w : IWord)
  | streamElementGenerate (c : CoreId)
  | streamElementComplete (c : CoreId) (instr : Nat) (elem : Nat)
  -- Message (09, 11)
  | xSend (c : CoreId) (w : IWord)
  | xCast (c : CoreId) (w : IWord)
  | xReduce (c : CoreId) (w : IWord)
  | xReducea (c : CoreId) (w : IWord)
  | xExpect (c : CoreId) (w : IWord)
  | messageCompletion (c : CoreId)
  | reductionCombine (c : CoreId)
  | inboundPacket (packet : Nat)
  | acceptanceNotice (packet : Nat)
  | refusal (packet : Nat)
  | lateNotice (c : CoreId) (pc : BitVec 32) (receiver : BitVec 18) (seq : BitVec 12)
  | seqGapNotice (c : CoreId) (pc : BitVec 32) (receiver : BitVec 18) (seq : BitVec 12)
  -- Core events (03)
  | eccWriteBack (c : CoreId) (bank : Fin 512)
  | scrubStep (c : CoreId) (bank : Fin 512)
  | flagTimeout (c : CoreId)
  | hardwareClear (c : CoreId)
  -- Treads, landings, steps (02, 10)
  | treadBoundary
  | landingRelease (task : BitVec 32)
  | landingHoldLimit (task : BitVec 32)
  | armedStepChange
  | armedWheelChange (n : StackId)
  | landingReport (task : BitVec 32) (epoch : BitVec 32) (report : MemberReport)
  | releaseMessage (task : BitVec 32) (epoch : BitVec 32) (newEpoch : BitVec 32) (kind : Option Nat) (r : Nat)
  | armedChangeNotice (task : BitVec 32) (epoch : BitVec 32) (what : ArmNotice) (step : BitVec 3)
  | abortCore (task : BitVec 32)
  | abortModule (task : BitVec 32) (epoch : BitVec 32) (originReason : BitVec 8) (originAddr : BitVec 18) (stamp : BitVec 32)
  | taskFault (task : BitVec 32)
  -- Reference and calendar (02)
  | referenceQualified (r : RefCand)
  | referenceLost (r : RefCand)
  | referenceSwitchEnd
  | holdoverLimit
  | beat (e : Edge) (phasePs10 : Int)
  | calendarSecond
  -- Register accesses with a row of their own (22)
  | treadCountLoRead (f : FnId)
  | calDateRead (f : FnId)
  | clkStepAtHiWrite (v : Word)
  | nearWheelAtHiWrite (n : StackId) (v : Word)
  | linkCtlRetrain (l : LinkId)
  | linkCtlDisable (l : LinkId)
  | linkCtlEnable (l : LinkId)
  | linkOffExit (l : LinkId)
  | blockResetHall (core : Option CoreId) (h : HallId)
  | blockResetLink (l : LinkId)
  | blockResetNear (n : StackId)
  | blockResetFar
  | blockResetStrm
  | blockResetMesh
  | blockResetSc (n : ScId)
  | queueEnable (f : FnId) (q : QueueId) (v : Word)
  | queueDisable (f : FnId) (q : QueueId)
  | commandTailDoorbell (f : FnId) (q : QueueId) (v : Word)
  | replyHeadDoorbell (f : FnId) (q : QueueId) (v : Word)
  | protLockWrite (v : Word)
  | rcCounterRead (f : FnId) (r : RcReg)
  | registerWrite (by_ : Writer) (offset : BitVec 25) (size : Nat) (v : BitVec 64)
  -- Links (12, 13)
  | frameSlot (l : LinkId) (slot : Fin 339)
  | frameReceipt (l : LinkId) (f : Frame)
  | statusFrame (l : LinkId) (rx : StatusRx) (p : StatusPayload)
  | messageAssembled (l : LinkId) (head : BitVec 16) (group : Nat)
  | twoHopForward (l : LinkId) (head : BitVec 16) (frame : Nat)
  | linkMessageLate (l : LinkId) (head : BitVec 16)
  | rekeyArm (l : LinkId) (at_ : Nat)
  | epochChange (l : LinkId)
  | oldKeyDestroy (l : LinkId)
  | leaseExpiry (l : LinkId)
  | noValidFrame (l : LinkId)
  | detect (l : LinkId) (r : DetectResult)
  | equalise (l : LinkId)
  | align (l : LinkId)
  | identify (l : LinkId) (r : IdentityRec)
  | secure (l : LinkId) (cert : CertResult)
  | timeLink (l : LinkId) (partnerCount : Nat) (own partner : Int)
  | trainingTimeout (l : LinkId)
  | presenceLost (l : LinkId)
  | backoffExpiry (l : LinkId)
  | trainingLimit (l : LinkId)
  | presenceProbe (l : LinkId) (found : Bool)
  -- Host command transport (17)
  | commandFetch (f : FnId) (q : QueueId) (packet : Option (List Byte))
  | eventHoldRelease (f : FnId)
  | functionReset (f : FnReset)
  -- MODULE (17)
  | moduleIdentify (r : CmdRef)
  | moduleStatus (r : CmdRef)
  | moduleEvents (r : CmdRef) (q : QueueId)
  | moduleReset (r : CmdRef)
  | moduleShutdown (r : CmdRef)
  | modulePowerPolicy (r : CmdRef)
  | moduleFwStage (r : CmdRef) (img : Option FwImage)
  | moduleFwActivate (r : CmdRef) (slotB : Bool)
  -- PARTITION (18)
  | partitionCreate (r : CmdRef)
  | partitionDestroy (r : CmdRef)
  | partitionAssignHost (r : CmdRef) (owner : FnId)
  | partitionQuery (r : CmdRef)
  | partitionSetTag (r : CmdRef) (tag : BitVec 64)
  -- PROGRAM (10, 17)
  | programLoad (r : CmdRef) (image : Option (List Byte))
  | programAbort (r : CmdRef) (task : BitVec 32)
  | programUnload (r : CmdRef) (task : BitVec 32)
  | programStatus (r : CmdRef) (task : BitVec 32)
  | programSetKey (r : CmdRef) (position : Fin 4) (id : BitVec 32) (key : BitVec 768)
  | memberLoadReport (b : Banner) (member : Nat) (status : BitVec 16) (membersDigest : BitVec 384)
  | loadReportTimeout (b : Banner)
  | loadFailNotice (b : Banner) (status : BitVec 16) (failedMember : Nat)
  -- GALLERY (14, 17)
  | galleryOpen (r : CmdRef) (slot : SlotId) (length : Nat) (keyId : BitVec 32)
  | galleryWrite (r : CmdRef) (slot : SlotId) (offset : Nat) (data : Option (List Byte))
  | galleryCommit (r : CmdRef) (slot : SlotId) (header : List Byte)
  | commitVerifyDone (slot : SlotId)
  | galleryErase (r : CmdRef) (slot : SlotId)
  | eraseDone (slot : SlotId)
  | galleryGrant (r : CmdRef) (slot : SlotId) (owner : Banner)
  | gallerySwap (r : CmdRef) (swapId : Nat) (task : BitVec 32) (gref : Nat) (replace : Bool) (slot : SlotId)
  | galleryStatus (r : CmdRef) (slot : SlotId)
  | swapReady (task : SwapRef) (member : Nat) (status : BitVec 16)
  | swapReadyTimeout (task : BitVec 32)
  | swapApply (task : TaskRef)
  | swapCopyDone (task : BitVec 32)
  | swapReport (task : TaskRef) (member : Nat) (result : LayerResult)
  | backgroundVerify (slot : SlotId) (corrected : List (Nat × Nat)) (uncorrectable : List Nat)
  -- STREAM and serving (16)
  | streamAppend (r : CmdRef) (indirect : Option (List Word))
  | streamPause (r : CmdRef) (sid : Word)
  | streamResume (r : CmdRef) (sid : Word)
  | streamEnd (r : CmdRef) (sid : Word)
  | streamFree (r : CmdRef) (sid : Word)
  | streamQuery (r : CmdRef) (sid : Word) (position : Nat)
  | servingLanding (turn : ServingTurn)
  | parkComplete (sid : Word) (member : Nat) (result : MediaResult)
  | resumeComplete (sid : Word) (member : Nat) (result : MediaResult)
  -- MEMORY (16, 17)
  | memoryCreate (r : CmdRef) (store : Word)
  | memoryWrite (r : CmdRef) (store : Word) (first : Nat) (entries : Option (List (List Byte)))
  | memoryRead (r : CmdRef) (store : Word) (first : Nat) (count : Nat) (media : Option MediaResult)
  | memoryDelete (r : CmdRef) (store : Word)
  | memoryAttach (r : CmdRef) (store : Word) (sid : Word)
  -- FABRIC (12, 13)
  | fabricSetManifest (r : CmdRef) (manifest : Option (List Byte))
  | fabricGetManifest (r : CmdRef) (offset : Nat) (length : Nat)
  | fabricLinkCtl (r : CmdRef) (l : LinkId) (v : Word)
  | fabricLinkStatus (r : CmdRef) (l : LinkId)
  -- SECURITY (18)
  | securityKeyStatus (r : CmdRef)
  | securityKeyDiscard (r : CmdRef) (gallery : Bool) (keyId : BitVec 32) (force : Bool)
  | securityLifecycleQuery (r : CmdRef)
  | securityLifecycle (r : CmdRef) (target : Fin 5) (nonce : BitVec 128) (token : List Byte)
  | securityCertRead (r : CmdRef)
  -- DIAG (20)
  | diagPennantRead (r : CmdRef)
  | diagLogRead (r : CmdRef) (first : Nat) (count : Nat)
  | diagCrashRead (r : CmdRef)
  | diagCounters (r : CmdRef)
  -- TIME (02, 17)
  | timeSetCalendar (r : CmdRef)
  | timeGet (r : CmdRef)
  -- SPDM and PLDM (17, 18)
  | keyDeliver (session : Nat) (payload : List Byte)
  | keyDiscard (session : Nat) (payload : List Byte)
  | setWriteKey (session : Nat) (payload : List Byte)
  | getCertificate
  | challenge (nonce : BitVec 256)
  | getMeasurements
  | keyExchange (p : SpdmPeer)
  | pldmFirmwareUpdate (img : FwImage)
  | keyExpiry (slot : Fin 64)
  -- Near and far tiers, diagnostics in the background (15, 20)
  | nearTierRequest (n : StackId) (c : CoreId) (instr : Nat) (elem : Nat)
  | patrolScrub (n : StackId)
  | journalFlush (bytes : Nat)
  | pennantRecord (record : Nat)
  | eventLogFlush
  -- Power, thermal, coolant (21)
  | inputOvervoltage
  | inputOvercurrent
  | railFault
  | tripRestart (s : Straps)
  | avsTrim (h : HallId) (deltaMv : Int)
  | powerWindow (vIn10mV : Nat) (iIn10mA : Nat) (halls : List (HallId × Nat))
  | powerExhaustion (b : Banner)
  | thermalSample (t : ThermalReadings)
  | emergencyStep
  | throttleStep (h : HallId)
  | throttleEnd
  | coolantWarning (flow : Nat) (inlet : Int)
  | coolantWarningEnd (flow : Nat) (inlet : Int)
  | coolantTrip (flow : Nat) (inlet : Int)
  | smbusStuck (datLow : Bool) (stillLow : Bool)
  -- Resets (19)
  | por (s : Straps)
  | bor (rail : Bool)
  | pin (lowNs : Nat)
  | dbg
  | wdtSystem
  | wdtServiceCore (n : ScId)
  | ckf (pll : Bool)
  | swr
  | lck (n : ScId)
  | cmdReset
  | resetTakesEffect
  | rstCountExpiry
  -- Bring-up (19)
  | rails (us : Nat)
  | optionReader (copyA : List Byte) (copyB : List Byte) (us : Nat)
  | enclaveBoot (enclave : EnclaveImage) (activeOk : Bool) (otherOk : Bool) (img : FwImage) (us : Nat)
  | hostPush (enclave : PushedEnclave) (imageOk : Bool) (img : FwImage)
  | serviceCores (x : CoresUp)
  | crossingCalibration (worst : List (BitVec 8)) (us : Nat)
  | nearTierBringup (trained : BitVec 8) (us : Nat)
  | farTierBringup (holdupMs : BitVec 16) (ready : Bool) (us : Nat)
  | linksBringup (us : Nat)
  | ready
  -- Rows at the end of the table
  | illegalInstruction (c : CoreId) (word : BitVec 128)
  | inputRestored (s : Straps)
  | fecLockLost (l : LinkId) (presence : Bool)
  | pcieLinkUp (port : Fin 2) (rate : BitVec 3) (wide : Bool)
  | blockBackInService (b : Block)
  | farTierReady
  | namespaceEraseDone (b : Banner)
  | zeroFillDone (b : Banner)
  deriving DecidableEq, Repr, Inhabited

end Sys2Proof
end

