-- ==== Sys2Proof/WellFormed.lean ====
section
/-! DEFINITION. Well-formed commands: what a sender of a command must meet for the command to be one of its row. -/

namespace Sys2Proof

/-- The low three modifier bits of a SETK word name its mode (Table 8.5). -/
def setkModeOk (mode : Nat) (w : IWord) : Bool := w.mod.toNat % 8 == mode
/-- The low two modifier bits of an S.PENNANT word name its mode (R207). -/
def pennantModeOk (mode : Nat) (w : IWord) : Bool := w.mod.toNat % 4 == mode

/-- A data frame carries 64 bytes, a head frame a head (R258, R267). -/
def Frame.ok (f : Frame) : Bool :=
  match f.kind with
  | .schedHead | .bulkHead => f.head.isSome && f.data.isEmpty
  | .schedData | .bulkData => f.head.isNone && f.data.length == 64
  | _ => f.head.isNone && decide (f.data.length ≤ 64)

/-- A status payload names three classes and at most as many NAK entries as its frame holds (Table 12.3). -/
def StatusPayload.ok (p : StatusPayload) : Bool :=
  p.sent.length == 3 && p.ack.length == 3 && decide (p.naks.length ≤ 8)

/-- Every offset is 4-byte aligned for a write that has an effect; sizes are those of R474. -/
def sizeOk (n : Nat) : Bool := n == 1 || n == 2 || n == 4 || n == 8

/-- Well-formedness of a command. -/
def Instr.wf : Instr → Bool
  | .setkSet _ w => setkModeOk 0 w
  | .setkAdd _ w => setkModeOk 1 w
  | .setkCopy _ w => setkModeOk 2 w
  | .setkLoad _ w => setkModeOk 3 w
  | .setkFlags _ w => setkModeOk 4 w
  | .setkFlagClear _ w => setkModeOk 5 w
  | .setkFlagSet _ w => setkModeOk 6 w
  | .sPennantClear _ w => pennantModeOk 0 w
  | .sPennantStore _ w => pennantModeOk 1 w
  | .sPennantFold _ w => pennantModeOk 2 w
  | .sPennantEmit _ w => pennantModeOk 3 w
  | .frameReceipt _ f => f.ok
  | .statusFrame _ _ p => p.ok
  | .registerWrite _ off n _ => sizeOk n && off.toNat % n == 0
  | .commandFetch _ _ (some p) => decide (p.length ≤ 4096)
  | .galleryCommit _ _ h => h.length == 512
  | .streamAppend _ (some toks) => decide (toks.length ≤ 4096)
  | .optionReader a b _ => a.length == 4096 && b.length == 4096
  | _ => true

abbrev WellFormed (i : Instr) : Prop := i.wf = true

end Sys2Proof
end

