-- ==== Sys2Proof/Decode.lean ====
section
/-! DEFINITION. Words of the table. No row of spec/opcode_table.json gives bits: its rows are operations and events,
so no word spells one (R167 to R190 give the 128-bit instruction words, which Machine/Operands.lean encodes). -/

namespace Sys2Proof

/-- The command a word of the table spells: none, since the table gives no row any bits. -/
def decodeTableWord (_nbits _w : Nat) : Option Instr := none

end Sys2Proof
end

