-- ==== Sys2Proof/Config.lean ====
section
/-! DEFINITION. The free values: what the manual leaves open, or computes by an external standard.
Every constant here is opaque: nothing can prove a value of it (notes/assumptions/1.md, 2.md). -/

namespace Sys2Proof.Config

/-- A fresh value the manual leaves open, numbered by the counter `State.fresh` and an index within one command
(log 1). -/
opaque freeNat : Nat → Nat → Nat

/-- Which result within the bound of Table 6.3 a transcendental delivers: one fixed function of the
instruction's number and its FP32 input (R135). The model keeps only results within the bound (log 2). -/
opaque transPick : Nat → BitVec 32 → Nat

/-- SHA-384 of a byte string (R217, R302, R303; the algorithm is an external standard, log 3). -/
opaque sha384 : List (BitVec 8) → BitVec 384

/-- ECDSA P-384 verification of (r, s) over a digest under a public key (R226, log 3). -/
opaque ecdsaVerify : (key : BitVec 768) → (digest : BitVec 384) → (r : BitVec 384) → (s : BitVec 384) → Bool

/-- Krevore's life-cycle token check: a signature over the serial number, target and nonce under the
key fused in OTP (R408, log 3). -/
opaque tokenValid : (serial : BitVec 128) → (target : Nat) → (nonce : BitVec 128) → (token : List (BitVec 8)) → Bool

/-- A further Krevore token for the test modes is at hand and valid (R410, log 3), numbered by `State.fresh`. -/
opaque testToken : (serial : BitVec 128) → (draw : Nat) → Bool

/-- A random word of the enclave's generator (R361, R391, R408), numbered by `State.fresh` (log 1). -/
opaque enclaveRandom : Nat → BitVec 128

/-- The voltage fused for a step of a hall, as a number within the range of Table 21.4 (R454, log 1). -/
opaque fusedMv : (hall : Nat) → (step : Nat) → Nat

/-- Byte `i` of the plaintext of a 4 KiB data unit of an image under AES-256-XTS (R304, log 3). -/
opaque xtsByte : (key : BitVec 256) → (unit : Nat) → (cipher : List (BitVec 8)) → (i : Nat) → BitVec 8

/-- The nonce of the far-tier record with a sequence number (R334, log 1). -/
opaque farNonce : (seq : Nat) → BitVec 96

/-- AES-256-GCM tag of a far-tier record over its metadata and its data (R334, log 3). -/
opaque gcmTag : (key : BitVec 256) → (nonce : BitVec 96) → (metadata : List Nat) → (data : List (BitVec 8)) → BitVec 128

/-- The session secret that SECURE derives (R272), numbered by `State.fresh` (log 1). -/
opaque linkSecret : Nat → BitVec 384

/-- The key and the salt of a direction (outward or inward) and key epoch of a link: HKDF-SHA-384 of its session secret
(R272, log 3). -/
opaque linkKey : (secret : BitVec 384) → (outward : Bool) → (epoch : Nat) → BitVec 256 × BitVec 32

/-- AES-256-GCM of a link frame: the 64 bytes of ciphertext and the 8 bytes of tag (R259, log 3). -/
opaque gcmFrame : (key : BitVec 256) → (iv : BitVec 96) → (header : List (BitVec 8)) → (payload : List (BitVec 8)) → List (BitVec 8)

/-- Digest of firmware part `index` of Table 18.4 at a security version (log 3). -/
opaque fwDigest : (index : Nat) → (secver : Nat) → BitVec 384

/-- How many treads an operation of the configuration flash takes that begins at a tread (R421, log 1). -/
opaque flashTreads : (tread : Nat) → Nat

/-- The identity certificate chain of a module (R386, log 3). -/
opaque certChain : (serial : BitVec 128) → List (BitVec 8)

/-- Signature by the module's identity key, ECDSA P-384 (R386, log 3). -/
opaque identitySign : (serial : BitVec 128) → List (BitVec 8) → List (BitVec 8)

end Sys2Proof.Config
end

