-- ==== Sys2Proof/Machine/State.lean ====
section
/-! DEFINITION. The state of one SW9 module, as plain data: every register, buffer, queue, counter and mode
the manual gives it, and the queue of commands that wait. A table `Tbl` lists the entries that differ from the
reset entry of its kind; `Mem` is memory in canonical form (addresses strictly rising, no byte 0 listed). -/

namespace Sys2Proof.Machine

/-- A table from small numbers to entries; what is not listed reads as the default its reader names. -/
abbrev Tbl (α : Type) := List (Nat × α)

/-- Bytes by address, in one canonical form; an unlisted byte reads as 0 (log 4). -/
abbrev Mem := List Host.Cell

/-- Ways the model stops. No rule of the manual leaves an operation of the table without an effect, so no
meaning raises a fault, and the type has no constructor. -/
inductive Fault where
  deriving DecidableEq, Repr

/-- Refusals of the model. -/
inductive Refusal where
  /-- The command has no meaning yet; raised by a refused arm of exec only; safe. -/
  | notModelled (mnemonic : String)
  deriving DecidableEq, Repr

/-! ### One core (R57, Table 3.1) -/

/-- Core states (Table 3.2). -/
inductive CoreSt where
  | off | idle | loaded | running | landed | halted | clearing
  deriving DecidableEq, Repr, Inhabited

/-- Engine classes (Table 8.2). -/
inductive Engine where
  | control | matrix | vector | stream | message
  deriving DecidableEq, Repr, Inhabited

/-- The engine field of a fault record (Table 10.11). -/
inductive FaultEngine where
  | of (e : Engine) | none
  deriving DecidableEq, Repr, Inhabited

/-- Fault record (Table 10.11). -/
structure FaultRec where
  module  : BitVec 16
  core    : BitVec 8
  reason  : BitVec 8
  address : BitVec 32
  engine  : FaultEngine
  valid   : Bool
  origin  : Bool
  round   : BitVec 32
  tread   : BitVec 32
  stamp   : BitVec 32
  aux     : BitVec 64
  deriving DecidableEq, Repr, Inhabited

/-- What the fetch unit holds for an address (R171): a word, or a fault with its auxiliary word. -/
inductive Fetched where
  | word (w : BitVec 128)
  | fault (reason : BitVec 8) (aux : BitVec 64)
  deriving DecidableEq, Repr, Inhabited

/-- An open loop level (R182, R183): iterations remaining, first and last instruction address, call depth it
was opened in. -/
structure LoopLvl where
  count : BitVec 32
  first : BitVec 32
  last  : BitVec 32
  depth : Nat
  buf   : List (BitVec 32 × Fetched)   -- the loop buffer: the first 16 instructions of the body
  deriving DecidableEq, Repr, Inhabited

/-- The signal of an instruction that is in flight: address, counter to signal (R176) and the tread of issue. -/
structure Tag where
  ord   : Nat           -- issue order on the core
  pc    : BitVec 32
  sig   : Option (BitVec 4)
  tread : Nat           -- tread of the round in which it issued
  deriving DecidableEq, Repr, Inhabited

/-- Special state of an accumulator lane (R95). -/
inductive LaneSt where
  | finite | posInf | negInf | nan
  deriving DecidableEq, Repr, Inhabited

/-- An accumulator lane (R91, R95). -/
structure Lane where
  acc : BitVec 64
  st  : LaneSt
  deriving DecidableEq, Repr, Inhabited

/-- A pass on an accumulator set in program order (R89, R91, R121). -/
structure Pass where
  isOpen : Bool
  scaleA : Int
  scaleB : Int
  drainE : Int
  hasRun : Bool
  fmtA   : BitVec 4
  fmtB   : BitVec 4
  g      : Nat
  m      : Nat
  kTotal : Nat
  anchor : Int
  scaleTag : Option Tag    -- the M.SCALE that has not completed (R116)
  deriving DecidableEq, Repr, Inhabited

/-- Flight store modes (Table 5.3). -/
inductive FlightMode where
  | empty | flight | scale | uniform
  deriving DecidableEq, Repr, Inhabited

/-- An instruction of the A unit: an M.RUN or an M.FLIGHT with the lines it has taken (R116, R117). -/
inductive AOp where
  | run (t : Tag) (set : Bool) (half : Bool) (base : BitVec 32) (fmtA fmtB : BitVec 4) (g m lines koff : Nat)
        (scaleA scaleB : Int) (anchor : Int) (taken : Nat) (flags : BitVec 8) (scaleTag : Option Tag)
  | flight (t : Tag) (mode : FlightMode) (base : BitVec 32) (q : Nat) (unif : BitVec 8) (lines : Nat) (taken : Nat)
  deriving DecidableEq, Repr, Inhabited

/-- An instruction of the X unit: M.LOADX, the accesses of it that have been served, and whether that is all of them
(R111, R116). -/
structure XOp where
  tag   : Tag
  half  : Bool
  src   : BitVec 32
  scale : Option (BitVec 32)
  fmtB  : BitVec 4
  k     : Nat
  cols  : Nat
  reads : Nat
  copied : Bool
  deriving DecidableEq, Repr, Inhabited

/-- An instruction of the drain unit: M.DRAIN before or after its snapshot, or M.CLEAR (R113). -/
inductive DOp where
  | drain (t : Tag) (set : Bool) (sat fold : Bool) (dst : BitVec 32) (scale : Option (BitVec 32)) (fmt : BitVec 4)
          (drainE anchor : Int) (g m : Nat) (snapped : Bool) (written : Nat) (flags : BitVec 8)
  | clear (t : Tag) (set : Bool) (scaleTag : Option Tag) (done : Bool)
  deriving DecidableEq, Repr, Inhabited

/-- Matrix state of one core. -/
structure Matrix where
  xElem   : Tbl Mem          -- element area of half 0, 1 (R110)
  xScale  : Tbl Mem          -- scale area of half 0, 1
  xK      : Tbl Nat          -- loaded K of half 0, 1, in issue order (R121)
  xCols   : Tbl Nat          -- column count of the half's most recent M.LOADX (R95)
  xLive   : Tbl Nat          -- column count in effect for the products
  flight  : Mem              -- flight store (R109)
  flMode  : FlightMode       -- mode and coverage in issue order (R121)
  flQ     : Nat
  liveMode : FlightMode      -- mode and uniform byte in effect for the products
  liveUnif : BitVec 8
  pass    : Tbl Pass         -- of set 0, 1
  acc     : Tbl (Tbl Lane)   -- lanes of set 0, 1, by row * 32 + column
  drainBuf : Tbl Lane        -- drain buffer (R113)
  aq      : List AOp
  xq      : List XOp
  dq      : List DOp
  deriving DecidableEq, Repr, Inhabited

/-- A V. instruction that has issued and not executed to its end: opcode, word, constants at issue, the vector
registers when it began, the reads served so far in order, and how many write accesses it has made (R129, R75). -/
structure VTodo where
  op     : Nat
  word   : IWord
  k      : Tbl (BitVec 32)
  regs   : Option (Tbl (BitVec 32))
  reads  : List (List Byte)
  writes : Nat
  deriving DecidableEq, Repr, Inhabited

/-- A V. instruction that has executed and not completed: its flag summary and the bytes it overwrote, as they
stood before (R130, R131), and the vector registers it writes (none listed where it also writes the scratchpad) and names
(R129). -/
structure VPend where
  tag   : Tag
  flags : BitVec 8
  old   : List Host.Cell
  dsts  : List Nat
  uses  : List Nat
  todo  : Option VTodo   -- not executed to its end yet
  deriving DecidableEq, Repr, Inhabited

/-- End kinds (Table 7.1). -/
inductive EndKind where
  | loc | near | gallery | die | remote
  deriving DecidableEq, Repr, Inhabited

/-- A captured end of a transfer (R150, R179): its base, counts, strides, gallery slot or core. -/
structure StreamEnd where
  kind   : EndKind
  base   : Nat
  counts : List Nat
  strides : List Int
  slot   : Nat       -- gallery slot
  core   : Nat       -- die: core index; remote: 18-bit global address
  deriving DecidableEq, Repr, Inhabited

/-- The kinds of S. instructions in flight. -/
inductive StreamOp where
  | copy | fill (lo hi : BitVec 32) | gather | scatter | atomadd (fp : Bool) (ix : Bool)
  | pennant (mode : BitVec 2) (layer : BitVec 16)
  deriving DecidableEq, Repr, Inhabited

/-- An issued S. instruction (R153, R155, R160). -/
structure StreamInstr where
  tag   : Tag
  op    : StreamOp
  src   : StreamEnd
  dst   : StreamEnd
  idx   : Option (BitVec 32)
  n     : Nat
  esz   : Nat          -- E in bytes
  due   : Nat          -- d; 0 for S.PENNANT
  issueAt : Nat        -- TREAD_COUNT of the issue
  oob   : Bool
  pn    : Option (Fin 4)
  link  : BitVec 12
  next  : Nat          -- next element to generate
  got   : List Byte    -- bytes of its source read so far (R75)
  ixGot : Option (List Byte)   -- its index, read while a flag holds its source (R157)
  doneCount : Nat      -- elements completed
  deriving DecidableEq, Repr, Inhabited

/-- Where an outstanding element stands (R155, R162). -/
inductive ElemStage where
  | ready          -- can complete: local copy, fill, gallery read, zeros, discarded
  | nearReq        -- waits for a near-tier controller
  | served         -- the controller has answered or accepted it
  | awaitData      -- a get waits for its data packet
  | dataHere       -- the get's data has arrived
  | awaitAccept    -- a put waits for its acceptance notice
  | accepted       -- the notice is back
  deriving DecidableEq, Repr, Inhabited

/-- A transfer entry (R153). -/
structure Elem where
  ord   : Nat          -- the instruction's issue order
  elem  : Nat
  stage : ElemStage
  src   : Nat          -- address or offset at the source end
  dst   : Nat          -- address or offset at the destination end
  data  : List Byte    -- bytes carried
  written : Nat        -- bytes already written at a local destination
  oob   : Bool         -- gathered as zeros or discarded (R157)
  wait  : List (BitVec 16)   -- sequence numbers of put packets without a notice yet, or the number of a get
  parts : Tbl (List Byte)    -- data of a get that has arrived, by offset
  ue    : Option Nat   -- the source reported an uncorrectable beat at this offset (R161)
  deriving DecidableEq, Repr, Inhabited

/-- A pennant accumulator (R163). -/
structure PenAcc where
  digest : BitVec 64
  length : BitVec 48
  deriving DecidableEq, Repr, Inhabited

/-- A digested transfer whose elements are not all appended (R163): accumulator, elements, and the CRCs of
completed elements that wait for an earlier one. -/
structure PenRun where
  ord  : Nat
  acc  : Fin 4
  n    : Nat
  esz  : Nat
  next : Nat
  crcs : Tbl (Option (BitVec 64))   -- none: the element was discarded and digests nothing
  deriving DecidableEq, Repr, Inhabited

/-- Reduction operators and formats (Table 9.9). -/
structure RedShape where
  axis : Bool
  op   : BitVec 2
  fmt  : BitVec 2
  all  : Bool
  arrival : Bool        -- X.REDUCEA
  deriving DecidableEq, Repr, Inhabited

/-- A message instruction that has sent and not completed at the sender (R210); of a remote one, the messages the
link bank holds, by link and head. -/
structure XPend where
  tag : Tag
  out : List (Nat × HeadInfo)
  deriving DecidableEq, Repr, Inhabited

/-- A message instruction that has issued and waits to begin (R212, Table 8.2), with the constants of its issue. -/
structure XWait where
  tag  : Tag
  op   : Nat
  word : IWord
  k    : Tbl (BitVec 32)
  issued : Nat             -- TREAD_COUNT of the issue
  got    : List Byte       -- bytes of its source read so far (R75)
  deriving DecidableEq, Repr, Inhabited

/-- A message that has left, kept until its deadline so that a refusal or a late notice finds its instruction. -/
structure SentMsg where
  dest : BitVec 18
  seq  : BitVec 16
  pc   : BitVec 32
  deadline : Nat
  ord  : Nat := 0            -- issue order of its instruction
  deriving DecidableEq, Repr, Inhabited

/-- A pending X.EXPECT (R212): counter, count, tread, and its instruction. -/
structure Expect where
  tag   : Tag
  cc    : BitVec 4
  count : BitVec 32
  tread : Nat
  deriving DecidableEq, Repr, Inhabited

/-- A reduction whose root's instruction has issued (R211, R254): destination, member mask, and the positions that
have arrived with each member's own counter and core index. -/
structure RootRed where
  shape  : RedShape
  dst    : BitVec 32
  len    : Nat
  rcc    : BitVec 4
  mask   : BitVec 32
  slot   : BitVec 12
  remote : Bool
  arrived : Tbl (BitVec 4 × Nat)
  started : List Nat           -- X.REDUCEA: packets of the result that a contribution has started
  pc     : BitVec 32
  issued : Nat
  ord    : Nat := 0
  deriving DecidableEq, Repr, Inhabited

/-- A mesh packet or packet train in flight (Table 11.1). `atom` marks an atomic add and its format; `len` and `back`
are a get request's length and the requester's destination address. -/
structure Packet where
  kind    : BitVec 4
  banner  : Banner
  source  : BitVec 18       -- global address of the sending core
  dest    : Nat             -- destination core index
  seq     : BitVec 16
  rcc     : BitVec 4
  part    : Nat
  parts   : Nat
  address : BitVec 32
  payload : List Byte
  atom    : Option Bool
  len     : Nat
  back    : BitVec 32
  reason  : BitVec 8        -- of a refusal
  deadline : Nat            -- TREAD_COUNT of the tread at whose end it must be usable
  fromLink : Bool           -- the link bank has checked its window (R247, R271)
  cls     : BitVec 2 := 0   -- class (R248): 0 scheduled, 1 replay-fed
  mcast   : Option (Bool × BitVec 16) := none   -- of a multicast copy: its axis and member mask
  slot    : BitVec 12 := 0  -- link schedule entry of remote traffic
  deriving DecidableEq, Repr, Inhabited

/-- The receive window for one source core (R252): the lowest number not yet received, and those above it. -/
structure Win where
  low  : Nat
  seen : List Nat
  deriving DecidableEq, Repr, Inhabited

/-- One issue-trace entry (R444). -/
structure TraceEntry where
  round : BitVec 32
  tread : BitVec 16
  cycles : BitVec 16
  firstPc : BitVec 32
  landPc : BitVec 32
  deriving DecidableEq, Repr, Inhabited

/-- An access that a flag holds (R76): engine, instruction (its issue order and PC), the part of it that the access is
(an element of a transfer; else 0), slot, direction, consecutive refusals. -/
structure RefusedAcc where
  engine : Engine
  ord : Nat
  part : Nat
  slot : Nat
  write : Bool
  pc : BitVec 32
  n : Nat
  deriving DecidableEq, Repr, Inhabited

def RefusedAcc.isOf (r : RefusedAcc) (e : Engine) (ord part : Nat) : Bool :=
  r.engine == e && r.ord == ord && r.part == part

/-- How a core stands in its current tread (R27, R29, R186). -/
inductive TreadSt where
  | open_              -- may issue
  | landed             -- LAND issued; waits for the boundary
  | untilT (n : Nat) (t : Tag)   -- waits in UNTIL for tread n
  deriving DecidableEq, Repr, Inhabited

/-- One core. -/
structure Core where
  st      : CoreSt
  reason  : BitVec 8          -- CORE_STAT.reason
  loadId  : Option Nat        -- the load that placed the core's program
  -- control
  pc      : BitVec 32
  fetchBuf : List (BitVec 32 × Fetched)
  k       : Tbl (BitVec 32)
  cc      : Tbl (BitVec 32)
  loops   : Tbl LoopLvl       -- open levels 0-3
  lcs     : Tbl (BitVec 32)   -- LC0-LC3 as crash capture reads them
  retStack : List (BitVec 32) -- newest first
  vflags  : BitVec 10
  treadSt : TreadSt
  exitOut : Option (BitVec 32)   -- exit outcome of the round: target when the word was non-zero
  ord     : Nat               -- next issue order number
  firstPc : Option (BitVec 32)   -- first instruction issued in the tread (R444)
  -- tables written by SC4
  rgn     : Tbl (BitVec 128)
  ad      : Tbl (BitVec 384)
  -- scratchpad
  mem     : Mem
  flags   : List Nat          -- slots that are full, ascending
  badWord : Tbl Bool          -- words with bad check bits: false corrected, true uncorrectable (R60, R64)
  badFlag : Tbl Bool          -- the same for the 64-flag words of the flag array (R68)
  wback   : Tbl Nat           -- write-back register of a bank: the word address (R64)
  fback   : Option Nat        -- write-back register of the flag array: the flag word (R64, R68)
  eccUe   : Bool
  eccUeScrub : Bool
  eccFlag : Bool
  ceCount : BitVec 16
  eccAddr : BitVec 32
  scrubPos : Tbl Nat          -- words of each bank checked since the pass began (R66)
  scrubPasses : BitVec 16
  scrubMs : BitVec 16
  scrubStart : Nat            -- TREAD_COUNT at which the pass began
  refusals : List RefusedAcc  -- accesses held by a flag, newest first (R76)
  -- engines
  mat     : Matrix
  vreg    : Tbl (BitVec 32)   -- lane l of Vr at r * 64 + l
  vq      : List VPend
  sq      : List StreamInstr
  elems   : List Elem
  strmHwm : Nat
  pens    : Tbl PenAcc
  penq    : List PenRun
  xwait   : List XWait
  xq      : List XPend
  sent    : List SentMsg
  expects : List Expect
  reds    : List RootRed
  txSeq   : Tbl (BitVec 16)   -- next sequence number to each destination core (R252)
  rxWin   : Tbl Win
  rxParts : List (BitVec 18 × BitVec 16 × List Nat)   -- parts of remote messages written so far (R247, R253)
  redIn   : List Packet       -- contributions that arrived before the root's own instruction (R211)
  -- records
  fault   : Option FaultRec
  trace   : List TraceEntry   -- newest first, at most 256
  deriving DecidableEq, Repr, Inhabited

/-! ### Halls, clocks, references and calendar (02) -/

/-- One hall (Tables 2.12, 3.9, 3.10, 21.16). -/
structure Hall where
  assigned : Bool
  banner   : Banner
  stepCur  : BitVec 3
  stepNext : BitVec 3
  mv       : BitVec 16       -- VHALLh
  fused    : Int             -- trim against the fused voltage, mV (R454)
  power    : BitVec 16
  deriving DecidableEq, Repr, Inhabited

inductive RefState where
  | acquire | locked | switching | holdover | free
  deriving DecidableEq, Repr, Inhabited

/-- Causes a time fault's log entry names (R50). -/
inductive TimeCause where
  | count | phase | holdover
  deriving DecidableEq, Repr, Inhabited

/-- Reference in use or target (Table 2.14). -/
inductive RefSource where
  | l62 | l63 | tref | tcxo
  deriving DecidableEq, Repr, Inhabited

/-- CLK block (Tables 2.10 to 2.18). -/
structure Clk where
  treadCount : Nat            -- 64-bit TREAD_COUNT
  countHiLatch : BitVec 32
  stepSel  : BitVec 3
  stepAtLo : BitVec 32
  stepAtHi : BitVec 32
  armAt    : Option Nat       -- the pending step change's count
  armSteps : List (BitVec 3)  -- the steps it names, H0 to H19
  armBusy  : Bool
  armLate  : Bool
  armBad   : Bool
  refState : RefState
  source   : RefSource
  target   : Option RefSource
  qual62   : Bool
  qual63   : Bool
  qualTref : Bool
  edges    : List RefCand     -- candidates whose edge has come within tolerance in this tread (R46)
  presence : Tbl Nat          -- consecutive treads in which a candidate was present, at most 1,000 (R46)
  absence  : Tbl Nat          -- consecutive treads in which it was absent, at most 2 (R46)
  clkModeErr : Bool
  phaseValid : Bool
  phasePs  : BitVec 16
  holdTimer : BitVec 16
  holdRun  : Bool
  switchLeft : Nat            -- treads of a switch still to run (R47)
  targetLost : Bool
  beatOff  : Option TimeCause  -- how the last beat in use differed from the module's own count and phase (R49)
  timeOut  : Bool            -- a time fault has put the module out of its tasks (R50)
  crossWorst : Tbl (BitVec 8)
  crossFixed : Tbl (BitVec 8)
  calDone  : Bool
  calFail  : Bool
  kindFail : BitVec 6
  year     : Nat
  month    : Nat
  day      : Nat
  hour     : Nat
  minute   : Nat
  second   : Nat
  subsec   : Nat
  calSat   : Bool
  calValid : Bool
  timeLatch : BitVec 32
  statLatch : BitVec 32
  calSet   : Option (List Nat)   -- TIME.SET_CALENDAR accepted; applied at the next boundary (R52)
  deriving DecidableEq, Repr, Inhabited

/-! ### Links and fabric (12, 13) -/

inductive LinkSt where
  | detect | equalise | align | identify | secure | time | active | quarantine | absent | off
  deriving DecidableEq, Repr, Inhabited

/-- What the module sends to other modules in the management class (R248, R295). -/
inductive MgmtMsg where
  | abort (task epoch : BitVec 32) (reason : BitVec 8) (addr : BitVec 18) (stamp : BitVec 32)
  | landingReport (task epoch : BitVec 32) (r : MemberReport)
  | release (task epoch newEpoch : BitVec 32) (kind : Option Nat) (r : Nat)
  | armNotice (task epoch : BitVec 32) (n : Nat) (step : BitVec 3)
  | armRefused (task epoch : BitVec 32)
  | armCancel (task epoch : BitVec 32)
  | loadReport (b : Banner) (member : Nat) (status : BitVec 16) (membersDigest : BitVec 384)
  | loadFail (b : Banner) (status : BitVec 16) (member : Nat)
  | taskStart (b : Banner) (task epoch : BitVec 32) (kind : Nat) (r : Nat)
  | swapReady (task : SwapRef) (member : Nat) (status : BitVec 16)
  | swapCancel (task : SwapRef) (member : Nat)
  | swapGo (task : TaskRef)
  | swapDone (task : TaskRef) (member : Nat) (r : LayerResult)
  | lateNotice (core : BitVec 18) (receiver : BitVec 18) (seq : BitVec 12)
  | seqGap (core : BitVec 18) (receiver : BitVec 18) (seq : BitVec 12)
  | stepRequest (task : TaskRef) (up : Bool)
  | servingChanges (turn : ServingTurn) (round : Nat)
  | parkDone (sid : BitVec 32) (member : Nat) (r : MediaResult)
  | resumeDone (sid : BitVec 32) (member : Nat) (r : MediaResult)
  deriving DecidableEq, Repr, Inhabited

/-- A message in a link bank on its way out: its head and its data, with frames placed so far (R267, R268). -/
structure TxMsg where
  head   : HeadInfo
  data   : List Byte
  start  : Nat          -- scheduled index of the head frame
  tread  : Nat          -- TREAD_COUNT of the tread of its entry
  placed : Nat          -- frames sent
  base   : Nat := 0     -- number of its head frame, once that is sent (R267)
  bulk   : Bool
  deriving DecidableEq, Repr, Inhabited

/-- What a frame carries. -/
inductive FrameBody where
  | head (h : HeadInfo)                            -- Table 12.4
  | data (d : List Byte)
  | management (dest : BitVec 10) (m : MgmtMsg)
  | status (p : StatusPayload)                     -- Table 12.3
  | training
  deriving DecidableEq, Repr, Inhabited

/-- A frame as sent (Table 12.1): its kind, its class's frame counter, what it carries, and its 74 bytes. -/
structure TxFrame where
  kind  : FrameKind
  seq   : Nat
  body  : FrameBody
  bytes : List Byte
  deriving DecidableEq, Repr, Inhabited

/-- A frame held for replay (R262, R264): class, number (of a forwarded frame not sent yet its place in its message), times replayed, waiting for replay, not sent yet (R290), the head
of the scheduled message it belongs to, the frame itself, and the slot (counted over all treads) it was last sent in. -/
structure HeldFrame where
  cls     : Fin 3
  seq     : Nat
  replays : Nat
  nakked  : Bool
  unsent  : Bool
  head    : Option HeadInfo
  frame   : TxFrame
  sentAt  : Nat
  deriving DecidableEq, Repr, Inhabited

/-- A message being reassembled (R267): keyed by the sequence number of its head frame. -/
structure RxMsg where
  bulk    : Bool              -- of the bulk class
  headSeq : Nat
  head    : HeadInfo
  frames  : Tbl (List Byte)   -- data frames of the message that have come and not gone on, from 1
  fed     : List Nat          -- frames that came as link replays, 0 for the head (R248)
  issued  : List Nat          -- groups already issued onto the mesh
  start   : Option Nat        -- scheduled index of its head frame, once a frame has arrived in its own slot
  forwarded : List Nat        -- frames forwarded (two hops)
  deriving DecidableEq, Repr, Inhabited

/-- A frame lost at the receiver (R260): class, number, NAK sent, replay lost again. -/
structure LostFrame where
  cls   : Fin 3
  seq   : Nat
  nakSent : Bool
  losses : Nat
  deriving DecidableEq, Repr, Inhabited

/-- A data frame that came before its head: class, number, whether as a replay, the scheduled index and the tread it came
in, and its data. -/
structure LooseFrame where
  bulk : Bool
  seq  : Nat
  fed  : Bool
  idx  : Option Nat
  tread : Nat
  data : List Byte
  deriving DecidableEq, Repr, Inhabited

/-- One link (Tables 12.8 to 12.10 and the state behind them). -/
structure Link where
  st       : LinkSt
  cause    : BitVec 4
  epochNo  : Nat             -- transmit epoch; its low bit is the epoch that frames and LINK_STAT show
  secret   : Option (BitVec 384)  -- session secret, a class B key of the enclave (R272)
  overlap  : Bool
  polFixed : Bool
  laneSwap : Bool
  laneFault : BitVec 4
  failures : BitVec 6
  backoff  : BitVec 10       -- current backoff in ms
  inBackoff : Bool
  enable   : Bool
  offPend  : Bool            -- enable was written to 1 in OFF (R279)
  peerValid : Bool
  peerLink : BitVec 6
  peerRow  : BitVec 5
  peerCol  : BitVec 5
  peerMaster : Bool
  delay    : BitVec 16
  offset   : BitVec 16
  quarMark : Option (BitVec 4)  -- marked for quarantine, with its cause (R276)
  -- sending side
  txSeq    : Tbl Nat         -- next full frame counter per class that no message has taken
  sentHi   : Tbl Nat         -- number after the highest one sent, per class (Table 12.3)
  blocks   : List (HeadInfo × Nat × Nat)  -- forwarded messages part sent: number of the head frame, frames sent (R269)
  held     : List HeldFrame  -- replay buffer
  txQ      : List TxMsg
  bulkCred : Nat
  partnerMgmtFree : Bool
  rekeyAt  : Option Nat
  rekeyAsk : Bool
  txOverlap : Option Nat     -- end of the overlap after the own epoch change (R272)
  epochBase : Tbl Nat        -- numbers from which the frame counters of the epoch count (R259)
  fwd      : List (Nat × Nat × HeldFrame)  -- forwarded frames with the tread and scheduled index of their slot (R288)
  lastTx   : Option TxFrame  -- the frame sent last
  lastSlot : Nat             -- the slot last sent in, counted over all treads
  mgmtSeen : Nat             -- tread of the last mgmt_free = 1 (R266)
  credSeen : Nat             -- tread of the last bulk credit (R266)
  idleUntil : Nat            -- the transmitters are idle until this tread (R278)
  stateAt  : Nat             -- tread in which the training state or backoff began (Table 12.6, R275)
  trainFrom : Nat            -- tread from which the 10 s of R275 count
  -- receiving side
  rxAck    : Tbl Nat         -- cumulative acknowledgement per class
  rxSeen   : Tbl (List Nat)  -- received numbers above it
  lost     : List LostFrame
  rxMsgs   : List RxMsg
  rxLoose  : List LooseFrame -- data frames before their head
  rxGone   : List (Bool × Nat × Nat)  -- discarded messages of which frames may still come: class bulk, first and last number
  rxRekeyAt : Option (Nat × Bool)  -- the partner's armed epoch change
  rxEpochNo : Nat            -- the partner's transmit epoch
  rxOverlapUntil : Option Nat
  mgmtFree : Bool
  bulkFreed : Nat
  authTimes : List Nat       -- treads of authentication failures within the last 1,000 (R273)
  lostTimes : List Nat       -- treads of lost frames within the last 1,000 (R278)
  quiet    : Nat             -- slots since the last valid frame (R278)
  beatSeen : Bool
  -- counters since reset
  fecCorr : Nat
  fecUncorr : Nat
  authFail : Nat
  replayed : Nat
  dup : Nat
  late : Nat
  deriving DecidableEq, Repr, Inhabited

/-- A link schedule entry of a loaded image (R223). -/
structure LinkEntry where
  kind : Nat
  tread : Nat
  link : Nat
  twoHops : Bool
  flits : Nat
  dest : Nat
  offset : Nat
  deriving DecidableEq, Repr, Inhabited

/-- One grid position of the manifest (Table 13.3). -/
structure ManRec where
  serial : BitVec 128
  present : Bool
  l62 : Bool
  l63 : Bool
  grade : Nat
  compat : BitVec 16
  deriving DecidableEq, Repr, Inhabited

/-- A fabric manifest (Table 13.2). -/
structure Manifest where
  rows : Nat
  columns : Nat
  masterA : BitVec 128
  masterB : BitVec 128
  revision : BitVec 64
  recs : List ManRec
  bytes : List Byte
  deriving DecidableEq, Repr, Inhabited

/-! ### Gallery (14) -/

inductive SlotSt where
  | empty | open_ | verifying | valid | invalid | erasing
  deriving DecidableEq, Repr, Inhabited

/-- An image slot (Tables 14.1 to 14.3, 14.8). -/
structure GSlot where
  st      : SlotSt
  banner  : Banner
  suspect : Bool
  keyId   : BitVec 32
  length  : Nat
  extents : List Nat
  header  : List Byte        -- 512 bytes once committed
  pendHdr : List Byte        -- header supplied with the commit in progress
  body    : Mem
  commitRef : Option CmdRef
  eraseRef  : Option CmdRef
  progUnits : List Nat       -- extents already counted for this opening (R300)
  badUnit : Tbl Nat          -- wrong bits of a 512-byte program unit of the body: BCH corrects up to 8 (R298)
  badCopies : List Nat       -- copies 0 and 1 of the slot record whose CRC-32 does not verify (R299)
  revoked : Bool             -- a teardown took the grant: no partition holds the slot (R402)
  deriving DecidableEq, Repr, Inhabited

/-- Gallery controller (Tables 14.6, 14.7). -/
structure Gal where
  slots   : Tbl GSlot
  cycles  : Tbl Nat          -- program cycles of an extent
  worn    : List Nat
  pulses  : List (Option Nat)  -- program pulses in flight: channel, none for the directory; at most 8 (R298, R308)
  ce      : Nat
  ue      : Nat
  suspend : Bool             -- programming suspended (R462)
  waiting : List (CmdRef × SlotId × Nat × List Byte)  -- writes that wait for the end of suspension
  dirRead : Bool             -- SC4 has read the directory since the last reset (R9, R309)
  deriving DecidableEq, Repr, Inhabited

/-! ### Near and far tiers (15) -/

/-- A granule: owner and contents. -/
structure Granule where
  owner : Option Banner
  keyGen : Nat                     -- generation of its class B key (R331)
  mem : Mem
  badUnit : Tbl Bool               -- 64-byte units with bad check bits: false corrected, true uncorrectable (R332)
  deriving DecidableEq, Repr, Inhabited

/-- One near-tier stack (Tables 15.3 to 15.5). -/
structure Stack where
  trained : Bool
  selfRefresh : Bool
  hotRefresh : Bool
  beyond : List Nat                  -- functions that have not read NEAR_LOAD since a tread exceeded R326 (R475)
  armAt : Option Nat
  wheel : Tbl (Option Banner)      -- entries 0-15
  wheelNext : Tbl (Option Banner)
  atLo : BitVec 32
  atHi : BitVec 32
  unitsNow : Nat                   -- units started in this tread
  bankUnits : Tbl Nat              -- the same per banner, in this tread
  pcUnits : Tbl Nat                -- the same per pseudo-channel, in this tread
  lastUnits : Nat
  lastRead : List Nat              -- functions that have read NEAR_LOAD since the last boundary (R475)
  hwm : Tbl Nat                    -- largest units in one tread since each function's read (R475)
  ce : Nat
  ceShown : Nat                    -- ce as tenants see it on a shared stack, taken once per second (R405)
  ue : Nat
  ueAddr : BitVec 32
  resetBusy : Bool
  wheelWant : Option (Tbl (Option Banner))  -- a wheel that firmware arms once the pending change is applied (R328, R40)
  reserve : Granule                -- the stack reserve: repair map and paging buffers, under the module key (R321, R331)
  deriving DecidableEq, Repr, Inhabited

/-- A far-tier record: its index, sequence number, nonce and tag, and its 64 KiB of data (R334). -/
structure FarRec where
  index : Nat
  seq   : Nat
  nonce : BitVec 96
  tag   : BitVec 128
  data  : List Byte
  deriving DecidableEq, Repr, Inhabited

/-- A far-tier record group: a parked stream or a memory store (R334). -/
structure FarObj where
  banner : Banner
  stream : Bool
  owner  : BitVec 32
  keyId  : BitVec 32
  complete : Bool                  -- the park-complete record exists
  index  : Nat                     -- record index of the park-complete record; an entry's number in a memory store
  doneSeq : Nat                    -- sequence number of the park-complete record
  context : Nat
  recs   : List FarRec             -- a parked stream's pages and its page list, or one entry of a store
  entry  : Option StreamFields := none   -- the stream's entry, in its park-complete record (R420)
  last   : Option FarRec := none   -- the park-complete record itself (R334, R339)
  deriving DecidableEq, Repr, Inhabited

structure Far where
  ready : Bool
  holdupLow : Bool
  waiting : List (CmdRef × BitVec 32 × Nat × List (List Byte))  -- memory-store writes that wait for the journal
  holdupMs : BitVec 16
  journal : Nat                    -- bytes not yet flushed
  jrn : List Nat                   -- sequence numbers of the records those bytes hold, oldest first (R336)
  parkWait : List (BitVec 32)      -- streams whose park waits for room in the journal (R336)
  nextSeq : Nat                    -- next record sequence number (R334)
  commit : Bool                    -- the SLC area holds a journal with its commit record
  written : Nat                    -- bytes written in all
  retry : Nat
  ue : Nat
  objs : List FarObj
  nextIndex : Nat
  slowed : Bool                    -- writes slowed for temperature (Table 21.6)
  surveyed : Bool                  -- SC2 has read the tier's own records since the last reset (R9, R337)
  supplyMs : Nat                   -- what the hold-up supply lasts, as last measured: a property of the board (R337, R338)
  deriving DecidableEq, Repr, Inhabited

/-! ### Streams and serving (16) -/

/-- A stream table entry (Table 16.1) with the lead's records of it. -/
structure StreamEntry extends StreamFields where
  location : BitVec 32
  status : BitVec 16
  pages : List Nat             -- near-tier pages of this module
  bufPages : List Nat          -- pages of the stream buffer, which holds the pending tokens (R351)
  pausedAt : Nat               -- order of pausing (R355)
  deferred : Nat               -- consecutive deferred rounds (R364)
  parking : List Nat           -- members whose park is complete, while a park is running
  resuming : List Nat          -- members whose resume is complete, while a resume is running
  store : Option (BitVec 32)   -- attached memory store
  buffer : List (BitVec 32)    -- pending tokens (R351)
  recent : List (BitVec 32)    -- last 1,024 tokens, newest last (R379)
  placed : Nat                 -- pending tokens already given chunk slots
  listPage : Option Nat        -- page of the page list, while pages are held
  lost : Option (Nat × Nat)    -- member and record of an unreadable record, until a landing reports the loss (R340, R359)
  freedAt : Nat                -- order of becoming FREE (R345)
  sent : Option StreamFields   -- what the lead last sent the members (R352)
  deriving DecidableEq, Repr, Inhabited

/-- What a STREAM.APPEND asks for (Table 17.9): class byte, limits, seed and sampling fields where given, tokens. -/
structure AppendReq where
  cls : BitVec 2
  keep : Bool
  tree : Bool
  memory : Bool
  maxTokens : BitVec 32
  deadline : BitVec 64
  seed : Option (BitVec 64)
  sampling : Option (BitVec 16 × BitVec 16 × BitVec 16 × BitVec 32)
  tokens : List (BitVec 32)
  deriving DecidableEq, Repr, Inhabited

/-- A host request on a stream held until a landing (R33, R352). -/
inductive HeldKind where
  | append (q : AppendReq) | pause | resume | end_ | attach (store : BitVec 32)
  deriving DecidableEq, Repr, Inhabited

structure HeldCmd where
  kind : HeldKind
  ref : Option CmdRef
  sid : BitVec 32
  deriving DecidableEq, Repr, Inhabited

/-- An agent memory store (R362). -/
structure MemStore where
  banner : Banner
  attached : Option (BitVec 32)
  near : Bool                  -- moved to the near tier
  pages : List Nat := []       -- the near-tier pages that hold it there (R360, R362)
  deriving DecidableEq, Repr, Inhabited

/-! ### Tasks (10) -/

inductive TaskSt where
  | loading | loaded | running | landing | ended | faulted
  deriving DecidableEq, Repr, Inhabited

/-- A round kind (R222). -/
structure RoundKind where
  length : Nat
  landing : Nat
  exitRound : Bool
  next0 : Option Nat
  next1 : Option Nat
  budgets : List Nat
  deriving DecidableEq, Repr, Inhabited

/-- An allocation entry (Table 10.6). -/
structure Alloc where
  core : Nat
  kind : Nat
  gref : Nat
  start : Nat
  length : Nat
  source : Nat
  blob : Nat
  layer : Nat
  deriving DecidableEq, Repr, Inhabited

/-- A gallery reference and the slot it names (R224). -/
structure GRef where
  digest : BitVec 384
  first : Nat
  layers : Nat
  backed : Bool
  slot : Nat
  deriving DecidableEq, Repr, Inhabited

/-- An expected pennant (R224). -/
structure Expected where
  round : BitVec 32
  layer : BitVec 16
  core : BitVec 8
  acc : BitVec 8
  digest : BitVec 64
  seen : Bool
  deriving DecidableEq, Repr, Inhabited

/-- SERVING parameters (R225). -/
structure Serving where
  role : Nat
  tree : Nat
  slots : Nat
  maxContext : Nat
  blockPages : Nat
  chunk : Nat
  memSets : Nat
  pair : BitVec 64
  kvBytes : Nat
  deriving DecidableEq, Repr, Inhabited

/-- A weight swap of a task (R315 to R318). -/
structure Swap where
  swapId : Nat
  ref : Option CmdRef
  gref : Nat
  slot : Nat
  oldSlot : Nat
  replace : Bool
  ready : List Nat             -- members that reported ready (kept by the lead)
  go : Bool                    -- every member is ready
  applying : Bool
  read : Nat                   -- bytes of the reference's layers read so far (R316)
  copied : Bool
  result : LayerResult
  reports : List (Nat × LayerResult)
  startAt : Nat
  deriving DecidableEq, Repr, Inhabited

/-- A load report (Table 10.9). -/
structure LoadReport where
  check : Nat
  core : Nat
  section_ : Nat
  item : Nat
  shortfall : Nat
  coreShort : Nat
  layer : Nat
  gref : Nat
  failedMember : Nat
  deriving DecidableEq, Repr, Inhabited

/-- A task on the module (R214 to R241). -/
structure Task where
  loadId : Nat
  id : BitVec 32               -- 0 before the lead has assigned it
  epoch : BitVec 32
  build : Nat                  -- Galber's build identifier, for the event log (Table 10.3)
  banner : Banner
  st : TaskSt
  cores : List Nat
  minStep : BitVec 3
  step : BitVec 3
  member : Nat
  members : List (BitVec 10)
  membersDigest : BitVec 384
  kinds : List RoundKind
  firstKind : Nat
  links : List LinkEntry
  grefs : List GRef
  allocs : List Alloc
  grant : Nat
  usedNow : Nat                -- gallery bytes started in this tread (R311)
  keyId : BitVec 32            -- program-signing key
  expected : List Expected
  hasExpected : Bool
  serving : Option Serving
  slotArea : Option Nat
  slots : Tbl (BitVec 32)      -- stream in each slot
  loadRef : Option CmdRef
  unloadRef : List CmdRef
  abortRef : List CmdRef
  loadReports : List (Nat × BitVec 16 × BitVec 384)
  kind : Nat                   -- kind of the current round
  round : Nat
  tread : Nat                  -- tread within the round
  landingAt : Nat              -- TREAD_COUNT of the landing's first tread; before round 0, of the load
  releaseAt : Option Nat
  releaseKind : Option Nat
  releaseEpoch : Option (BitVec 32)
  reports : List MemberReport
  unload : Bool
  releaseSent : Bool
  decided : Option (Option Nat)  -- the lead's choice of the next kind at this landing; none inside for the end (R238)
  served : Bool                -- the serving work of this landing is done (R352)
  swap : Option Swap
  swapEarly : List (Nat × Nat × BitVec 16)   -- swap, member and status of what came before the own command: answers at the lead, cancellations elsewhere
  origin : Option (BitVec 8 × BitVec 18 × BitVec 32)   -- origin of the abort, as the aux of 0x70-0x74
  abortSent : Bool
  slotPos : Tbl Nat            -- first position of the chunk in a chunk slot (R349)
  fault : Option FaultRec      -- the record of its fault (R380)
  deriving DecidableEq, Repr, Inhabited

/-! ### Host side (17) -/

/-- An event log entry (Table 20.5). -/
structure LogEntry where
  seq : BitVec 32
  stamp : List Nat
  stampValid : Bool
  tread : Nat
  source : Nat
  banner : Option Banner
  kind : Nat
  subject : Nat
  status : BitVec 16
  body : List Byte            -- 32 bytes
  build : Nat := 0            -- build identifier of the image an entry of kind 0x02 or 0x03 is about (Table 10.3)
  views : Tbl Nat             -- view number for each banner that may see it (R443)
  deriving DecidableEq, Repr, Inhabited

/-- Event records (R379, R380). -/
inductive Event where
  | stream (sid : BitVec 32) (tokens : List (BitVec 32)) (stop maxed deferred changed : Bool) (st : StreamSt) (position : BitVec 32) (status : BitVec 16)
  | taskFault (task : BitVec 32) (b : Banner) (origins : Nat) (member : Nat) (rec : FaultRec)
  | module (e : LogEntry)
  deriving DecidableEq, Repr, Inhabited

/-- What a final reply carries beside its header. -/
inductive Payload where
  | none
  | logRef (n : BitVec 32)
  | loadReport (log : Option (BitVec 32)) (r : LoadReport) (task epoch : BitVec 32)
  | event (e : Event)
  | append (sid : BitVec 32) (seed : BitVec 64) (st : StreamSt)
  | streamState (st : StreamSt)
  | streamEntry (e : StreamEntry) (tokens : List (BitVec 32))
  | shortfall (n : Nat)
  | identify (serial : BitVec 128) (grade : Nat) (compat version : BitVec 16) (addr : Option (BitVec 10)) (clkMode bootSrc : BitVec 2) (mgmtPort : Bool)
  | status (ready recovery : Bool) (step : Nat) (power : Nat) (temp : Int) (sensors : Option ThermalReadings)
  | cap (w : Nat)
  | partitions (l : List (Nat × BitVec 20 × BitVec 64 × Nat × Nat))
  | taskStatus (st : TaskSt) (round : Nat) (epoch : BitVec 32) (fault : Option FaultRec)
  | slot (st : SlotSt) (header : List Byte) (cycles : List Nat)
  | digest (d : BitVec 384)
  | swapFail (member layer : Nat)
  | bytes (b : List Byte)
  | linkPage (w : List Nat)
  | keys (l : List (Bool × BitVec 32 × Nat))
  | nonce (n : BitVec 128)
  | counters (l : List (List Nat))
  | logs (l : List LogEntry)
  | time (count : Nat) (cal : List Nat) (valid sat : Bool) (subsec : Nat) (ref : RefState)
  | count (n : Nat)
  | badRecord (log : BitVec 32) (member record : Nat)
  deriving DecidableEq, Repr, Inhabited

/-- A reply or event as written into a reply ring (Table 17.3). -/
structure Reply where
  opcode : BitVec 16
  status : BitVec 16
  tag    : BitVec 32
  phase  : Bool
  replayed : Bool
  event  : Bool
  final  : Bool
  cmdHead : Nat
  payload : Payload
  deriving DecidableEq, Repr, Inhabited

/-- An entry of the replay cache (R378). -/
structure CacheEntry where
  tag : BitVec 32
  n : Nat := 0               -- the number of the command (Accepted.ref)
  content : List Byte
  final : Option (BitVec 16 × Payload)
  deriving DecidableEq, Repr, Inhabited

/-- A command that passed acceptance checks 1 to 9 and has not replied in final form. -/
structure Accepted where
  ref : CmdRef
  opcode : BitVec 16
  banner : Banner
  params : List Byte
  irq : Bool
  ordered : Bool
  started : Bool             -- its own conditions (check 10) have been taken up
  begun : Bool               -- replied PENDING
  discard : Bool             -- its final reply is discarded (R388 text, R368)
  deriving DecidableEq, Repr, Inhabited

/-- A queue (R370 to R372, Table 17.12). The indices count on without wrapping; the rings and registers show them
modulo the entry count. -/
structure Queue where
  cbase : BitVec 64
  rbase : BitVec 64
  enable : Bool
  size : BitVec 4
  vector : BitVec 8
  err : Bool
  cause : BitVec 3
  pending : Nat
  cmdHead : Nat
  replyTail : Nat
  cmdTail : Nat              -- host's doorbell
  replyHead : Nat
  cache : List CacheEntry    -- newest first, at most 1,024
  taken : Nat                -- commands accepted so far, which number them
  ring : Tbl Reply           -- slots of the reply ring as written
  irqs : Nat                 -- times its MSI-X vector was raised
  deriving DecidableEq, Repr, Inhabited

/-- A PCIe function or the sideband (R366, R369, R387). -/
structure HostFn where
  present : Bool
  rate : BitVec 3
  width : BitVec 5
  queues : Tbl Queue
  eventQ : Option QueueId
  eventSeq : BitVec 32
  held : List (BitVec 32 × Event)   -- events not written yet with their sequence numbers, oldest first
  evLost : Nat
  rcBase : List (RcReg × Nat)  -- counter value at this function's previous read (R475)
  readData : BitVec 64       -- data of the last read it made
  dmaOut : List Byte         -- what the module last wrote to the function's memory by DMA, beside its rings (R381)
  msix : Tbl Word            -- MSI-X table, four words for each of 256 vectors (R369)
  pba : List Nat             -- pending-bit array: masked vectors that were raised
  deriving DecidableEq, Repr, Inhabited

/-- The pennant store and counts of one task (R438, Table 20.8). -/
structure PenLog where
  store : List (List Byte)     -- pennant records, oldest first
  base : Nat                   -- index of the oldest record held
  matched : Nat
  mismatched : Nat
  missing : Nat
  unexpected : Nat
  lost : Nat
  beyond : Nat
  first : Option (List Byte)   -- the first mismatch
  deriving DecidableEq, Repr, Inhabited

/-! ### Partitions and security (18) -/

structure Part where
  saved : Bool                 -- the definition is in persistent settings (R393)
  valid : Bool
  teardown : Bool
  halls : List Nat
  links : BitVec 64
  gallery : Nat
  power : Nat
  ns : Nat
  erasing : Bool
  nsOld : Nat                  -- GiB of a torn-down namespace whose blocks are still being erased (R403)
  tag : BitVec 64
  owner : Option FnId
  root : BitVec 384
  rangeBase : Nat
  rangeCount : Nat
  rangesDiffer : Bool          -- members report other ranges (R345)
  rangeOff : List Nat          -- the members whose last report gave another range
  memberPages : Tbl Nat        -- free pages on the other members, as last reported and since given out (R353, R355)
  nearLost : Bool              -- near-tier contents were lost, and no landing has taken that up (R359)
  lostMembers : List Nat       -- members that report the same
  parkMode : Bool              -- parks go on until every member has STRM_PARK.high free (R355)
  granules : List Nat
  wheels : Tbl Nat
  signKeys : Tbl (BitVec 32 × BitVec 768)
  tdRef : Option CmdRef
  tdZero : Bool
  tdHalls : List Nat           -- halls below S1 that wait for their armed raise (R402, step 5)
  tdErase : Bool
  crash : Option (BitVec 32 × List Byte)      -- latest capture: task, bytes
  earlyLoads : List (Nat × BitVec 16 × BitVec 384)   -- members' load reports before the lead's own load
  lateLoads : List (Nat × BitVec 384 × Nat)   -- members still to report on a dropped load: member map digest, TREAD_COUNT
  capCores : Nat
  penTask : BitVec 32            -- the latest task
  pens : Tbl PenLog              -- pennants of each task (R438)
  overMs : Nat                   -- time over budget with prompts held, ms (R458)
  underMs : Nat                  -- time below 85 % of the budget, ms
  promptHold : Bool
  powerW : Nat
  budgetW : Nat
  overNow : Bool               -- the last window was over budget
  downSteps : Nat              -- steps by which R458 holds the banner's tasks down
  stepAt : Nat                 -- tread of the last requested change (R458)
  deriving DecidableEq, Repr, Inhabited

/-- A class A slot (R398). -/
structure KeySlot where
  banner : Banner
  gallery : Bool
  keyId : BitVec 32
  key : BitVec 256
  wr : Bool
  expiry : BitVec 64
  deriving DecidableEq, Repr, Inhabited

/-- Four one-time programmable bits, each stored in three cells (R407). -/
structure OtpCells where
  a : BitVec 4
  b : BitVec 4
  c : BitVec 4
  deriving DecidableEq, Repr, Inhabited

structure Sec where
  lcCells : OtpCells             -- life-cycle state bits (R407)
  resumed : Bool
  confirm : BitVec 4
  intent : BitVec 4
  rollback : BitVec 32
  testOpen : Bool
  tenantFilter : Bool
  bannerWr : Bool
  jtagLimit : Bool
  lock : Bool
  keys : Tbl KeySlot
  nonce : Option (BitVec 128)
  sessions : Tbl SpdmPeer
  spdmOut : List (List Byte)     -- SPDM responses made, newest first
  identityKey : Bool             -- the identity key pair exists
  encSecver : BitVec 16          -- security version of the enclave firmware that runs (R396)
  measured : List Byte           -- the six measurements as boot recorded them (Table 18.3)
  testSecrets : Bool             -- the manufacturing test secrets exist (Table 18.12)
  factoryKey : Bool              -- the factory provisioning key exists
  deriving DecidableEq, Repr, Inhabited

/-! ### Reset (19) -/

inductive RstClass where
  | cold | full | clock | warm
  deriving DecidableEq, Repr, Inhabited

/-- A reset that has not yet taken effect (R419, R421): its class and the tread at which it does. -/
structure PendReset where
  cls : RstClass
  causes : BitVec 10
  sc : BitVec 4
  ckfPll : Bool
  borRail : Bool
  held : Bool
  at_ : Option Nat
  deriving DecidableEq, Repr, Inhabited

structure Rst where
  causes : BitVec 10          -- bits as RST_CAUSE [9:0]
  ckfPll : Bool
  borRail : Bool
  inBringup : Bool
  held : Bool
  sc : BitVec 4
  windowTreads : Nat          -- treads since the first counted reset (R423)
  sinceTreads : Nat           -- treads since the last reset (R423)
  count : BitVec 4
  isReady : Bool
  recovery : Bool
  optDefault : Bool
  optCopy : Bool
  step : BitVec 4
  cls : RstClass              -- class of the bring-up in progress
  stepUs : Tbl (BitVec 32)
  blockHall : List Nat
  blockLink : List Nat
  blockCore : List Nat
  blockNear : List Nat
  blockSc : List Nat
  blockFar : Bool
  blockStrm : Bool
  blockMesh : Bool
  pend : Option PendReset
  straps : Straps
  off : Bool                  -- supply switched off after a BOR or trip; waits for the input
  trapped : Bool              -- the input switch is latched open (R451)
  scRunning : List Nat        -- service cores released
  ticks : Nat                 -- treads since the enclave was last reset: its own time (R416)
  wdtTimes : Tbl (List Nat)   -- the enclave's time at the watchdog resets of each service core within 60 s (R416)
  window : Mem                -- what the host has written into the push window (R428)
  deriving DecidableEq, Repr, Inhabited

/-- The option block in force (Table 19.5) and the two copies' sequences. -/
structure Opt where
  seqA : Nat
  seqB : Nat
  pcie0 : BitVec 8
  pcie1 : BitVec 8
  smbus : BitVec 8
  mctpEid : BitVec 8
  wdtSc : Nat
  wdtSys : Nat
  linksDefer : Bool
  fwSelB : Bool
  regions : List (Nat × Nat)     -- offset and size of firmware slots A and B, settings, event log and manifest (Table 19.5)
  deriving DecidableEq, Repr, Inhabited

/-- The configuration flash at work (R421, R442). -/
structure FlashWork where
  progUntil : Nat             -- a page program ends at this tread
  erasing : Option (Nat × Nat)    -- a 64 KiB sector of the log ring being erased, and the tread at which that ends
  ready : Option Nat          -- the sector that the head enters next has been erased
  deriving DecidableEq, Repr, Inhabited

structure Diag where
  flash : List LogEntry       -- newest first
  buf : List LogEntry         -- newest first
  dropped : BitVec 16
  nextSeq : BitVec 32
  viewNext : Tbl Nat          -- next view number of each banner (R443)
  repeats : Tbl Nat           -- events held back since the last entry, by kind and subject (R442)
  bootSeq : Nat               -- first sequence number since the last reset that restarted TREAD_COUNT
  work : FlashWork
  deriving DecidableEq, Repr, Inhabited

/-! ### Power and thermal (21) -/

structure Pwr where
  flowWarn : Bool             -- coolant warning for flow, for inlet temperature (R464)
  inletWarn : Bool
  throttle : Bool
  emergency : Bool
  sensing : Bool
  vIn : BitVec 16             -- 10 mV
  iIn : BitVec 16             -- 10 mA
  capModule : Nat
  capEff : Nat
  flowScale : Nat
  flow : BitVec 16
  inlet : BitVec 16
  tMaxHall : BitVec 5
  tMax : BitVec 16
  tMaxTenant : BitVec 16      -- THERM_MAX as tenants read it (R472)
  tMaxAt : Nat                -- TREAD_COUNT of its last update
  sample : Option ThermalReadings   -- the sensors of Table 21.6 as last read (R459)
  tripCause : BitVec 4
  tripSensor : BitVec 16
  hotHalls : List Nat         -- halls with a sensor at the throttle threshold
  throttleHalls : List Nat    -- halls that have been hot since the throttle began (R460)
  coolFrom : Option Nat       -- TREAD_COUNT from which every logic-die sensor has read below 100 degrees
  emergForce : Bool           -- the next boundary forces S1
  thermHold : Bool            -- S0 hold after a thermal trip (R463)
  pwrOk : Bool
  thermN : Bool               -- THERM_N driven low
  smbUntil : Nat              -- TREAD_COUNT until which the SMBus interface is disabled (R469)
  deriving DecidableEq, Repr, Inhabited

/-! ### Manufacturing and firmware -/

structure Otp where
  grade : Nat                 -- 0 A, 1 B, 2 C
  rev : BitVec 8
  serial : BitVec 128
  deriving DecidableEq, Repr, Inhabited

structure Fw where
  compat : BitVec 16
  version : BitVec 16
  secver : BitVec 16
  activeB : Bool
  nextB : Bool
  staged : Option FwImage     -- image in the inactive slot
  deriving DecidableEq, Repr, Inhabited

/-- Persistent settings and the cached manifest in the configuration flash, and the record of the last trip in the event log
(R293, R393, R451, R455). -/
structure Settings where
  parts : Option (Tbl Part)   -- partition definitions, from a reset that reaches the enclave until it recreates them
  manifest : Option Manifest
  capModule : Nat
  tripCause : BitVec 4
  tripSensor : BitVec 16
  optA : Option (List Byte)   -- the option block's copies (R429); none until they have been read
  optB : Option (List Byte)
  deriving DecidableEq, Repr, Inhabited

/-- What firmware wrote last into one of its registers, and the word that its work had left there before (R476). -/
structure FwWord where
  offset : Nat
  before : Nat
  value : BitVec 32
  deriving DecidableEq, Repr, Inhabited

/-- The module. -/
structure State where
  pending : List Instr
  fresh : Nat                 -- the model's own counter of free values (log 1)
  otp : Otp
  fw : Fw
  clk : Clk
  halls : Tbl Hall
  cores : Tbl Core
  mesh : List Packet
  links : Tbl Link
  windows : Tbl (List (Nat × Win))   -- per bank: (source, destination) pair and its window (R271)
  mgmtOut : List (BitVec 10 × MgmtMsg)
  fabAddr : Option (BitVec 10)
  manifest : Option Manifest
  mgmtUnknown : Nat           -- management messages of unknown tasks discarded (R294)
  meshBad : Nat               -- packets of a reserved kind discarded (R247)
  gal : Gal
  stackTbl : Tbl Stack
  granules : Tbl Granule
  far : Far
  streams : Tbl StreamEntry
  freeClock : Nat
  heldCmds : List HeldCmd
  stores : List (BitVec 32 × MemStore)
  parkHigh : Nat
  parkLow : Nat
  strmLead : BitVec 8
  strmLeadAddr : BitVec 10
  tasks : List Task
  nextLoad : Nat
  nextTask : BitVec 32
  fns : Tbl HostFn
  accepted : List Accepted
  turn : Nat                  -- round-robin position of the fetch (R372)
  parts : Tbl Part
  sec : Sec
  rst : Rst
  opt : Opt
  settings : Settings
  fwWords : List FwWord       -- latest first
  diag : Diag
  pwr : Pwr
  pensIn : List (List Byte)   -- pennant records delivered to the control complex, oldest first
  pensTread : Nat             -- records accepted in this tread (R438)
  shutdown : Bool             -- power-off indication given (MODULE.SHUTDOWN)
  deriving DecidableEq, Repr, Inhabited

/-! ### Reset values (R9; the rows of 02 to 22; notes/assumptions 5, 6) -/

/-- A pass that is not open (R89). -/
def Pass.reset : Pass :=
  { isOpen := false, scaleA := 0, scaleB := 0, drainE := 0, hasRun := false, fmtA := 0, fmtB := 0, g := 0, m := 0,
    kTotal := 0, anchor := 0, scaleTag := none }

/-- A zero accumulator lane (R95). -/
def Lane.zero : Lane := { acc := 0, st := .finite }

def Matrix.reset : Matrix :=
  { xElem := [], xScale := [], xK := [], xCols := [], xLive := [], flight := [], flMode := .empty, flQ := 0,
    liveMode := .empty, liveUnif := 0, pass := [], acc := [], drainBuf := [], aq := [], xq := [], dq := [] }

def PenAcc.reset : PenAcc := { digest := 0, length := 0 }

/-- A core after hardware clear (R82), in state OFF (Table 3.12). -/
def Core.reset : Core :=
  { st := .off, reason := 0, loadId := none, pc := 0, fetchBuf := [], k := [], cc := [], loops := [],
    lcs := [], retStack := [], vflags := 0, treadSt := .open_, exitOut := none, ord := 0,
    firstPc := none, rgn := [], ad := [], mem := [], flags := [], badWord := [], badFlag := [], wback := [], fback := none,
    eccUe := false, eccUeScrub := false, eccFlag := false, ceCount := 0, eccAddr := 0, scrubPos := [],
    scrubPasses := 0, scrubMs := 0, scrubStart := 0, refusals := [], mat := Matrix.reset,
    vreg := [], vq := [], sq := [], elems := [], strmHwm := 0, pens := [], penq := [], xwait := [], xq := [], sent := [],
    expects := [], reds := [], txSeq := [], rxWin := [], rxParts := [], redIn := [], fault := none, trace := [] }

/-- Hall after power-on reset (Tables 2.12, 3.10, 21.16); VHALLh has reset value 0. -/
def Hall.reset : Hall :=
  { assigned := false, banner := 0, stepCur := 0, stepNext := 0, mv := 0, fused := 0, power := 0 }

/-- CLK block after power-on reset (Tables 2.11 to 2.18); the arm count halves are DESIGN CHOICE 0 (log 5). -/
def Clk.reset : Clk :=
  { treadCount := 0, countHiLatch := 0, stepSel := 0, stepAtLo := 0, stepAtHi := 0, armAt := none, armSteps := [], armBusy := false,
    armLate := false, armBad := false, refState := .acquire, source := .tcxo, target := some .l62, qual62 := false,
    qual63 := false, qualTref := false, edges := [], presence := [], absence := [], clkModeErr := false, phaseValid := false, phasePs := 0,
    holdTimer := 0, holdRun := false, switchLeft := 0, targetLost := false, beatOff := none, timeOut := false, crossWorst := [], crossFixed := [],
    calDone := false, calFail := false, kindFail := 0, year := 2000, month := 1, day := 1, hour := 0, minute := 0,
    second := 0, subsec := 0, calSat := false, calValid := false, timeLatch := 0, statLatch := 0, calSet := none }

/-- A link after reset (Tables 12.9, 12.10): DETECT, enabled, no bulk credit. -/
def Link.reset : Link :=
  { st := .detect, cause := 0, epochNo := 0, secret := none, overlap := false, polFixed := false, laneSwap := false, laneFault := 0,
    failures := 0, backoff := 0, inBackoff := false, enable := true, offPend := false, peerValid := false,
    peerLink := 0, peerRow := 0, peerCol := 0, peerMaster := false, delay := 0, offset := 0, quarMark := none,
    txSeq := [], sentHi := [], blocks := [], held := [], txQ := [], bulkCred := 0, partnerMgmtFree := false, rekeyAt := none, rekeyAsk := false,
    txOverlap := none, epochBase := [], fwd := [], lastTx := none, lastSlot := 0, mgmtSeen := 0, credSeen := 0, idleUntil := 0, stateAt := 0,
    trainFrom := 0, rxLoose := [], rxGone := [], rxRekeyAt := none,
    rxAck := [], rxSeen := [], lost := [], rxMsgs := [], rxEpochNo := 0, rxOverlapUntil := none, mgmtFree := true,
    bulkFreed := 0, authTimes := [], lostTimes := [], quiet := 0, beatSeen := false, fecCorr := 0, fecUncorr := 0, authFail := 0,
    replayed := 0, dup := 0, late := 0 }

/-- An empty image slot (Table 14.8). -/
def GSlot.reset : GSlot :=
  { st := .empty, banner := 0, suspect := false, keyId := 0, length := 0, extents := [], header := [], pendHdr := [],
    body := [], commitRef := none, eraseRef := none, progUnits := [], badUnit := [], badCopies := [], revoked := false }

def Gal.reset : Gal :=
  { slots := [], cycles := [], worn := [], pulses := [], ce := 0, ue := 0, suspend := false, waiting := [], dirRead := false }

def Granule.reset : Granule := { owner := none, keyGen := 0, mem := [], badUnit := [] }

/-- A near-tier stack after reset (Tables 15.3 to 15.5). -/
def Stack.reset : Stack :=
  { trained := false, selfRefresh := false, hotRefresh := false, beyond := [], armAt := none, wheel := [],
    wheelNext := [], atLo := 0, atHi := 0, unitsNow := 0, bankUnits := [], pcUnits := [], lastUnits := 0, lastRead := [], hwm := [],
    ce := 0, ceShown := 0, ue := 0, ueAddr := 0, resetBusy := false, wheelWant := none, reserve := Granule.reset }

def Far.reset : Far :=
  { ready := false, holdupLow := false, waiting := [], holdupMs := 0, journal := 0, jrn := [], parkWait := [], nextSeq := 0, commit := false,
    written := 0, retry := 0, ue := 0, objs := [], nextIndex := 0, slowed := false, surveyed := false, supplyMs := 0 }

/-- A FREE stream table entry, generation 0. -/
def StreamEntry.reset : StreamEntry :=
  { gen := 0, st := .free, banner := 0, cls := 0, keep := false, tree := false, memory := false, image := 0,
    pauseCause := 0, tokens := 0, context := 0, pending := 0, location := 0, deadline := 0, slot := none, round := 0,
    seed := 0, maxTokens := 0, temperature := 0, topP := 0, topK := 0, stop := 0, status := 0, pages := [], bufPages := [],
    pausedAt := 0, deferred := 0, parking := [], parkRun := false, resuming := [], resumeRun := false, store := none,
    buffer := [], recent := [], placed := 0, listPage := none, lost := none, freedAt := 0, pair := none, sent := none }

def Queue.reset : Queue :=
  { cbase := 0, rbase := 0, enable := false, size := 0, vector := 0, err := false, cause := 0, pending := 0,
    cmdHead := 0, replyTail := 0, cmdTail := 0, replyHead := 0, cache := [], taken := 0, ring := [], irqs := 0 }

def HostFn.reset : HostFn :=
  { present := false, rate := 0, width := 0, queues := [], eventQ := none, eventSeq := 0, held := [], evLost := 0,
    rcBase := [], readData := 0, dmaOut := [], msix := [], pba := [] }

def Part.reset : Part :=
  { saved := false, valid := false, teardown := false, halls := [], links := 0, gallery := 0, power := 0, ns := 0,
    erasing := false, nsOld := 0, tag := 0, owner := none, root := 0, rangeBase := 0, rangeCount := 0, rangesDiffer := false, rangeOff := [], memberPages := [], nearLost := false, lostMembers := [], parkMode := false, granules := [],
    wheels := [], signKeys := [], tdRef := none, tdZero := false, tdHalls := [], tdErase := false, crash := none,
    earlyLoads := [], lateLoads := [], capCores := 0, penTask := 0, pens := [], overMs := 0, underMs := 0,
    promptHold := false, powerW := 0, budgetW := 0, overNow := false, downSteps := 0, stepAt := 0 }

def PenLog.reset : PenLog :=
  { store := [], base := 0, matched := 0, mismatched := 0, missing := 0, unexpected := 0, lost := 0, beyond := 0, first := none }

/-- SEC block (Table 18.15); the OTP words are DESIGN CHOICE values: DEPLOYED with the secrets of the earlier states gone, no intent, version 0 (log 6). -/
def Sec.reset : Sec :=
  { lcCells := ⟨0b0011, 0b0011, 0b0011⟩, resumed := false, confirm := 0b0011, intent := 0b0011, rollback := 0, testOpen := false,
    tenantFilter := true, bannerWr := true, jtagLimit := true, lock := false, keys := [], nonce := none,
    sessions := [], spdmOut := [], identityKey := true, encSecver := 0, measured := [], testSecrets := false, factoryKey := false }

/-- Straps as the board ties them: boot from flash, CLK_MODE 0b00, PF0 the management attachment (log 6). -/
def Straps.reset : Straps := { bootSrc := 0, clkMode := 0, mgmtPortSel := true }

/-- RST block after power-on reset (Table 19.9): por set, step 0 of Table 19.6 in progress. -/
def Rst.reset : Rst :=
  { causes := 1, ckfPll := false, borRail := false, inBringup := false, held := false, sc := 0, windowTreads := 0, sinceTreads := 0,
    count := 0, isReady := false, recovery := false, optDefault := false, optCopy := false, step := 0, cls := .cold,
    stepUs := [], blockHall := [], blockLink := [], blockCore := [], blockNear := [], blockSc := [],
    blockFar := false, blockStrm := false, blockMesh := false, pend := none, straps := Straps.reset, off := false,
    trapped := false, scRunning := [], ticks := 0, wdtTimes := [], window := [] }

/-- The defaults of Table 19.5. -/
def Opt.reset : Opt :=
  { seqA := 0, seqB := 0, pcie0 := 0x0C, pcie1 := 0x0C, smbus := 0xD0, mctpEid := 0, wdtSc := 500, wdtSys := 2000,
    linksDefer := false, fwSelB := false,
    regions := [(0x100000, 0x2000000), (0x2100000, 0x2000000), (0x4100000, 0x1000000), (0x5100000, 0x800000), (0x5900000, 0x100000)] }

/-- Settings as delivered: no partition and no manifest, the cap's reset value of 2,400 W (R455) and no trip. -/
def Settings.reset : Settings :=
  { parts := none, manifest := none, capModule := 2400, tripCause := 0, tripSensor := 0, optA := none, optB := none }

def Diag.reset : Diag := { flash := [], buf := [], dropped := 0, nextSeq := 0, viewNext := [], repeats := [], bootSeq := 0, work := { progUntil := 0, erasing := none, ready := none } }

/-- PWR block after power-on reset (Table 21.16). -/
def Pwr.reset : Pwr :=
  { flowWarn := false, inletWarn := false, throttle := false, emergency := false, sensing := true,
    vIn := 0, iIn := 0, capModule := 2400, capEff := 2400, flowScale := 0, flow := 0, inlet := 0, tMaxHall := 0,
    tMax := 0, tMaxTenant := 0, tMaxAt := 0, sample := none, tripCause := 0, tripSensor := 0, hotHalls := [], throttleHalls := [], coolFrom := none, emergForce := false, thermHold := false,
    pwrOk := false, thermN := false, smbUntil := 0 }

/-- Fused identity: grade A, revision 0, serial number 1 (DESIGN CHOICE, log 6). -/
def Otp.reset : Otp := { grade := 0, rev := 0, serial := 1 }

def Fw.reset : Fw :=
  { compat := 0, version := 0, secver := 0, activeB := false, nextB := false, staged := none }

/-- The module right after power-on reset, before step 0 of bring-up has ended (R9, R417, R430). -/
def State.reset : State :=
  { pending := [], fresh := 0, otp := Otp.reset, fw := Fw.reset, clk := Clk.reset, halls := [], cores := [],
    mesh := [], links := [], windows := [], mgmtOut := [], fabAddr := none, manifest := none,
    mgmtUnknown := 0, meshBad := 0, gal := Gal.reset, stackTbl := [], granules := [],
    far := Far.reset, streams := [], freeClock := 0, heldCmds := [], stores := [], parkHigh := 4, parkLow := 1,
    strmLead := 0, strmLeadAddr := 0, tasks := [], nextLoad := 0, nextTask := 1, fns := [],
    accepted := [], turn := 0, parts := [], sec := Sec.reset, rst := Rst.reset, opt := Opt.reset,
    settings := Settings.reset, fwWords := [], diag := Diag.reset, pwr := Pwr.reset, pensIn := [], pensTread := 0, shutdown := false }

end Sys2Proof.Machine
end

