-- ==== Sys2Proof/Machine/Tables.lean ====
section
/-! DEFINITION. Tables, memories in canonical form, little-endian bytes (R6) and bit fields. -/

namespace Sys2Proof.Machine

/-! ### Tables -/

/-- The entry of `k`, or the default of the table's kind. -/
def tget {α : Type} (d : α) : Tbl α → Nat → α
  | [], _ => d
  | (j, v) :: t, k => if j = k then v else tget d t k

/-- Put `v` at `k`, keeping the keys ascending. -/
def tset {α : Type} : Tbl α → Nat → α → Tbl α
  | [], k, v => [(k, v)]
  | (j, w) :: t, k, v =>
    if k < j then (k, v) :: (j, w) :: t else if k = j then (k, v) :: t else (j, w) :: tset t k v

/-- Remove the entry of `k`. -/
def tdel {α : Type} : Tbl α → Nat → Tbl α
  | [], _ => []
  | (j, w) :: t, k => if k = j then t else (j, w) :: tdel t k

def tupd {α : Type} (d : α) (t : Tbl α) (k : Nat) (f : α → α) : Tbl α := tset t k (f (tget d t k))

/-! ### Memories -/

/-- One byte; an address that is not listed reads as 0. -/
def memGet (m : Mem) (a : Nat) : Byte := tget 0 m a

/-- Write one byte; writing 0 removes the entry, so equal memories are equal lists. -/
def memPut (m : Mem) (a : Nat) (b : Byte) : Mem := if b = 0 then tdel m a else tset m a b

def memRead (m : Mem) (a : Nat) : Nat → List Byte
  | 0 => []
  | n + 1 => memGet m a :: memRead m (a + 1) n

def memWrite (m : Mem) (a : Nat) : List Byte → Mem
  | [] => m
  | b :: bs => memWrite (memPut m a b) (a + 1) bs

/-- Zero the bytes of [a, a + n). -/
def memErase (m : Mem) (a n : Nat) : Mem := m.filter fun c => decide (c.1 < a) || decide (a + n ≤ c.1)

/-- The canonical form: addresses strictly rising, no byte 0 listed. -/
def Mem.wf : Mem → Bool
  | [] => true
  | (a, b) :: m => decide (b ≠ 0) && m.all (fun c => decide (a < c.1)) && Mem.wf m

/-! ### Bytes and fields -/

/-- The number a little-endian byte string spells (R6). -/
def leNat : List Byte → Nat
  | [] => 0
  | b :: bs => b.toNat + 256 * leNat bs

/-- The low `n` bytes of `v`, little-endian. -/
def leBytes : Nat → Nat → List Byte
  | 0, _ => []
  | n + 1, v => BitVec.ofNat 8 v :: leBytes n (v / 256)

def bytesAt (l : List Byte) (off n : Nat) : List Byte := (l.drop off).take n

/-- The number in bytes [off, off + n). -/
def natAt (l : List Byte) (off n : Nat) : Nat := leNat (bytesAt l off n)

/-- Field [hi:lo] of a number (R6). -/
def fieldOf (v hi lo : Nat) : Nat := v / 2 ^ lo % 2 ^ (hi + 1 - lo)

def bitOf (v i : Nat) : Bool := v / 2 ^ i % 2 == 1

def b2n (b : Bool) : Nat := if b then 1 else 0

/-- The two's complement value of the low `w` bits. -/
def sextInt (w v : Nat) : Int :=
  if v % 2 ^ w < 2 ^ (w - 1) then (v % 2 ^ w : Nat) else (v % 2 ^ w : Nat) - (2 ^ w : Nat)

/-- An integer reduced modulo 2^w. -/
def wrapInt (w : Nat) (x : Int) : Nat := (x % (2 ^ w : Nat)).toNat

def allZero (l : List Byte) : Bool := l.all (· == 0)

def zeros (n : Nat) : List Byte := List.replicate n 0

/-- Insert into an ascending list without repeats. -/
def insNat (x : Nat) : List Nat → List Nat
  | [] => [x]
  | y :: l => if x < y then x :: y :: l else if x = y then y :: l else y :: insNat x l

/-- Saturating add. -/
def satAdd (top a b : Nat) : Nat := if a + b ≤ top then a + b else top

/-- ceil(a / b). -/
def ceilDiv (a b : Nat) : Nat := (a + b - 1) / b

/-- Replace the first element that satisfies `p`. -/
def updFirst {α : Type} (p : α → Bool) (f : α → α) : List α → List α
  | [] => []
  | x :: l => if p x then f x :: l else x :: updFirst p f l

def remFirst {α : Type} (p : α → Bool) : List α → List α
  | [] => []
  | x :: l => if p x then l else x :: remFirst p l

/-- Insert before the first element that does not come before `x`. -/
def insBy {α : Type} (le : α → α → Bool) (x : α) : List α → List α
  | [] => [x]
  | y :: l => if le x y then x :: y :: l else y :: insBy le x l

/-- Stable sort. -/
def sortBy {α : Type} (le : α → α → Bool) (l : List α) : List α := l.foldr (insBy le) []

/-- Distinct elements in order of first appearance. -/
def distinct : List Nat → List Nat
  | [] => []
  | x :: l => x :: (distinct l).filter (· != x)

/-! ### Codes -/

/-- CRC-64, ECMA-182 polynomial, start 0, not reflected, not inverted (R163). -/
def crc64Bit (d : BitVec 64) (bit : Bool) : BitVec 64 :=
  let top := d.msb != bit
  if top then (d <<< 1) ^^^ 0x42F0E1EBA9EA3693#64 else d <<< 1

def crc64Byte (d : BitVec 64) (b : Byte) : BitVec 64 :=
  [7, 6, 5, 4, 3, 2, 1, 0].foldl (fun x i => crc64Bit x (b.getLsbD i)) d

def crc64 (d : BitVec 64) (l : List Byte) : BitVec 64 := l.foldl crc64Byte d

/-- Append `n` zero bytes: multiplication by x^(8n) modulo the polynomial (R163). -/
def crc64Shift (d : BitVec 64) : Nat → BitVec 64
  | 0 => d
  | n + 1 => crc64Shift (crc64Byte d 0) n

/-- CRC-32 as IEEE 802.3 (R299, Tables 14.2 and 19.5). -/
def crc32Byte (d : BitVec 32) (b : Byte) : BitVec 32 :=
  (List.range 8).foldl (fun x _ => if x.getLsbD 0 then (x >>> 1) ^^^ 0xEDB88320#32 else x >>> 1)
    (d ^^^ b.setWidth 32)

def crc32 (l : List Byte) : BitVec 32 := ~~~ (l.foldl crc32Byte (BitVec.allOnes 32))

end Sys2Proof.Machine
end

