-- ==== Sys2Proof/Machine/Ops.lean ====
section
/-! DEFINITION. The named operations over the module's state: where a core lies, the event log, halting a core,
completion counters, and every checked access to a scratchpad (R59, R64, R65, R70, R74 to R78). -/

namespace Sys2Proof.Machine

abbrev Out := Host.Outcome State Fault Refusal

/-! ### Readers and writers of the state's tables -/

def State.core (s : State) (c : Nat) : Core := tget Core.reset s.cores c
def State.setCore (s : State) (c : Nat) (k : Core) : State := { s with cores := tset s.cores c k }
def State.updCore (s : State) (c : Nat) (f : Core → Core) : State := s.setCore c (f (s.core c))
def State.hall (s : State) (h : Nat) : Hall := tget Hall.reset s.halls h
def State.setHall (s : State) (h : Nat) (x : Hall) : State := { s with halls := tset s.halls h x }
def State.updHall (s : State) (h : Nat) (f : Hall → Hall) : State := s.setHall h (f (s.hall h))
def State.link (s : State) (l : Nat) : Link := tget Link.reset s.links l
def State.setLink (s : State) (l : Nat) (x : Link) : State := { s with links := tset s.links l x }
def State.updLink (s : State) (l : Nat) (f : Link → Link) : State := s.setLink l (f (s.link l))
def State.stack (s : State) (n : Nat) : Stack := tget Stack.reset s.stackTbl n
def State.setStack (s : State) (n : Nat) (x : Stack) : State := { s with stackTbl := tset s.stackTbl n x }
def State.granule (s : State) (g : Nat) : Granule := tget Granule.reset s.granules g
def State.setGranule (s : State) (g : Nat) (x : Granule) : State := { s with granules := tset s.granules g x }
/-- A program pulse is in flight (Table 14.7). -/
def Gal.pulse (g : Gal) : Bool := !g.pulses.isEmpty

def State.slot (s : State) (i : Nat) : GSlot := tget GSlot.reset s.gal.slots i
/-- The slot is VALID and granted to a partition (R151, R315). -/
def GSlot.grantedTo (g : GSlot) (b : Banner) : Bool := g.st == .valid && g.banner == b && !g.revoked
def State.setSlot (s : State) (i : Nat) (x : GSlot) : State :=
  { s with gal := { s.gal with slots := tset s.gal.slots i x } }
def State.stream (s : State) (i : Nat) : StreamEntry := tget StreamEntry.reset s.streams i
def State.setStream (s : State) (i : Nat) (x : StreamEntry) : State := { s with streams := tset s.streams i x }
def State.part (s : State) (b : Nat) : Part := tget Part.reset s.parts b
def State.setPart (s : State) (b : Nat) (x : Part) : State := { s with parts := tset s.parts b x }
def State.updPart (s : State) (b : Nat) (f : Part → Part) : State := s.setPart b (f (s.part b))
def State.fn (s : State) (f : Nat) : HostFn := tget HostFn.reset s.fns f
def State.setFn (s : State) (f : Nat) (x : HostFn) : State := { s with fns := tset s.fns f x }

/-- A free value and the counter moved on (log 1). -/
def State.freshAt (s : State) (i : Nat) : Nat := Config.freeNat s.fresh i
def State.freshVal (s : State) : Nat := s.freshAt 0
def State.tick (s : State) : State := { s with fresh := s.fresh + 1 }

/-! ### Where things lie (R12, R13, R15, R22, R59, R80) -/

def coreX (c : Nat) : Nat := c % 16
def coreY (c : Nat) : Nat := c / 16
def hallOf (c : Nat) : Nat := 4 * (coreY c / 2) + coreX c / 4
def posInHall (c : Nat) : Nat := coreX c % 4 + 4 * (coreY c % 2)
def isP (c : Nat) : Bool := decide (128 ≤ c)

/-- Enabled positions of a grade (Table 1.3): 0 A, 1 B, 2 C. -/
def enabledOn (grade c : Nat) : Bool :=
  decide (c < 160) &&
  match grade with
  | 0 => true
  | 1 => if isP c then decide (coreX c < 14) else decide (coreX c < 15)
  | _ => if isP c then decide (coreX c < 12) else decide (coreX c < 14)

def State.enabled (s : State) (c : Nat) : Bool := enabledOn s.otp.grade c

/-- Highest step of a grade (R2, R34). -/
def maxStep (grade : Nat) : Nat := if grade = 0 then 6 else 4

def gCores (grade : Nat) : Nat := match grade with | 0 => 128 | 1 => 120 | _ => 112
def pCores (grade : Nat) : Nat := match grade with | 0 => 32 | 1 => 28 | _ => 24

/-- Scratchpad bytes of a core (R59). -/
def scratchSize (c : Nat) : Nat := if isP c then 16777216 else 25165824
/-- Words per bank (R60). -/
def wordsPerBank (c : Nat) : Nat := if isP c then 4096 else 6144
/-- Transfer entries (R153). -/
def entriesOf (c : Nat) : Nat := if isP c then 512 else 256
/-- Bank of a byte address: layer a[11], bank a[10:3] (R60). -/
def bankOf (a : Nat) : Nat := fieldOf a 11 11 * 256 + fieldOf a 10 3
/-- Byte address of word w of a bank (R60). -/
def bankWord (bank w : Nat) : Nat := w * 4096 + bank / 256 * 2048 + bank % 256 * 8

/-- Cores of a hall. -/
def hallCores (h : Nat) : List Nat := (List.range 160).filter fun c => hallOf c == h

/-- Guaranteed budget of a step (Table 2.2). -/
def budgetOf (step : Nat) : Nat :=
  match step with
  | 1 => 884 | 2 => 1064 | 3 => 1244 | 4 => 1424 | 5 => 1514 | 6 => 1604 | _ => 0

def State.coreBanner (s : State) (c : Nat) : Banner := (s.hall (hallOf c)).banner

/-- Fabric address of the module (R281); 0 until FAB_ADDR is valid. -/
def State.modAddr (s : State) : Nat := match s.fabAddr with | some a => a.toNat | none => 0

/-- Global address of a core of this module (R21). -/
def State.globalAddr (s : State) (c : Nat) : BitVec 18 := BitVec.ofNat 18 (s.modAddr * 256 + c)

/-! ### Tasks -/

def State.findTask (s : State) (id : BitVec 32) : Option Task := s.tasks.find? fun t => t.id == id && id != 0
def State.findLoad (s : State) (l : Nat) : Option Task := s.tasks.find? fun t => t.loadId == l
def State.updTask (s : State) (l : Nat) (f : Task → Task) : State :=
  { s with tasks := s.tasks.map fun t => if t.loadId = l then f t else t }
def State.taskOf (s : State) (c : Nat) : Option Task :=
  match (s.core c).loadId with
  | some l => s.findLoad l
  | none => none

/-- A task that is on cores of the module: loaded or running, not ended and not faulted. -/
def Task.live (t : Task) : Bool :=
  match t.st with
  | .loading | .loaded | .running | .landing => true
  | .ended | .faulted => false

/-- The lead is the member of lowest fabric address (R230). -/
def Task.leadAddr (t : Task) : Nat := t.members.foldl (fun a m => min a m.toNat) 1024
def State.isLead (s : State) (t : Task) : Bool := decide (t.members.length ≤ 1) || t.leadAddr == s.modAddr

/-! ### The order of armed changes of one tread (R41) -/

/-- An armed count whose boundary has begun. -/
def dueBy (now : Nat) : Option Nat → Bool
  | some n => decide (n ≤ now)
  | none => false

/-- A step change is due and not applied. -/
def State.stepDue (s : State) : Bool := dueBy s.clk.treadCount s.clk.armAt

/-- Another shadowed change is due and not applied: a bandwidth wheel, or a link's key epoch. -/
def State.confDue (s : State) : Bool :=
  s.stackTbl.any (fun p => dueBy s.clk.treadCount p.2.armAt) || s.links.any (fun p => dueBy s.clk.treadCount p.2.rekeyAt)

/-- A task's release whose tread has begun. -/
def Task.releaseDue (t : Task) (now : Nat) : Bool := (t.st == .loaded || t.st == .landing) && dueBy now t.releaseAt

/-- Some armed change of this tread is not complete: no core issues yet (R41). -/
def State.changeDue (s : State) : Bool :=
  s.stepDue || s.confDue || s.tasks.any (·.releaseDue s.clk.treadCount)

/-! ### Management messages (R248) -/

/-- Send a management message to one module (R248). -/
def State.sendMgmt (s : State) (a : BitVec 10) (m : MgmtMsg) : State := { s with mgmtOut := s.mgmtOut ++ [(a, m)] }

/-- Send it to every other member of a task. -/
def State.sendMembers (s : State) (t : Task) (m : MgmtMsg) : State :=
  { s with mgmtOut := s.mgmtOut ++ (t.members.filter (fun a => a.toNat != s.modAddr)).map (fun a => (a, m)) }

/-! ### One-time programmable bits (R407) -/

/-- The majority read of the three cells of every bit. -/
def OtpCells.read (x : OtpCells) : BitVec 4 := (x.a &&& x.b) ||| (x.a &&& x.c) ||| (x.b &&& x.c)

/-- Program a bit: all of its cells are set, and none is ever cleared. -/
def OtpCells.program (x : OtpCells) (i : Nat) : OtpCells :=
  let m : BitVec 4 := 1#4 <<< i
  { a := x.a ||| m, b := x.b ||| m, c := x.c ||| m }

/-- The life-cycle state bits. -/
def Sec.lcBits (x : Sec) : BitVec 4 := x.lcCells.read

/-! ### Pennant logs (R438) -/

def Part.pen (p : Part) (task : BitVec 32) : PenLog := tget PenLog.reset p.pens task.toNat
def Part.updPen (p : Part) (task : BitVec 32) (f : PenLog → PenLog) : Part := { p with pens := tset p.pens task.toNat (f (p.pen task)) }

/-- The pennants that DIAG_PENb and DIAG.PENNANT_READ show: the banner's latest task's (R439, Table 20.7). -/
def Part.latestPen (p : Part) : PenLog := p.pen p.penTask

/-- The records held are gone; the index of the next one stays. -/
def PenLog.discard (x : PenLog) : PenLog := { x with store := [], base := x.base + x.store.length }
def Part.dropPens (p : Part) : Part := { p with pens := p.pens.map fun (x : Nat × PenLog) => (x.1, x.2.discard) }

/-! ### The event log (R441, R442) -/

/-- An entry of a kind and subject was made within so many treads; entries from before a reset that restarted TREAD_COUNT do not
count. -/
def State.loggedWithin (s : State) (treads : Nat) (p : LogEntry → Bool) : Bool :=
  (s.diag.buf ++ s.diag.flash).any fun e =>
    p e && decide (s.diag.bootSeq ≤ e.seq.toNat) && decide (s.clk.treadCount < e.tread + treads)

/-- The 32 bytes of an entry's body: its words in order, unused bytes 0 (Table 20.5). -/
def logBody (l : List Nat) : List Byte := (l.flatMap (leBytes 4) ++ zeros 32).take 32

/-- Bytes as the words of a body. -/
def bodyWords (l : List Byte) : List Nat := (List.range ((l.length + 3) / 4)).map fun i => natAt l (4 * i) 4

def State.calendar (s : State) : List Nat :=
  [s.clk.year, s.clk.month, s.clk.day, s.clk.hour, s.clk.minute, s.clk.second]

/-- Build identifier copied into the entries about a task (Table 10.3). DESIGN CHOICE (log 44): those are the entries whose
subject is a task identifier, and the identifier is kept beside the 64 bytes of Table 20.5, which name no place for it. -/
def State.buildOf (s : State) (kind subject : Nat) : Nat :=
  if kind = 2 ∨ kind = 3 then ((s.tasks.find? fun t => t.id.toNat == subject).map (·.build)).getD 0 else 0

/-- Make one event log entry; the sources and kinds are those of Tables 20.5 and 20.6. -/
def State.log (s : State) (source kind subject : Nat) (banner : Option Banner) (status : BitVec 16)
    (body : List Nat) : State :=
  let key := kind * 4294967296 + subject
  let again := (kind == 5 || kind == 7) && s.loggedWithin 1000000 fun e => e.kind == kind && e.subject == subject
  if again then
    { s with diag := { s.diag with repeats := tupd 0 s.diag.repeats key (· + 1) } }
  else if decide (256 ≤ s.diag.buf.length) && !(kind == 1 || kind == 2 || kind == 6) then
    { s with diag := { s.diag with dropped := BitVec.ofNat 16 (satAdd 65535 s.diag.dropped.toNat 1) } }
  else
    let extra := if kind == 5 || kind == 7 then [tget 0 s.diag.repeats key] else []
    let seers := (List.range 8).filter fun b => match banner with
      | some x => x.val == b
      | none => kind == 1 || kind == 4 || kind == 10
    let views := seers.map fun b => (b, tget 0 s.diag.viewNext b)
    { s with diag := { s.diag with
        viewNext := seers.foldl (fun t b => tset t b (tget 0 t b + 1)) s.diag.viewNext,
        buf := { seq := s.diag.nextSeq, stamp := s.calendar, stampValid := s.clk.calValid,
                 tread := s.clk.treadCount, source := source, banner := banner, kind := kind,
                 subject := subject, status := status, body := logBody (body ++ extra), build := s.buildOf kind subject, views := views } :: s.diag.buf,
        nextSeq := s.diag.nextSeq + 1, repeats := tdel s.diag.repeats key } }

/-- A page program or a sector erase of the configuration flash is in flight (R421). -/
def State.flashBusy (s : State) : Bool :=
  decide (s.clk.treadCount < s.diag.work.progUntil) ||
  match s.diag.work.erasing with | some (_, t) => decide (s.clk.treadCount < t) | none => false

/-- An entry goes into the ring: where it enters a sector, the oldest 1,024 entries of a full ring have been erased (R442). -/
def ringPut (e : LogEntry) (ring : List LogEntry) : List LogEntry :=
  e :: (if e.seq.toNat % 1024 = 0 then ring.take 130048 else ring)

/-- The log after a reset: what was buffered is lost, and numbering goes on from the entries of the ring (R441, R442); the counts of
Table 18.10 start anew where TREAD_COUNT does. A sector whose erase was suspended is erased again (R421). -/
def Diag.afterReset (d : Diag) (restart : Bool) : Diag :=
  let next := d.flash.foldl (fun n e => max n (e.seq.toNat + 1)) 0
  let view (b : Nat) : Nat := d.flash.foldl (fun n e => match e.views.find? fun x => x.1 == b with | some x => max n (x.2 + 1) | none => n) 0
  { d with
    buf := [], dropped := 0, nextSeq := BitVec.ofNat 32 next, viewNext := (List.range 8).map fun b => (b, view b), repeats := [],
    bootSeq := if restart then next else d.bootSeq, work := { progUntil := 0, erasing := none, ready := none } }

/-- A packet of a reserved kind is discarded and counted in the event log (R247). DESIGN CHOICE (log 42): the count is an
entry of kind 0x0B made by the hardware, with the count in its body. -/
def State.discardPacket (s : State) : State :=
  { s with meshBad := s.meshBad + 1 }.log 8 0x0B 0 none 0 [s.meshBad + 1]

/-- A management message of an unknown task is discarded and counted in the event log (R294; log 42 as above). -/
def State.discardMgmt (s : State) : State :=
  { s with mgmtUnknown := s.mgmtUnknown + 1 }.log 8 0x0B 1 none 0 [s.mgmtUnknown + 1]

/-! ### Halting a core (R191, R233, R235) -/

/-- An issue-trace entry of the current tread (R444); the cycle count is a free value, since the model counts no
cycles, and so is the first PC of a tread in which nothing issued (log 1). -/
def traceOf (s : State) (k : Core) (t : Option Task) : TraceEntry :=
  { round := BitVec.ofNat 32 ((t.map (·.round)).getD 0), tread := BitVec.ofNat 16 ((t.map (·.tread)).getD 0),
    cycles := BitVec.ofNat 16 s.freshVal, firstPc := k.firstPc.getD (BitVec.ofNat 32 (s.freshAt 1)), landPc := k.pc }

def Core.pushTrace (k : Core) (e : TraceEntry) : Core := { k with trace := (e :: k.trace).take 256 }

/-- The trace at a halt: the halting tread's entry, or the one its LAND made, holds the PC of the head instruction. -/
def Core.haltTrace (k : Core) (e : TraceEntry) : Core :=
  if k.treadSt = .landed then { k with trace := k.trace.modifyHead fun x => { x with landPc := k.pc } }
  else k.pushTrace e

/-- A packet of the put of an element whose number is `q`, as core `c` sent it. -/
def State.putPacket (s : State) (c : Nat) (i : StreamInstr) (q : BitVec 16) (p : Packet) : Bool :=
  p.kind == 3 && p.source == s.globalAddr c && p.seq == q && p.dest == i.dst.core % 256 && !p.fromLink

/-- The same of a message of which no frame has been sent. -/
def State.putMessage (s : State) (c : Nat) (i : StreamInstr) (q : BitVec 16) (m : TxMsg) : Bool :=
  m.head.kind == 3 && m.head.source == s.globalAddr c && m.head.sequence == q && m.head.dest == BitVec.ofNat 8 (i.dst.core % 256) &&
    m.head.destMod == BitVec.ofNat 10 (i.dst.core / 256) && !m.head.forwarded && m.placed == 0

/-- Entries that a halt leaves (Table 7.8, log 14): outbound elements whose first beat has left the port, and inbound
ones until their data has returned and been dropped. -/
def Core.stays (k : Core) (e : Elem) : Bool :=
  match k.sq.find? (fun i => i.tag.ord == e.ord) with
  | some i => !e.oob && match i.op with | .fill .. => decide (i.dst.kind ≠ .loc) | _ => true
  | none => false

/-- Outbound elements at a halt: whether the first beat of one that neither its controller has served nor the mesh or a link
has delivered a part of has left the port is free (log 14); if none has, the element is discarded. -/
def State.unsent (s : State) (c : Nat) (e : Elem) : Bool :=
  Config.freeNat s.fresh (3 + e.ord * 16777216 + e.elem) % 2 == 1 &&
  match (s.core c).sq.find? fun i => i.tag.ord == e.ord with
  | none => false
  | some i => match i.dst.kind with
    | .near => e.stage == .nearReq
    | .die => e.stage == .awaitAccept && e.wait.all fun q => s.mesh.any fun p => s.putPacket c i q p
    | .remote => e.stage == .awaitAccept && e.wait.all fun q => s.links.any fun l => l.2.txQ.any fun m => s.putMessage c i q m
    | _ => false

/-- The packets and messages of the discarded elements are not made. -/
def State.takeBack (s : State) (c : Nat) : State :=
  let es := ((s.core c).elems.filter (s.unsent c)).filterMap fun e => ((s.core c).sq.find? fun i => i.tag.ord == e.ord).map fun i => (i, e)
  if es.isEmpty then s else
  { s with
    mesh := s.mesh.filter fun p => !es.any fun x => x.2.wait.any fun q => s.putPacket c x.1 q p
    links := s.links.map fun (l : Nat × Link) => (l.1, { l.2 with
      txQ := l.2.txQ.filter fun m => !es.any fun x => x.2.wait.any fun q => s.putMessage c x.1 q m }) }

/-- What R191 does to a core: nothing more issues, begun instructions are abandoned, the record is written. An outbound element
of which a part has been read is read out to its end (Table 7.8). -/
def Core.halted (k : Core) (r : FaultRec) (unsent : Elem → Bool) : Core :=
  let left := k.elems.filter fun e => k.stays e && !unsent e
  let part (i : StreamInstr) : Bool := !i.got.isEmpty && decide (i.next < i.n)
  { k with
    st := .halted, reason := r.reason, fault := some r,
    mat := { k.mat with aq := [], xq := [], dq := [] },
    vq := [], xwait := [], xq := [], expects := [], refusals := [],
    elems := left, sq := (k.sq.filter fun i => part i || left.any fun e => e.ord == i.tag.ord).map fun i =>
      { i with n := if part i then i.next + 1 else i.next },
    eccUe := k.eccUe || r.reason == 0x60,
    eccUeScrub := if r.reason == 0x60 then r.aux.getLsbD 0 else k.eccUeScrub,
    eccAddr := if r.reason == 0x60 then r.aux.setWidth 32 &&& 0xFFFFFFF8#32 else k.eccAddr }

/-- The fault record of a halt (Table 10.11). -/
def State.faultRec (s : State) (c : Nat) (reason : BitVec 8) (pc : BitVec 32) (e : FaultEngine)
    (aux : BitVec 64) : FaultRec :=
  let t := s.taskOf c
  { module := BitVec.ofNat 16 s.modAddr, core := BitVec.ofNat 8 c, reason := reason, address := pc, engine := e,
    valid := true, origin := !(fieldOf reason.toNat 7 4 == 7),
    round := BitVec.ofNat 32 ((t.map (·.round)).getD 0), tread := BitVec.ofNat 32 ((t.map (·.tread)).getD 0),
    stamp := BitVec.ofNat 32 s.clk.treadCount, aux := aux }

/-- Halt a core: the one operation that writes a fault record. A core already HALTED keeps its first record (R239).
The first own reason becomes the task's origin (R235). -/
def State.haltCore (s : State) (c : Nat) (reason : BitVec 8) (pc : BitVec 32) (e : FaultEngine)
    (aux : BitVec 64) : State :=
  let k := s.core c
  if k.st = .halted then s else
  let t := s.taskOf c
  let r := s.faultRec c reason pc e aux
  let k1 := if k.st = .running then k.haltTrace (traceOf s k t) else k
  let s1 := ((s.takeBack c).setCore c (k1.halted r (s.unsent c))).tick
  match t with
  | some t =>
    if r.origin && t.origin.isNone then
      s1.updTask t.loadId fun t => { t with origin := some (reason, s.globalAddr c, r.stamp) }
    else s1
  | none => s1

/-- Auxiliary word of 0x70 to 0x74 (R234). -/
def abortAux (reason : BitVec 8) (addr : BitVec 18) (stamp : BitVec 32) : BitVec 64 :=
  BitVec.ofNat 64 (reason.toNat + addr.toNat * 256 + stamp.toNat * 4294967296)

/-- The opcode of a word (Table 8.1). -/
def opcodeOf (x : BitVec 128) : Nat := (x.extractLsb' 120 8).toNat

/-- The engine class of an opcode (Table 8.2). -/
def engineOf (op : Nat) : Engine :=
  match op / 32 with | 1 => .matrix | 2 => .vector | 3 => .stream | 4 => .message | _ => .control

/-- What the fetch unit holds for the program counter. -/
def Core.head (k : Core) : Option Fetched := (k.fetchBuf.find? fun p => p.1 == k.pc).map (·.2)

/-- Halt a core for what none of its instructions did (an arrival, an inbound access). DESIGN CHOICE (log 39): the record
names the instruction at the head of its sequence and the class of that instruction. -/
def State.haltAtHead (s : State) (c : Nat) (reason : BitVec 8) (aux : BitVec 64) : State :=
  let k := s.core c
  let w : BitVec 128 := match k.head with
    | some (.word w) => w
    | _ => BitVec.ofNat 128 (leNat (memRead k.mem k.pc.toNat 16))
  s.haltCore c reason k.pc (.of (engineOf (opcodeOf w))) aux

/-- Halt every core of a task on the module that is not halted. -/
def State.haltTask (s : State) (t : Task) (reason : BitVec 8) (e : FaultEngine) (aux : BitVec 64) : State :=
  t.cores.foldl (fun s c => s.haltCore c reason (s.core c).pc e aux) s

/-- Send the abort of R236 to the other members, once, and cancel an armed release (R239). -/
def State.abortOut (s : State) (t : Task) (reason : BitVec 8) (addr : BitVec 18) (stamp : BitVec 32) : State :=
  let s1 := if t.abortSent then s else s.sendMembers t (.abort t.id t.epoch reason addr stamp)
  s1.updTask t.loadId fun t =>
    { t with abortSent := true, releaseAt := none,
             origin := match t.origin with | some o => some o | none => some (reason, addr, stamp) }

/-- An origin that is a host or firmware decision (R234). -/
def noAddr : BitVec 18 := 0x3FFFF

/-- Abort a task for a reason that comes from outside the cores (R237): every core halts with `reason`. -/
def State.abortTask (s : State) (t : Task) (reason originReason : BitVec 8) : State :=
  let stamp := BitVec.ofNat 32 s.clk.treadCount
  (s.haltTask t reason .none (abortAux originReason noAddr stamp)).abortOut t originReason noAddr stamp

/-! ### Completion counters (R174 to R177) -/

/-- Increase a counter; `none` when it would go beyond 2^32 - 1. -/
def Core.addCC (k : Core) (i n : Nat) : Option Core :=
  let v := (tget 0 k.cc i).toNat + n
  if v < 4294967296 then some { k with cc := tset k.cc i (BitVec.ofNat 32 v) } else none

/-- Give an instruction's signal at its completion point. -/
def State.signal (s : State) (c : Nat) (t : Tag) (e : Engine) : State :=
  match t.sig with
  | none => s
  | some i =>
    match (s.core c).addCC i.toNat 1 with
    | some k => s.setCore c k
    | none => s.haltCore c 0x0B t.pc (.of e) (BitVec.ofNat 64 i.toNat)

/-- An arrival counts CC[rcc] of a receiving core (R210). -/
def State.countArrival (s : State) (c : Nat) (rcc : BitVec 4) : State :=
  match (s.core c).addCC rcc.toNat 1 with
  | some k => s.setCore c k
  | none => s.haltAtHead c 0x0B (BitVec.ofNat 64 rcc.toNat)

/-! ### Scratchpad accesses -/

/-- Ports as the region table names them (Table 3.6): permission bit of an entry. -/
inductive Port where
  | fetch | control | matrixR | matrixW | vectorR | vectorW | streamR | streamW | remoteR | remoteW
  deriving DecidableEq, Repr, Inhabited

def Port.bit : Port → Nat
  | .fetch => 64 | .control => 65 | .matrixR => 66 | .matrixW => 67 | .vectorR => 68 | .vectorW => 69
  | .streamR => 70 | .streamW => 71 | .remoteR => 72 | .remoteW => 73

/-- The consumer code of a port's reads (Table 3.6); 0 for ports that never empty a slot. -/
def Port.consumer : Port → Nat
  | .matrixR => 1 | .vectorR => 2 | .streamR => 3 | .remoteR => 4 | _ => 0

/-- Writers whose accesses to a flagged region must be slot aligned (R74). -/
def Port.slotAligned : Port → Bool
  | .matrixW | .streamW | .remoteW => true
  | _ => false

/-- Fields of a region entry (Table 3.6). -/
def rgnBase (e : BitVec 128) : Nat := fieldOf e.toNat 23 0 * 256
def rgnSize (e : BitVec 128) : Nat := fieldOf e.toNat 55 32 * 256
def rgnBanner (e : BitVec 128) : Nat := fieldOf e.toNat 101 99
def rgnFlagged (e : BitVec 128) : Bool := e.getLsbD 102
def rgnInit (e : BitVec 128) : Bool := e.getLsbD 103
def rgnConsumer (e : BitVec 128) : Nat := fieldOf e.toNat 106 104
def rgnGrace (e : BitVec 128) : Nat := fieldOf e.toNat 127 112

/-- The enabled region that contains the whole access (R70). -/
def Core.region (k : Core) (a n : Nat) : Option (BitVec 128) :=
  (k.rgn.find? fun p => decide (rgnSize p.2 ≠ 0) && decide (rgnBase p.2 ≤ a) &&
    decide (a + n ≤ rgnBase p.2 + rgnSize p.2)).map (·.2)

/-- The region check of R70: bounds, permission, banner. -/
def Core.check (k : Core) (banner : Banner) (p : Port) (a n : Nat) : Except (BitVec 8) (BitVec 128) :=
  match k.region a n with
  | none => .error 0x10
  | some e =>
    if !e.getLsbD p.bit then .error 0x11
    else if rgnBanner e ≠ banner.val then .error 0x12
    else .ok e

/-- Slots of [a, a + n), and words of it. -/
def slotsOf (a n : Nat) : List Nat := (List.range ((a + n - 1) / 256 + 1 - a / 256)).map (a / 256 + ·)
def wordsOf (a n : Nat) : List Nat := (List.range ((a + n - 1) / 8 + 1 - a / 8)).map (a / 8 + ·)

/-- What an access comes to, with the core afterwards. `wait` names the first slot whose flag holds it. -/
inductive Acc where
  | done (k : Core) (data : List Byte)
  | wait (k : Core) (slot : Nat)
  | bad (k : Core) (reason : BitVec 8) (aux : BitVec 64)
  deriving DecidableEq, Repr, Inhabited

/-- Count a corrected word and offer it to the bank's write-back register (R64). -/
def Core.corrected (k : Core) (w : Nat) : Core :=
  { k with ceCount := BitVec.ofNat 16 (satAdd 65535 k.ceCount.toNat 1), eccAddr := BitVec.ofNat 32 (w * 8),
           wback := if k.wback.any (fun p => p.1 == bankOf (w * 8)) then k.wback
                    else tset k.wback (bankOf (w * 8)) w }

/-- What the marked words among those an access checks come to (R64, R65): the core with every correction counted, and
the first uncorrectable word. DESIGN CHOICE (log 39): of several words corrected by one access CORE_ECC_ADDR keeps the
last one in table order, and words corrected beside an uncorrectable one count as corrected. -/
def Core.checkHits (k : Core) (hit : Tbl Bool) : Core × Option Nat :=
  ((hit.filter fun p => !p.2).foldl (fun k p => k.corrected p.1) k, (hit.find? (·.2)).map (·.1))

/-- Check the words of a read. -/
def Core.checkWords (k : Core) (a n : Nat) : Core × Option Nat :=
  k.checkHits (k.badWord.filter fun p => decide (a / 8 ≤ p.1) && decide (p.1 ≤ (a + n - 1) / 8))

/-- Count a corrected flag word and offer it to the flag array's write-back register (R64, R68). DESIGN CHOICE
(log 39): the flag array has one write-back register, and CORE_ECC_ADDR gives the first byte of the 16 KiB whose 64
flags the word holds. -/
def Core.fcorrected (k : Core) (w : Nat) : Core :=
  { k with eccFlag := true, ceCount := BitVec.ofNat 16 (satAdd 65535 k.ceCount.toNat 1),
           eccAddr := BitVec.ofNat 32 (w * 16384),
           fback := match k.fback with | some x => some x | none => some w }

/-- Check the flag words of the slots touched (R68). The word address of an uncorrectable one is that of the first byte
whose flag it holds, as in `Core.fcorrected` (DESIGN CHOICE, log 39). -/
def Core.checkFlags (k : Core) (a n : Nat) : Core × Option Nat :=
  let hit := k.badFlag.filter fun p => decide (a / 16384 ≤ p.1) && decide (p.1 ≤ (a + n - 1) / 16384)
  let k1 := (hit.filter fun p => !p.2).foldl (fun k p => k.fcorrected p.1) k
  match hit.find? (·.2) with
  | some p => ({ k1 with eccFlag := true }, some (p.1 * 2048))
  | none => (k1, none)

/-- The flags of slots `ts` change to `fl`: their flag words are written with valid check bits, and a write-back of one
is cancelled (R64, R68). -/
def Core.setFlags (k : Core) (fl ts : List Nat) : Core :=
  { k with flags := fl, badFlag := k.badFlag.filter fun p => !(ts.any fun t => t / 64 == p.1),
           fback := k.fback.filter fun w => !(ts.any fun t => t / 64 == w) }

/-- The slots whose last byte lies in [a, a + n). -/
def lastsOf (a n : Nat) : List Nat :=
  (slotsOf a n).filter fun t => decide (a ≤ t * 256 + 255) && decide (t * 256 + 255 < a + n)

/-- A read of [a, a + n) by a port (R64, R65, R70, R75). -/
def Core.readAcc (k : Core) (banner : Banner) (p : Port) (a n : Nat) : Acc :=
  match k.check banner p a n with
  | .error r => .bad k r 0
  | .ok e =>
    let (k1, fbad) := if rgnFlagged e then k.checkFlags a n else (k, none)
    match fbad with
    | some w => .bad k1 0x60 (BitVec.ofNat 64 (w * 8))
    | none =>
    match (if rgnFlagged e then (slotsOf a n).find? (fun t => !k1.flags.contains t) else none) with
    | some t => .wait k1 t
    | none =>
      match k1.checkWords a n with
      | (k2, some w) => .bad k2 0x60 (BitVec.ofNat 64 (w * 8))
      | (k2, none) =>
        let emptied := rgnFlagged e && rgnConsumer e == p.consumer && p.consumer != 0
        let ts := if emptied then lastsOf a n else []
        .done (k2.setFlags (k2.flags.filter fun t => !ts.contains t) ts) (memRead k2.mem a n)

/-- The words a write covers are written with valid check bits, and their write-backs cancelled (R64). -/
def Core.clearMarks (k : Core) (a n : Nat) : Core :=
  { k with badWord := k.badWord.filter (fun p => !(decide (a / 8 ≤ p.1) && decide (p.1 ≤ (a + n - 1) / 8))),
           wback := k.wback.filter (fun p => !(decide (a / 8 ≤ p.2) && decide (p.2 ≤ (a + n - 1) / 8))) }

/-- The words a write covers only in part (R63). -/
def partWords (a n : Nat) : List Nat :=
  (if a % 8 = 0 then [] else [a / 8]) ++ (if (a + n) % 8 = 0 then [] else [(a + n) / 8])

/-- Check the words that a write reads because it covers only part of them (R63, R64). -/
def Core.checkPart (k : Core) (ws : List Nat) : Core × Option Nat :=
  k.checkHits (k.badWord.filter fun p => ws.contains p.1)

/-- Store bytes and set their slots' flags: the effect of a write that passed its checks. -/
def Core.store (k : Core) (flagged : Bool) (a : Nat) (data : List Byte) : Core :=
  let n := data.length
  let k1 := k.clearMarks a n
  let ts := if flagged then lastsOf a n else []
  { k1 with mem := memWrite k1.mem a data }.setFlags (ts.foldl (fun l t => insNat t l) k1.flags) ts

/-- A write of `data` at `a` by a port, `aligned` when it is one that R74 asks to cover whole slots of a flagged region
(R63, R65, R70, R74). -/
def Core.writeIf (k : Core) (banner : Banner) (p : Port) (aligned : Bool) (a : Nat) (data : List Byte) : Acc :=
  let n := data.length
  match k.check banner p a n with
  | .error r => .bad k r 0
  | .ok e =>
    if rgnFlagged e && aligned && (decide (a % 256 ≠ 0) || decide (n % 256 ≠ 0)) then .bad k 0x13 0
    else
    let (k1, fbad) := if rgnFlagged e then k.checkFlags a n else (k, none)
    match fbad with
    | some w => .bad k1 0x60 (BitVec.ofNat 64 (w * 8))
    | none =>
    match (if rgnFlagged e then (slotsOf a n).find? (fun t => k1.flags.contains t) else none) with
    | some t => .wait k1 t
    | none =>
      match k1.checkPart (partWords a n) with
      | (k2, some w) => .bad k2 0x60 (BitVec.ofNat 64 (w * 8))
      | (k2, none) => .done (k2.store (rgnFlagged e) a data) []

/-- A whole write of a port. -/
def Core.writeAcc (k : Core) (banner : Banner) (p : Port) (a : Nat) (data : List Byte) : Acc :=
  k.writeIf banner p p.slotAligned a data

/-- The core runs a task (Table 3.4). -/
def Core.runsTask (k : Core) : Bool := k.st == .running || k.st == .landed

/-- An access held by a flag (R76), named by its instruction and its part of it: one more refusal; beyond the region's
grace the core halts at once. -/
def State.refused (s : State) (c : Nat) (slot : Nat) (write : Bool) (t : Tag) (part : Nat) (e : Engine) : State :=
  let k := s.core c
  let grace := match k.region (slot * 256) 256 with | some r => rgnGrace r | none => 0
  let n := match k.refusals.find? (fun r => r.isOf e t.ord part) with
    | some r => if r.write = write then r.n + 1 else 1
    | none => 1
  let r : RefusedAcc := { engine := e, ord := t.ord, part := part, slot := slot, write := write, pc := t.pc, n := n }
  if grace < n then s.haltCore c (if write then 0x21 else 0x20) t.pc (.of e) 0
  else s.setCore c { k with refusals := r :: k.refusals.filter (fun r => !r.isOf e t.ord part) }

/-- An access that a flag held has been served: its count of refusals starts again. -/
def Core.served (k : Core) (e : Engine) (ord part : Nat) : Core :=
  { k with refusals := k.refusals.filter fun r => !r.isOf e ord part }

/-- FLAG_TIMEOUT: the grace of an access that a flag holds has run out (R76). Where several are held, the spec's words
do not tell which one it is: it is free (log 39). -/
def xFlagTimeout (c : Nat) (s : State) : State :=
  let l := (s.core c).refusals
  match l[s.freshAt 2 % l.length]? with
  | some r => s.tick.haltCore c (if r.write then 0x21 else 0x20) r.pc (.of r.engine) 0
  | none => s

/-- Read [a, a + n) on the stream port in accesses of 64 bytes (Table 3.3), after the bytes `got` that earlier cycles
read: the bytes read, and what the next access comes to (R75). -/
def readBeats (k : Core) (banner : Banner) (a n : Nat) : Nat → List Byte → List Byte × Acc
  | 0, got => (got, .done k got)
  | fuel + 1, got =>
    if n ≤ got.length then (got, .done k got) else
    match k.readAcc banner .streamR (a + got.length) (min 64 (n - got.length)) with
    | .done k1 d => readBeats k1 banner a n fuel (got ++ d)
    | r => (got, r)

end Sys2Proof.Machine
end

