-- ==== Sys2Proof/Machine/Operands.lean ====
section
/-! DEFINITION. The instruction word (Table 8.1), operand slots and selectors (R170), address descriptors (R178 to
R180), and the issue checks that are common to all engines (R173, R194). -/

namespace Sys2Proof.Machine

/-! ### The word -/

/-- The 128-bit word of an opcode and its fields (Table 8.1). -/
def encodeWord (op : Nat) (w : IWord) : BitVec 128 :=
  BitVec.ofNat 8 op ++ w.mod ++ w.wCc ++ w.wAmt ++ w.sCc ++ BitVec.ofBool w.sEn ++ BitVec.ofBool w.rsv ++
    w.o0 ++ w.o1 ++ w.o2 ++ w.o3 ++ w.o4 ++ w.o5

/-- The fields of a word. -/
def fieldsOf (x : BitVec 128) : IWord :=
  { mod := x.extractLsb' 112 8, wCc := x.extractLsb' 108 4, wAmt := x.extractLsb' 102 6, sCc := x.extractLsb' 98 4,
    sEn := x.getLsbD 97, rsv := x.getLsbD 96, o0 := x.extractLsb' 80 16, o1 := x.extractLsb' 64 16,
    o2 := x.extractLsb' 48 16, o3 := x.extractLsb' 32 16, o4 := x.extractLsb' 16 16, o5 := x.extractLsb' 0 16 }

/-- Opcodes assigned by Tables 8.6 and 9.1 (R168, R190, R193). -/
def assignedOp (op : Nat) : Bool :=
  decide (op ≤ 0x0C) || (decide (0x20 ≤ op) && decide (op ≤ 0x25)) || (decide (0x40 ≤ op) && decide (op ≤ 0x56)) ||
  (decide (0x60 ≤ op) && decide (op ≤ 0x65)) || (decide (0x80 ≤ op) && decide (op ≤ 0x84))

/-- The immediate O4:O5 (R170). -/
def wImm (w : IWord) : BitVec 32 := w.o4 ++ w.o5

def wSlots (w : IWord) : List Nat := [w.o0.toNat, w.o1.toNat, w.o2.toNat, w.o3.toNat, w.o4.toNat, w.o5.toNat]

/-- Field [hi:lo] of the modifiers. -/
def wMod (w : IWord) (hi lo : Nat) : Nat := fieldOf w.mod.toNat hi lo

/-! ### Selectors (Table 8.3) -/

inductive SelKind where
  | desc | vreg | lane | konst | imm
  deriving DecidableEq, Repr, Inhabited

def selKind (v : Nat) : SelKind :=
  match v / 16384 with
  | 0 => .desc | 1 => .vreg | 2 => .lane
  | _ => if bitOf v 13 then .imm else .konst

/-- A bit that the selector's kind leaves unused is set. -/
def selReserved (v : Nat) : Bool :=
  match selKind v with
  | .desc => fieldOf v 13 8 != 0
  | .vreg => fieldOf v 9 3 != 0
  | .lane => fieldOf v 9 7 != 0
  | .konst => fieldOf v 12 6 != 0
  | .imm => fieldOf v 12 0 != 0

/-- What an instruction does with an operand slot. -/
inductive SlotUse where
  | unused               -- must be zero (R194)
  | num (mask : Nat)     -- a numeric field; other bits must be zero
  | half                 -- half of the immediate
  | sel (ks : List SelKind)
  deriving DecidableEq, Repr, Inhabited

/-- Some bit of the slot that must be zero is not (R167, R194). -/
def slotReserved (u : SlotUse) (v : Nat) : Bool :=
  match u with
  | .unused => v != 0
  | .num mask => (v &&& (65535 - mask)) != 0
  | .half => false
  | .sel _ => selReserved v

/-- The slot holds a selector of a kind it does not accept (R170). -/
def slotKindBad (u : SlotUse) (v : Nat) : Bool :=
  match u with
  | .sel ks => !ks.contains (selKind v)
  | _ => false

/-- A failed check: reason and auxiliary word. -/
abbrev Bad := Option (BitVec 8 × BitVec 64)

def badIf (b : Bool) (r : BitVec 8) (aux : BitVec 64 := 0) : Bad := if b then some (r, aux) else none

/-- The first check that fails. -/
def firstBad : List Bad → Bad
  | [] => none
  | some x :: _ => some x
  | none :: l => firstBad l

/-- Steps 2 and 3 of R173: reserved bits over the whole word, then selector kinds. -/
def checkWord (w : IWord) (modMask : Nat) (uses : List SlotUse) (more : Bool := false) : Bad :=
  let pairs := uses.zip (wSlots w)
  firstBad
    [ badIf (w.rsv || (w.mod.toNat &&& (255 - modMask)) != 0 || pairs.any (fun p => slotReserved p.1 p.2) || more) 0x01,
      badIf (pairs.any fun p => slotKindBad p.1 p.2) 0x0D ]

/-- Slots that take an immediate in O4:O5 when a selector names it, and are otherwise unused (R170, R194). -/
def immUse (named : Bool) : List SlotUse := if named then [.half, .half] else [.unused, .unused]

def isImm (v : BitVec 16) : Bool := selKind v.toNat == .imm

/-- Value of a slot that holds a constant register or the immediate. -/
def constOrImm (k : Core) (w : IWord) (v : BitVec 16) : Nat :=
  if isImm v then (wImm w).toNat else (tget 0 k.k (fieldOf v.toNat 5 0)).toNat

/-! ### Address descriptors (Table 8.4) -/

structure Desc where
  valid  : Bool
  koffEn : Bool
  koff   : Nat
  rsv    : Bool
  end_   : Nat
  strides : List Int
  counts : List Nat
  hi     : Nat
  lo     : Nat
  deriving DecidableEq, Repr, Inhabited

def Desc.of (x : BitVec 384) : Desc :=
  { valid := x.getLsbD 363, koffEn := x.getLsbD 362, koff := (x.extractLsb' 356 6).toNat,
    rsv := x.getLsbD 355 || x.extractLsb' 364 20 != 0, end_ := (x.extractLsb' 352 3).toNat,
    strides := (List.range 6).map fun i => (x.extractLsb' (160 + 32 * i) 32).toInt,
    counts := (List.range 6).map fun i => (x.extractLsb' (64 + 16 * i) 16).toNat,
    hi := (x.extractLsb' 32 32).toNat, lo := (x.extractLsb' 0 32).toNat }

/-- Bits of base_hi that an end kind uses (Table 8.4). -/
def hiMask (end_ : Nat) : Nat :=
  match end_ with
  | 1 => 0xFF | 2 => 0x707 | 3 => 0xFF | 4 => 0x3FFFF | _ => 0

/-- The conditions of R180 other than alignment, over what a die end and a remote end may name. -/
def Desc.bad (d : Desc) (accept : List Nat) (dieOk remOk : Nat → Bool) : Bool :=
  !d.valid || d.rsv || (d.hi &&& (4294967295 - hiMask d.end_)) != 0 || d.counts.any (· == 0) ||
  !accept.contains d.end_ || (d.end_ == 3 && !dieOk d.hi) || (d.end_ == 4 && !remOk d.hi)

/-- Grade of a member from the manifest (R180, Table 13.3). -/
def State.gradeAt (s : State) (addr : Nat) : Option Nat :=
  match s.manifest with
  | none => none
  | some m => (m.recs[addr / 32 * m.columns + addr % 32]?).map (·.grade)

/-- A die end may name an enabled core allocated to the task. -/
def State.dieOk (s : State) (t : Option Task) (c : Nat) : Bool :=
  s.enabled c && (match t with | some t => t.cores.contains c | none => false)

/-- A remote end may name an enabled core of another member. -/
def State.remOk (s : State) (t : Option Task) (g : Nat) : Bool :=
  decide (g / 256 ≠ s.modAddr) && decide (g % 256 < 160) &&
  (match t with | some t => t.members.contains (BitVec.ofNat 10 (g / 256)) | none => false) &&
  (match s.gradeAt (g / 256) with | some gr => enabledOn gr (g % 256) | none => false)

def Core.desc (k : Core) (i : Nat) : Desc := Desc.of (tget 0 k.ad i)

/-- K[koff] as a signed value, when the descriptor adds it (R179). -/
def Core.koff (k : Core) (d : Desc) : Int :=
  if d.koffEn then (tget 0 k.k d.koff).toInt else 0

/-- The end a descriptor names, with its effective base captured now (R179). -/
def Core.endOf (k : Core) (d : Desc) : StreamEnd :=
  let full : Int := match d.end_ with
    | 1 => (d.lo + d.hi % 256 * 4294967296 : Nat)
    | 2 => (d.lo + d.hi % 8 * 4294967296 : Nat)
    | _ => (d.lo : Nat)
  let w := match d.end_ with | 1 => 40 | 2 => 35 | _ => 32
  { kind := match d.end_ with | 0 => .loc | 1 => .near | 2 => .gallery | 3 => .die | _ => .remote,
    base := wrapInt w (full + k.koff d), counts := d.counts, strides := d.strides,
    slot := d.hi / 256 % 8, core := if d.end_ = 3 then d.hi % 256 else d.hi % 262144 }

/-- Effective base of the local descriptor that a slot selects. -/
def Core.baseOf (k : Core) (v : BitVec 16) : Nat := (k.endOf (k.desc (v.toNat % 256))).base

/-- Step 4 of R173 for one slot: the auxiliary word carries the descriptor index (R180). -/
def State.checkDesc (s : State) (c : Nat) (k : Core) (v : BitVec 16) (accept : List Nat) : Bad :=
  badIf (selKind v.toNat == .desc &&
    (k.desc (v.toNat % 256)).bad accept (s.dieOk (s.taskOf c)) (s.remOk (s.taskOf c))) 0x02
    (BitVec.ofNat 64 (v.toNat % 256))

/-- Digits of an element number in the mixed radix of the level counts (R126, R150). -/
def digits : List Nat → Nat → List Nat
  | [], _ => []
  | n :: l, j => (if n = 0 then 0 else j % n) :: digits l (if n = 0 then j else j / n)

def dotInt : List Nat → List Int → Int
  | x :: xs, y :: ys => x * y + dotInt xs ys
  | _, _ => 0

/-- Address of element `j` at an end whose addresses have `w` bits. -/
def genAddr (w base : Nat) (counts : List Nat) (strides : List Int) (j : Nat) : Nat :=
  wrapInt w (base + dotInt (digits counts j) strides)

end Sys2Proof.Machine
end

