-- ==== Sys2Proof/Machine/Issue.lean ====
section
/-! DEFINITION. The issue stage: presentation of the head instruction, the order of the checks, waits and signals,
the sequential step of the program counter with hardware loops, and instruction fetch (R171 to R177, R183). -/

namespace Sys2Proof.Machine

/-- The core may issue: RUNNING, and its current tread is not closed (R27, R186). -/
def Core.mayIssue (k : Core) : Bool := k.st == .running && k.treadSt == .open_

/-- The engines of a core work while it runs its treads and while it stands at a landing (R56, R30). -/
def Core.engineOn (k : Core) : Bool := k.st == .running || k.st == .landed

/-- The wait of R175 is met. -/
def Core.waitMet (k : Core) (w : IWord) : Bool := decide (w.wAmt.toNat ≤ (tget 0 k.cc w.wCc.toNat).toNat)

/-- Consume the wait. -/
def Core.consume (k : Core) (i : Nat) (n : Nat) : Core :=
  if n = 0 then k else { k with cc := tset k.cc i (BitVec.ofNat 32 ((tget 0 k.cc i).toNat - n)) }

/-- Levels from the innermost outward. -/
def Core.openLevels (k : Core) : List (Nat × LoopLvl) := k.loops.reverse

/-- The innermost level open in the current call frame. -/
def Core.innermost (k : Core) : Option (Nat × LoopLvl) := k.openLevels.find? fun p => p.2.depth == k.retStack.length

/-- The instruction at the program counter is the last of an open body of the frame (R184). -/
def Core.lastOfBody (k : Core) : Bool := k.loops.any fun p => p.2.depth == k.retStack.length && p.2.last == k.pc

/-- Loop buffers keep what the fetch unit holds of the first 16 instructions of a body, issued or passed over (R183). A word
of them that a redirect passes over before it is fetched is read when it comes to issue (DEDUCED, log 39). -/
def Core.keepLoops (k : Core) : Core :=
  { k with loops := k.loops.map fun p =>
      let new := k.fetchBuf.filter fun e =>
        decide ((e.1 - p.2.first).toNat < 256) && decide (e.1.toNat ≤ p.2.last.toNat) && !(p.2.buf.any fun x => x.1 == e.1)
      (p.1, { p.2 with buf := p.2.buf ++ new }) }

/-- The words that the loop buffers of the open levels hold: a body of up to 16 instructions issues wholly from them,
whatever redirects it makes (R183). -/
def Core.loopWords (k : Core) : List (BitVec 32 × Fetched) :=
  (k.loops.flatMap fun p => p.2.buf).foldl (fun l e => if l.any (fun x => x.1 == e.1) then l else l ++ [e]) []

/-- Close or repeat the levels that end at the program counter, from the innermost (R183). -/
def loopBack (k : Core) : Nat → Core
  | 0 => { k with pc := k.pc + 16 }
  | fuel + 1 =>
    match k.innermost with
    | none => { k with pc := k.pc + 16 }
    | some (i, l) =>
      if l.last = k.pc then
        let n := l.count - 1
        if n = 0 then loopBack { k with loops := tdel k.loops i, lcs := tset k.lcs i 0 } fuel
        else { k with loops := tset k.loops i { l with count := n }, lcs := tset k.lcs i n, pc := l.first,
                      fetchBuf := k.loopWords }
      else { k with pc := k.pc + 16 }

/-- The sequential step after an issue: the issued word leaves the fetch buffer (R171, R183). -/
def Core.advance (k : Core) : Core :=
  let k1 := k.keepLoops
  loopBack { k1 with fetchBuf := k1.fetchBuf.filter fun p => p.1 != k1.pc } 4

/-- A redirect (R172): the fetch buffer is refilled from the new address, but for what the loop buffers hold. -/
def Core.redirect (k : Core) (pc : BitVec 32) : Core := { k with pc := pc, fetchBuf := k.loopWords }

/-- Round-relative tread of a core's task (R186). -/
def State.treadOf (s : State) (c : Nat) : Nat := match s.taskOf c with | some t => t.tread | none => 0

/-- Tag of the instruction that issues. -/
def State.tagOf (s : State) (c : Nat) (w : IWord) : Tag :=
  let k := s.core c
  { ord := k.ord, pc := k.pc, sig := if w.sEn then some w.sCc else none, tread := s.treadOf c }

/-- Issue proper: the wait is consumed, the issue order number is taken, the first PC of the tread is noted. -/
def Core.take (k : Core) (w : IWord) : Core :=
  let k1 := k.consume w.wCc.toNat w.wAmt.toNat
  { k1 with ord := k1.ord + 1, firstPc := match k1.firstPc with | some p => some p | none => some k1.pc }

/-- Present an instruction word to the issue stage of core `c`. Nothing happens unless the word is the one at the
head, and while an armed change of the tread is still to be applied (R41); a fault held against the address is raised
(R171); then, once the wait is met and `ready` holds, the word issues: the checks run (R173), and `act` runs on the state in
which the core has taken the instruction. -/
def State.present (s : State) (c : Nat) (op : Nat) (w : IWord) (checks : Core → Bad) (ready : Core → Bool)
    (act : State → Tag → State) : State :=
  let k := s.core c
  if !k.mayIssue || s.changeDue then s else
  match k.head with
  | none => s
  | some (.fault r aux) => s.haltCore c r k.pc (.of .control) aux
  | some (.word x) =>
    if x ≠ encodeWord op w || !(k.waitMet w && ready k) then s else
    match checks k with
    | some (r, aux) => s.haltCore c r k.pc (.of (engineOf op)) aux
    | none => act (s.setCore c (k.take w)) (s.tagOf c w)

/-- A control instruction completes at its issue: signal, then the sequential step (R176). -/
def State.completeControl (s : State) (c : Nat) (t : Tag) : State :=
  (s.updCore c Core.advance).signal c t .control

/-- An engine instruction that issued: the sequential step only. -/
def State.stepPc (s : State) (c : Nat) : State := s.updCore c Core.advance

/-- The next address the fetch unit reads: the first one from the program counter that it does not hold. -/
def nextFetch (buf : List (BitVec 32 × Fetched)) : Nat → BitVec 32 → Option (BitVec 32)
  | 0, _ => none
  | n + 1, a => if buf.any (fun p => p.1 == a) then nextFetch buf n (a + 16) else some a

/-- One access of the fetch unit (R169, R171): the word, or the fault held against the address. -/
def fetchOne (s : State) (c : Nat) : State :=
  let k := s.core c
  if k.st ≠ .running then s else
  match nextFetch k.fetchBuf 32 k.pc with
  | none => s
  | some a =>
    let put (k : Core) (f : Fetched) : State := s.setCore c { k with fetchBuf := k.fetchBuf ++ [(a, f)] }
    match k.readAcc (s.coreBanner c) .fetch a.toNat 16 with
    | .done k1 d => put k1 (.word (BitVec.ofNat 128 (leNat d)))
    | .wait .. => s
    | .bad k1 r aux => put k1 (.fault r aux)

/-- Matrix instructions that have not completed; an M.SCALE counts until its run begins (R187, R116). -/
def Core.matrixBusy (k : Core) : Bool :=
  !k.mat.aq.isEmpty || !k.mat.xq.isEmpty || !k.mat.dq.isEmpty ||
  k.mat.pass.any (fun p => p.2.scaleTag.isSome)

/-- Earlier instructions of the named engines have completed (R187). -/
def Core.fenceMet (k : Core) (engines : Nat) : Bool :=
  let e := if engines = 0 then 15 else engines
  (!bitOf e 0 || !k.matrixBusy) && (!bitOf e 1 || k.vq.isEmpty) && (!bitOf e 2 || k.sq.isEmpty) &&
  (!bitOf e 3 || (k.xwait.isEmpty && k.xq.isEmpty && k.expects.isEmpty))

end Sys2Proof.Machine
end

