-- ==== Sys2Proof/Machine/Control.lean ====
section
/-! DEFINITION. Meanings of the control instructions and of instruction fetch (08, Tables 8.5 and 8.6). -/

namespace Sys2Proof.Machine

def pcRsv (w : IWord) : Bool := fieldOf (wImm w).toNat 3 0 != 0

/-- NOP (R189). -/
def xNop (c : Nat) (w : IWord) (s : State) : State :=
  s.present c 0x00 w (fun _ => checkWord w 0 (List.replicate 6 .unused)) (fun _ => true)
    fun s t => s.completeControl c t

/-- HALT (R189): the auxiliary word carries the immediate. -/
def xHalt (c : Nat) (w : IWord) (s : State) : State :=
  s.present c 0x01 w (fun _ => checkWord w 0 (List.replicate 4 .unused ++ [.half, .half])) (fun _ => true)
    fun s t => s.haltCore c 0x0F t.pc (.of .control) (BitVec.ofNat 64 (wImm w).toNat)

/-- Loop checks of R184 for a LOOP of level i and body length b. -/
def loopBad (k : Core) (i b : Nat) : Bool :=
  let last := k.pc + BitVec.ofNat 32 (16 * b)
  k.loops.any (fun p => p.1 == i) || (List.range i).any (fun j => !(k.loops.any fun p => p.1 == j)) || b == 0 ||
  k.lastOfBody ||
  (match k.innermost with
   | some (_, l) => decide (l.last.toNat < last.toNat)
   | none => false)

/-- LOOP (R182, R184): a count of 0 skips the body as a redirect. -/
def xLoop (c : Nat) (w : IWord) (s : State) : State :=
  let i := wMod w 1 0
  let b := w.o1.toNat
  s.present c 0x02 w
    (fun k => firstBad
      [checkWord w 3 ([.sel [.konst, .imm], .num 65535, .unused, .unused] ++ immUse (isImm w.o0)),
       badIf (loopBad k i b) 0x03])
    (fun _ => true)
    fun s t =>
      let k := s.core c
      let n := BitVec.ofNat 32 (constOrImm k w w.o0)
      if n = 0 then
        (s.setCore c (k.keepLoops.redirect (k.pc + BitVec.ofNat 32 (16 * (b + 1))))).signal c t .control
      else
        let k1 := k.advance
        let l : LoopLvl := { count := n, first := k.pc + 16, last := k.pc + BitVec.ofNat 32 (16 * b),
                             depth := k.retStack.length, buf := [] }
        (s.setCore c { k1 with loops := tset k1.loops i l, lcs := tset k1.lcs i n }).signal c t .control

/-- JUMP leaves no innermost body of the frame, and is no last instruction of a body (R184). -/
def jumpBad (k : Core) (target : BitVec 32) : Bool :=
  k.lastOfBody ||
  (match k.innermost with
   | some (_, l) => decide (target.toNat < l.first.toNat) || decide (l.last.toNat < target.toNat)
   | none => false)

def xJump (c : Nat) (w : IWord) (s : State) : State :=
  s.present c 0x03 w
    (fun k => firstBad
      [checkWord w 0 (List.replicate 4 .unused ++ [.half, .half]) (pcRsv w), badIf (jumpBad k (wImm w)) 0x03])
    (fun _ => true)
    fun s t => (s.updCore c fun k => k.keepLoops.redirect (wImm w)).signal c t .control

/-- CALL (R185): push PC + 16; eight addresses at most. -/
def xCall (c : Nat) (w : IWord) (s : State) : State :=
  s.present c 0x04 w
    (fun k => firstBad
      [checkWord w 0 (List.replicate 4 .unused ++ [.half, .half]) (pcRsv w), badIf k.lastOfBody 0x03,
       badIf (decide (8 ≤ k.retStack.length)) 0x04])
    (fun _ => true)
    fun s t =>
      (s.updCore c fun k =>
        { (k.keepLoops.redirect (wImm w)) with retStack := (k.pc + 16) :: k.retStack }).signal c t .control

/-- RET (R184, R185): no level opened in the frame may be open. -/
def xRet (c : Nat) (w : IWord) (s : State) : State :=
  s.present c 0x05 w
    (fun k => firstBad
      [checkWord w 0 (List.replicate 6 .unused), badIf (k.lastOfBody || k.innermost.isSome) 0x03,
       badIf k.retStack.isEmpty 0x04])
    (fun _ => true)
    fun s t =>
      (s.updCore c fun k =>
        { (k.keepLoops.redirect (k.retStack.headD 0)) with retStack := k.retStack.tail }).signal c t .control

/-! ### SETK (R181, Table 8.5) -/

/-- The word's mode is this row's, or the reserved mode, which every SETK row presents and R181 halts. -/
def setkRow (w : IWord) (mode : Nat) : Bool := wMod w 2 0 == mode || wMod w 2 0 == 7

/-- Slot uses of a SETK mode. -/
def setkUses (mode : Nat) : List SlotUse :=
  [.sel [.konst], if mode = 2 then .sel [.konst] else if mode = 3 then .sel [.desc] else .unused, .unused, .unused] ++
  immUse (mode == 0 || mode == 1 || mode == 5 || mode == 6)

/-- Checks of a SETK: reserved bits, mode and mask; kinds; the descriptor and its alignment in load mode. -/
def setkBad (s : State) (c : Nat) (w : IWord) (mode : Nat) (k : Core) : Bad :=
  firstBad
    [badIf (wMod w 2 0 == 7) 0x01,
     checkWord w 7 (setkUses mode) ((mode == 5 || mode == 6) && fieldOf (wImm w).toNat 31 10 != 0),
     if mode = 3 then firstBad [s.checkDesc c k w.o1 [0],
       badIf (k.baseOf w.o1 % 4 != 0) 0x02 (BitVec.ofNat 64 (w.o1.toNat % 256))] else none]

/-- A SETK whose effect is an update of the core's own registers. -/
def setkSimple (c : Nat) (w : IWord) (mode : Nat) (f : Core → Core) (s : State) : State :=
  if !setkRow w mode then s else
  s.present c 0x06 w (setkBad s c w mode) (fun _ => true)
    fun s t => (s.updCore c f).completeControl c t

def Core.setK (k : Core) (i : Nat) (v : BitVec 32) : Core := { k with k := tset k.k i v }
def Core.getK (k : Core) (i : Nat) : BitVec 32 := tget 0 k.k i
/-- The constant register a slot selects. -/
def kIdx (v : BitVec 16) : Nat := fieldOf v.toNat 5 0

def xSetkSet (c : Nat) (w : IWord) (s : State) : State :=
  setkSimple c w 0 (fun k => k.setK (kIdx w.o0) (wImm w)) s
def xSetkAdd (c : Nat) (w : IWord) (s : State) : State :=
  setkSimple c w 1 (fun k => k.setK (kIdx w.o0) (k.getK (kIdx w.o0) + wImm w)) s
def xSetkCopy (c : Nat) (w : IWord) (s : State) : State :=
  setkSimple c w 2 (fun k => k.setK (kIdx w.o0) (k.getK (kIdx w.o1))) s
def xSetkFlags (c : Nat) (w : IWord) (s : State) : State :=
  setkSimple c w 4 (fun k => k.setK (kIdx w.o0) (k.vflags.setWidth 32)) s
def xSetkFlagClear (c : Nat) (w : IWord) (s : State) : State :=
  setkSimple c w 5 (fun k => { k with vflags := k.vflags &&& ~~~((wImm w).setWidth 10) }) s
def xSetkFlagSet (c : Nat) (w : IWord) (s : State) : State :=
  setkSimple c w 6 (fun k => { k with vflags := k.vflags ||| (wImm w).setWidth 10 }) s

/-- What an access that does not complete leaves: the wait of the instruction is given back. -/
def Core.giveBack (k old : Core) : Core := { k with cc := old.cc, ord := old.ord, firstPc := old.firstPc }

/-- SETK load: the 32-bit word at element 0 of the descriptor in O1. -/
def xSetkLoad (c : Nat) (w : IWord) (s : State) : State :=
  if !setkRow w 3 then s else
  let old := s.core c
  s.present c 0x06 w (setkBad s c w 3) (fun _ => true) fun s t =>
    let k := s.core c
    match k.readAcc (s.coreBanner c) .control (k.baseOf w.o1) 4 with
    | .wait k1 slot => (s.setCore c (k1.giveBack old)).refused c slot false t 0 .control
    | .bad k1 r aux => (s.setCore c (k1.giveBack old)).haltCore c r k.pc (.of .control) aux
    | .done k1 d =>
      (s.setCore c ((k1.served .control t.ord 0).setK (kIdx w.o0) (BitVec.ofNat 32 (leNat d)))).completeControl c t

/-! ### Counters -/

def ccIdx (v : BitVec 16) : Nat := fieldOf v.toNat 3 0

/-- What WAITCC needs of each counter: its own amount and the word's wait, summed when they name one counter. A slot that
selects no amount holds nothing back: the word is refused at issue (R170). -/
def waitccMet (k : Core) (w : IWord) : Bool :=
  let n := constOrImm k w w.o1
  let same := if w.wCc.toNat = ccIdx w.o0 then w.wAmt.toNat else 0
  decide (w.o1.toNat < 49152) || decide (n + same ≤ (tget 0 k.cc (ccIdx w.o0)).toNat)

/-- WAITCC (R175): an amount of 0 halts with 0x0B. -/
def xWaitcc (c : Nat) (w : IWord) (s : State) : State :=
  s.present c 0x07 w
    (fun k => firstBad
      [checkWord w 0 ([.num 15, .sel [.konst, .imm], .unused, .unused] ++ immUse (isImm w.o1)),
       badIf (constOrImm k w w.o1 == 0) 0x0B (BitVec.ofNat 64 (ccIdx w.o0))])
    (fun k => waitccMet k w)
    fun s t => (s.updCore c fun k => k.consume (ccIdx w.o0) (constOrImm k w w.o1)).completeControl c t

/-- SIGNAL (R176): adds its amount at issue; an amount of 0 or an overflow halts with 0x0B. -/
def xSignalCc (c : Nat) (w : IWord) (s : State) : State :=
  s.present c 0x08 w
    (fun k => firstBad
      [checkWord w 0 ([.num 15, .sel [.konst, .imm], .unused, .unused] ++ immUse (isImm w.o1)),
       badIf (constOrImm k w w.o1 == 0) 0x0B (BitVec.ofNat 64 (ccIdx w.o0))])
    (fun _ => true)
    fun s t =>
      let k := s.core c
      match k.addCC (ccIdx w.o0) (constOrImm k w w.o1) with
      | some k1 => (s.setCore c k1).completeControl c t
      | none => s.haltCore c 0x0B t.pc (.of .control) (BitVec.ofNat 64 (ccIdx w.o0))

/-! ### Treads -/

/-- Close the core's tread: the trace entry of R444 is made. -/
def State.closeTread (s : State) (c : Nat) (st : TreadSt) (pc : BitVec 32) : State :=
  let k := s.core c
  (s.setCore c { (k.pushTrace (traceOf s { k with pc := pc } (s.taskOf c))) with treadSt := st }).tick

/-- LAND (R27, R186): the core issues nothing more until the boundary. -/
def xLand (c : Nat) (w : IWord) (s : State) : State :=
  s.present c 0x09 w (fun _ => checkWord w 0 (List.replicate 6 .unused)) (fun _ => true)
    fun s t => (s.closeTread c .landed t.pc).completeControl c t

/-- UNTIL n (R29, R186): completes at once when tread n is current, halts with 0x30 when it is past, and otherwise
waits for the boundary that begins it. -/
def xUntilTread (c : Nat) (w : IWord) (s : State) : State :=
  s.present c 0x0A w
    (fun _ => checkWord w 0 ([.sel [.konst, .imm], .unused, .unused, .unused] ++ immUse (isImm w.o0)))
    (fun _ => true)
    fun s t =>
      let n := constOrImm (s.core c) w w.o0
      let cur := s.treadOf c
      if n < cur then s.haltCore c 0x30 t.pc .none 0
      else if n = cur then s.completeControl c t
      else (s.updCore c fun k => { k with treadSt := .untilT n t }).stepPc c

/-- FENCE (R187). -/
def xFence (c : Nat) (w : IWord) (s : State) : State :=
  s.present c 0x0B w (fun _ => checkWord w 15 (List.replicate 6 .unused)) (fun k => k.fenceMet (wMod w 3 0))
    fun s t => s.completeControl c t

/-- The current tread is the round's last (R186). -/
def State.lastTread (s : State) (c : Nat) : Bool :=
  match s.taskOf c with
  | some t => match t.kinds[t.kind]? with
    | some r => decide (t.tread + 1 = r.length)
    | none => false
  | none => false

/-- The word after the one at the head, when the fetch unit holds it. -/
def Core.following (k : Core) : Option Fetched := (k.fetchBuf.find? fun p => p.1 == k.pc + 16).map (·.2)

/-- The following word is a LAND. -/
def nextIsLand : Option Fetched → Bool
  | some (.word x) => opcodeOf x == 0x09
  | _ => false

/-- EXIT (R188): reads the 64-bit word; the outcome takes effect at the landing. It waits until the fetch unit
holds the next word, which must be the round-closing LAND. -/
def xExitRound (c : Nat) (w : IWord) (s : State) : State :=
  let old := s.core c
  if old.following.isNone then s else
  s.present c 0x0C w
    (fun k => firstBad
      [checkWord w 0 [.sel [.desc], .unused, .unused, .unused, .half, .half] (pcRsv w),
       s.checkDesc c k w.o0 [0],
       badIf (k.baseOf w.o0 % 8 != 0) 0x02 (BitVec.ofNat 64 (w.o0.toNat % 256)),
       badIf k.lastOfBody 0x03,
       badIf (!(nextIsLand k.following && s.lastTread c)) 0x0C])
    (fun _ => true)
    fun s t =>
      let k := s.core c
      match k.readAcc (s.coreBanner c) .control (k.baseOf w.o0) 8 with
      | .wait k1 slot => (s.setCore c (k1.giveBack old)).refused c slot false t 0 .control
      | .bad k1 r aux => (s.setCore c (k1.giveBack old)).haltCore c r k.pc (.of .control) aux
      | .done k1 d =>
        (s.setCore c { k1.served .control t.ord 0 with
          exitOut := if leNat d = 0 then none else some (wImm w) }).completeControl c t

/-- ILLEGAL_INSTRUCTION (R168): a word at the head whose opcode is not assigned halts the core with 0x00. -/
def xIllegalInstruction (c : Nat) (word : BitVec 128) (s : State) : State :=
  let k := s.core c
  if k.mayIssue && !s.changeDue && k.head == some (.word word) && !assignedOp (opcodeOf word) then
    s.haltCore c 0x00 k.pc (.of (engineOf (opcodeOf word))) 0
  else s

/-! ### Meanings -/

def execFlagTimeout (c : CoreId) (s : State) : Out := .next (xFlagTimeout c s)

def execNop (c : CoreId) (w : IWord) (s : State) : Out := .next (xNop c w s)
def execHalt (c : CoreId) (w : IWord) (s : State) : Out := .next (xHalt c w s)
def execLoop (c : CoreId) (w : IWord) (s : State) : Out := .next (xLoop c w s)
def execJump (c : CoreId) (w : IWord) (s : State) : Out := .next (xJump c w s)
def execCall (c : CoreId) (w : IWord) (s : State) : Out := .next (xCall c w s)
def execRet (c : CoreId) (w : IWord) (s : State) : Out := .next (xRet c w s)
def execSetkSet (c : CoreId) (w : IWord) (s : State) : Out := .next (xSetkSet c w s)
def execSetkAdd (c : CoreId) (w : IWord) (s : State) : Out := .next (xSetkAdd c w s)
def execSetkCopy (c : CoreId) (w : IWord) (s : State) : Out := .next (xSetkCopy c w s)
def execSetkLoad (c : CoreId) (w : IWord) (s : State) : Out := .next (xSetkLoad c w s)
def execSetkFlags (c : CoreId) (w : IWord) (s : State) : Out := .next (xSetkFlags c w s)
def execSetkFlagClear (c : CoreId) (w : IWord) (s : State) : Out := .next (xSetkFlagClear c w s)
def execSetkFlagSet (c : CoreId) (w : IWord) (s : State) : Out := .next (xSetkFlagSet c w s)
def execWaitcc (c : CoreId) (w : IWord) (s : State) : Out := .next (xWaitcc c w s)
def execSignalCc (c : CoreId) (w : IWord) (s : State) : Out := .next (xSignalCc c w s)
def execLand (c : CoreId) (w : IWord) (s : State) : Out := .next (xLand c w s)
def execUntilTread (c : CoreId) (w : IWord) (s : State) : Out := .next (xUntilTread c w s)
def execFence (c : CoreId) (w : IWord) (s : State) : Out := .next (xFence c w s)
def execExitRound (c : CoreId) (w : IWord) (s : State) : Out := .next (xExitRound c w s)
def execInstructionFetch (c : CoreId) (s : State) : Out := .next (fetchOne s c)
def execIllegalInstruction (c : CoreId) (word : BitVec 128) (s : State) : Out := .next (xIllegalInstruction c word s)

end Sys2Proof.Machine
end

