-- ==== Sys2Proof/Machine/Flags.lean ====
section
/-! DEFINITION. Number formats, exact values, rounding, conversions and the arithmetic flags (04: R84 to R103, R480). -/

namespace Sys2Proof.Machine

/-! ### Flags (Table 4.8) -/

abbrev Flags := BitVec 8

def fInvalid : Flags := 0x01
def fDivZero : Flags := 0x02
def fOverflow : Flags := 0x04
def fUnderflow : Flags := 0x08
def fInexact : Flags := 0x10
def fSaturate : Flags := 0x20
def fWindow : Flags := 0x40
def fNanIn : Flags := 0x80

/-! ### Formats (Table 4.1) -/

/-- Shape of a floating-point format: exponent bits, mantissa bits, bias; `ieee` formats have infinities and NaNs at
the top exponent, E4M3 has one NaN pattern, the others are finite throughout (R85). -/
structure FpShape where
  eb : Nat
  mb : Nat
  bias : Nat
  ieee : Bool
  deriving DecidableEq, Repr, Inhabited

def fpShape (code : Nat) : Option FpShape :=
  match code with
  | 0x0 => some ⟨2, 1, 1, false⟩
  | 0x3 => some ⟨3, 2, 3, false⟩
  | 0x4 => some ⟨2, 3, 1, false⟩
  | 0x5 => some ⟨4, 3, 7, false⟩
  | 0x6 => some ⟨5, 2, 15, true⟩
  | 0x8 => some ⟨8, 7, 127, true⟩
  | 0x9 => some ⟨5, 10, 15, true⟩
  | 0xA => some ⟨8, 23, 127, true⟩
  | _ => none

/-- Bits of an element of a format. -/
def fmtBits (code : Nat) : Nat :=
  match code with
  | 0x0 | 0x1 | 0x2 => 4
  | 0x3 | 0x4 => 6
  | 0x5 | 0x6 | 0x7 | 0xC => 8
  | 0x8 | 0x9 => 16
  | 0xA | 0xB => 32
  | _ => 0

def isIntFmt (code : Nat) : Bool := code == 0x2 || code == 0x7 || code == 0xB
/-- Formats that carry block scales (R87, R99). -/
def isBlockFmt (code : Nat) : Bool := code == 0x0 || code == 0x3 || code == 0x4 || code == 0x5 || code == 0x6

/-! ### Values -/

/-- An exact value: (-1)^neg × m × 2^e, an infinity, or a NaN. -/
inductive Val where
  | num (neg : Bool) (m : Nat) (e : Int)
  | inf (neg : Bool)
  | nan (signalling : Bool)
  deriving DecidableEq, Repr, Inhabited

def Val.zero : Val := .num false 0 0

def Val.isNan : Val → Bool | .nan _ => true | _ => false
def Val.isSig : Val → Bool | .nan b => b | _ => false
def Val.isZero : Val → Bool | .num _ m _ => m == 0 | _ => false
def Val.neg : Val → Bool | .num n _ _ => n | .inf n => n | .nan _ => false

/-- Integer as a value. -/
def Val.ofInt (x : Int) : Val := .num (decide (x < 0)) x.natAbs 0

/-- Signed mantissa at a common exponent `q` not above the value's own. -/
def scaledTo (neg : Bool) (m : Nat) (e q : Int) : Int :=
  let v : Int := (m * 2 ^ (e - q).toNat : Nat)
  if neg then -v else v

/-- The value that a bit pattern of a format spells (R84, R85, R480). -/
def decodeVal (code : Nat) (x : Nat) : Val :=
  match fpShape code with
  | some f =>
    let neg := bitOf x (f.eb + f.mb)
    let e := fieldOf x (f.eb + f.mb - 1) f.mb
    let m := x % 2 ^ f.mb
    if f.ieee && e == 2 ^ f.eb - 1 then
      if m = 0 then .inf neg else .nan (!bitOf m (f.mb - 1))
    else if code == 0x5 && e == 15 && m == 7 then .nan false
    else if e = 0 then .num neg m (1 - (f.bias : Int) - f.mb)
    else .num neg (m + 2 ^ f.mb) ((e : Int) - f.bias - f.mb)
  | none =>
    if code = 0xC then (if x % 256 = 255 then .nan false else .num false 1 ((x % 256 : Nat) - 127))
    else .ofInt (sextInt (fmtBits code) x)

/-! ### Rounding to nearest, ties to even -/

/-- m × 2^e in units of 2^q, rounded to nearest with ties to even; the flag says whether it is exact. -/
def rne (m : Nat) (e q : Int) : Nat × Bool :=
  if q ≤ e then (m * 2 ^ (e - q).toNat, true)
  else
    let k := (q - e).toNat
    let d := m / 2 ^ k
    let r := m % 2 ^ k
    let half := 2 ^ (k - 1)
    (if half < r || (r == half && d % 2 == 1) then d + 1 else d, r == 0)

/-- Bit length; 0 has length 0. -/
def bitLen (m : Nat) : Nat := if m = 0 then 0 else m.log2 + 1

/-- Largest finite magnitude of a format as mantissa and exponent (Table 4.6). -/
def maxFinite (code : Nat) (f : FpShape) : Nat × Int :=
  if f.ieee then (2 ^ (f.mb + 1) - 1, (2 ^ f.eb : Nat) - 2 - (f.bias : Int) - f.mb)
  else if code = 0x5 then (14, 5)
  else (2 ^ (f.mb + 1) - 1, (2 ^ f.eb : Nat) - 1 - (f.bias : Int) - f.mb)

/-- Bits of a magnitude r × 2^q that the format holds. -/
def packFp (f : FpShape) (neg : Bool) (r : Nat) (q : Int) : Nat :=
  let s := if neg then 2 ^ (f.eb + f.mb) else 0
  let (r, q) := if r = 2 ^ (f.mb + 1) then (2 ^ f.mb, q + 1) else (r, q)
  if r < 2 ^ f.mb then s + r
  else s + (q + f.mb + f.bias).toNat * 2 ^ f.mb + (r - 2 ^ f.mb)

def infBits (f : FpShape) (neg : Bool) : Nat :=
  (if neg then 2 ^ (f.eb + f.mb) else 0) + (2 ^ f.eb - 1) * 2 ^ f.mb

/-- The canonical NaN (R98): sign 0, top mantissa bit set; E4M3 writes 0x7F (R85). -/
def nanBits (code : Nat) (f : FpShape) : Nat :=
  if code = 0x5 then 0x7F else (2 ^ f.eb - 1) * 2 ^ f.mb + 2 ^ (f.mb - 1)

def maxBits (code : Nat) (f : FpShape) (neg : Bool) : Nat :=
  let (r, q) := maxFinite code f
  packFp f neg r q

/-- What rounding a non-zero magnitude to a floating-point format comes to (R97, R98): the rounded magnitude in the
format, whether it overflows, is tiny, is exact. -/
structure RoundRes where
  r : Nat
  q : Int
  beyond : Bool
  tiny : Bool
  exact : Bool
  deriving DecidableEq, Repr, Inhabited

def roundFp (code : Nat) (f : FpShape) (m : Nat) (e : Int) : RoundRes :=
  let emin : Int := 1 - (f.bias : Int)
  let qu : Int := (bitLen m : Int) - 1 + e - f.mb
  let (ru, ex) := rne m e qu
  let tiny := decide (qu + (bitLen ru : Int) - 1 < emin)
  if tiny then
    let q := emin - f.mb
    let (r, ex) := rne m e q
    { r := r, q := q, beyond := false, tiny := true, exact := ex }
  else
    let (mr, mq) := maxFinite code f
    let lo := min qu mq
    let beyond := decide (mr * 2 ^ (mq - lo).toNat < ru * 2 ^ (qu - lo).toNat)
    { r := ru, q := qu, beyond := beyond, tiny := false, exact := ex }

/-- Limits of the integer formats. -/
def intMax (code : Nat) : Int := ((2 ^ (fmtBits code - 1) : Nat) : Int) - 1
def intMin (code : Nat) : Int := -((2 ^ (fmtBits code - 1) : Nat) : Int)
def intBits (code : Nat) (x : Int) : Nat := wrapInt (fmtBits code) x

/-- floor(log2 x) of a non-zero magnitude. -/
def floorLog2 (m : Nat) (e : Int) : Int := (bitLen m : Int) - 1 + e

/-- Conversion to E8M0 (Table 4.12). -/
def toE8M0 (v : Val) : Nat × Flags :=
  match v with
  | .nan sg => (0xFF, fNanIn ||| (if sg then fInvalid else 0))
  | .inf true => (0xFF, fInvalid)
  | .inf false => (0xFE, fSaturate)
  | .num neg m e =>
    if m = 0 then (0, fUnderflow ||| fInexact)
    else if neg then (0xFF, fInvalid)
    else
      let k := floorLog2 m e
      if k < -127 then (0, fUnderflow ||| fInexact)
      else if 127 < k then (0xFE, fSaturate ||| fInexact)
      else ((k + 127).toNat, if (rne m e k).2 then 0 else fInexact)

/-- Conversion of a value to a format by Table 4.7. -/
def convert (code : Nat) (sat : Bool) (v : Val) : Nat × Flags :=
  if code = 0xC then toE8M0 v else
  match fpShape code with
  | some f =>
    let wide := f.ieee
    let e4 := code == 0x5
    match v with
    | .nan sg =>
      let s := if sg then fInvalid else 0
      if wide || e4 then (nanBits code f, fNanIn ||| s) else (0, fNanIn ||| fInvalid)
    | .inf neg =>
      if wide then (if sat then (maxBits code f neg, fSaturate) else (infBits f neg, 0))
      else if e4 then (if sat then (maxBits code f neg, fSaturate) else (0x7F, fOverflow))
      else (maxBits code f neg, fSaturate)
    | .num neg m e =>
      if m = 0 then (packFp f neg 0 0, 0) else
      let x := roundFp code f m e
      if x.beyond then
        if wide then (if sat then (maxBits code f neg, fSaturate ||| fInexact)
                      else (infBits f neg, fOverflow ||| fInexact))
        else if e4 then (if sat then (maxBits code f neg, fSaturate ||| fInexact)
                         else (0x7F, fOverflow ||| fInexact))
        else (maxBits code f neg, fSaturate ||| fInexact)
      else (packFp f neg x.r x.q, if x.exact then 0 else if x.tiny then fUnderflow ||| fInexact else fInexact)
  | none =>
    match v with
    | .nan _ => (0, fNanIn ||| fInvalid)
    | .inf neg => (intBits code (if neg then intMin code else intMax code), fInvalid)
    | .num neg m e =>
      let (r, ex) := rne m e 0
      let x : Int := if neg then -(r : Int) else r
      if intMax code < x then (intBits code (intMax code), fSaturate ||| fInexact)
      else if x < intMin code then (intBits code (intMin code), fSaturate ||| fInexact)
      else (intBits code x, if ex then 0 else fInexact)

/-- Rounding of an operation's exact result to its compute format (R101): like a conversion without sat, but a NaN
that the operation itself made is delivered canonical and raises nothing more. -/
def roundTo (code : Nat) (v : Val) : Nat × Flags :=
  match v, fpShape code with
  | .nan _, some f => (nanBits code f, 0)
  | _, _ => convert code false v

/-! ### Exact operations (R101) -/

/-- Flags that the entry of two operands raises: nan_in for a NaN, invalid for a signalling one. -/
def nanFlags (l : List Val) : Flags :=
  (if l.any Val.isNan then fNanIn else 0) ||| (if l.any Val.isSig then fInvalid else 0)

/-- Exact sum of two finite values with the IEEE sign of a zero sum. -/
def addNum (n1 : Bool) (m1 : Nat) (e1 : Int) (n2 : Bool) (m2 : Nat) (e2 : Int) : Val :=
  let q := min e1 e2
  let x := scaledTo n1 m1 e1 q + scaledTo n2 m2 e2 q
  if x = 0 then .num (n1 && n2 && m1 == 0 && m2 == 0) 0 q else .num (decide (x < 0)) x.natAbs q

def vAddV (a b : Val) : Val × Flags :=
  let f := nanFlags [a, b]
  match a, b with
  | .nan _, _ | _, .nan _ => (.nan false, f)
  | .inf x, .inf y => if x = y then (.inf x, f) else (.nan false, f ||| fInvalid)
  | .inf x, _ => (.inf x, f)
  | _, .inf y => (.inf y, f)
  | .num n1 m1 e1, .num n2 m2 e2 => (addNum n1 m1 e1 n2 m2 e2, f)

def Val.negate : Val → Val
  | .num n m e => .num (!n) m e
  | .inf n => .inf (!n)
  | v => v

def vMulV (a b : Val) : Val × Flags :=
  let f := nanFlags [a, b]
  match a, b with
  | .nan _, _ | _, .nan _ => (.nan false, f)
  | .inf x, .inf y => (.inf (x != y), f)
  | .inf x, .num n m _ => if m = 0 then (.nan false, f ||| fInvalid) else (.inf (x != n), f)
  | .num n m _, .inf y => if m = 0 then (.nan false, f ||| fInvalid) else (.inf (n != y), f)
  | .num n1 m1 e1, .num n2 m2 e2 => (.num (n1 != n2) (m1 * m2) (e1 + e2), f)

/-- a × b + c with one rounding to come (R101). 0 × infinity raises invalid whatever c is (Table 4.8, log 37). -/
def vFmaV (a b c : Val) : Val × Flags :=
  let (p, f) := vMulV a b
  let f0 := nanFlags [a, b, c]
  if c.isNan then (.nan false, f ||| f0)
  else
    let (r, g) := vAddV p c
    if p.isNan then (.nan false, f) else (r, f ||| g)

/-- Order of two finite or infinite values: negative, zero or positive. -/
def cmpVal (a b : Val) : Int :=
  match a, b with
  | .inf x, .inf y => (if x then -1 else 1) - (if y then -1 else 1)
  | .inf x, _ => if x then -1 else 1
  | _, .inf y => if y then 1 else -1
  | .num n1 m1 e1, .num n2 m2 e2 =>
    let q := min e1 e2
    scaledTo n1 m1 e1 q - scaledTo n2 m2 e2 q
  | _, _ => 0

/-- V.MAX and V.MIN (R101, R132): the non-NaN operand when one is NaN; -0 orders below +0. -/
def vMinMax (mx : Bool) (a b : Val) : Val × Flags :=
  let f := nanFlags [a, b]
  match a.isNan, b.isNan with
  | true, true => (.nan false, f)
  | true, false => (b, f)
  | false, true => (a, f)
  | false, false =>
    let d := cmpVal a b
    let aLess := decide (d < 0) || (d == 0 && a.neg && !b.neg)
    (if mx then (if aLess then b else a) else (if aLess then a else b), f)

/-- Predicates of V.CMP (Table 6.2). -/
def vCmpV (pred : Nat) (a b : Val) : Bool × Flags :=
  let un := a.isNan || b.isNan
  let d := cmpVal a b
  let base := nanFlags [a, b]
  let sig := if un && (pred == 2 || pred == 3 || pred == 4 || pred == 5) then base ||| fInvalid else base
  (match pred with
   | 0 => !un && d == 0
   | 1 => un || d != 0
   | 2 => !un && decide (d < 0)
   | 3 => !un && decide (d ≤ 0)
   | 4 => !un && decide (0 < d)
   | 5 => !un && decide (0 ≤ d)
   | _ => un, sig)

/-! ### INT32 (R101) -/

/-- An exact integer result delivered as INT32: wraps, or saturates with sat and raises saturate (R101). DESIGN CHOICE
(log 43): neither raises inexact, which Table 4.8 words for any result that differs from the exact one. -/
def int32Result (sat : Bool) (x : Int) : Nat × Flags :=
  if sat && decide (2147483647 < x) then (0x7FFFFFFF, fSaturate)
  else if sat && decide (x < -2147483648) then (0x80000000, fSaturate)
  else (wrapInt 32 x, 0)

/-! ### Block scales (R99) -/

/-- e_max of a block-scaled target. -/
def blockEmax (code : Nat) : Int :=
  match code with | 0x0 => 2 | 0x4 => 2 | 0x3 => 4 | 0x5 => 8 | _ => 15

/-- Largest exponent floor(log2 |x|) in a block of finite values, when some value is not zero. -/
def blockTop (l : List Val) : Option Int :=
  l.foldl (fun a v => match v with
    | .num _ m e => if m = 0 then a else
        match a with | some t => some (max t (floorLog2 m e)) | none => some (floorLog2 m e)
    | _ => a) none

/-- A block of 32 values in a block-scaled format: its scale byte, its elements and their flags (R99). -/
def toBlock (code : Nat) (l : List Val) : Nat × List (Nat × Flags) :=
  if l.any (fun v => match v with | .num .. => false | _ => true) then
    (0xFF, l.map fun v => (0, match v with
      | .nan sg => fNanIn ||| (if sg then fInvalid else 0)
      | .inf _ => fOverflow
      | .num .. => 0))
  else
    match blockTop l with
    | none => (0, l.map fun _ => (0, 0))
    | some t =>
      let s := max (t - blockEmax code) (-127)
      ((s + 127).toNat, l.map fun v => match v with
        | .num n m e => convert code true (.num n m (e - s))
        | v => convert code true v)

/-- An element of a block-scaled format with its scale byte (R87, R202). -/
def scaledVal (code : Nat) (x scale : Nat) : Val :=
  if scale = 255 then .nan false else
  match decodeVal code x with
  | .num n m e => .num n m (e + ((scale : Int) - 127))
  | v => v

end Sys2Proof.Machine
end

