-- ==== Sys2Proof/Machine/Mesh.lean ====
section
/-! DEFINITION. Sending and receiving over the mesh and toward the link banks: routes (R282, R287), sequence numbers
and windows (R252), inbound writes and reads (R71, R78, R159, R253), and gallery bytes in the read path (R304). -/

namespace Sys2Proof.Machine

/-! ### Routes -/

/-- The link that joins two modules of one line (R282). -/
def rowLink (own peer : Nat) : Nat := if peer < own then peer else peer - 1
def colLink (own peer : Nat) : Nat := if peer < own then 31 + peer else 30 + peer

/-- First-hop link toward a module, and whether it is two hops away (R287). -/
def routeLink (own dest : Nat) : Option (Nat × Bool) :=
  if own = dest then none
  else if own / 32 = dest / 32 then some (rowLink (own % 32) (dest % 32), false)
  else if own % 32 = dest % 32 then some (colLink (own / 32) (dest / 32), false)
  else some (rowLink (own % 32) (dest % 32), true)

/-! ### Sequence numbers and windows (R252) -/

def Core.nextSeq (k : Core) (dest : BitVec 18) : BitVec 16 := tget 0 k.txSeq dest.toNat
def Core.takeSeq (k : Core) (dest : BitVec 18) : Core :=
  { k with txSeq := tset k.txSeq dest.toNat (k.nextSeq dest + 1) }

inductive WinRes where
  | fresh (w : Win)
  | duplicate
  | beyond
  deriving DecidableEq, Repr, Inhabited

/-- Move the lowest number past those already received. -/
def winSlide : Nat → Win → Win
  | 0, w => w
  | n + 1, w =>
    if w.seen.contains w.low then winSlide n { low := (w.low + 1) % 65536, seen := w.seen.filter (· != w.low) } else w

/-- A number against the window of 4,096; half of the number circle behind it counts as behind. -/
def winCheck (w : Win) (seq : Nat) : WinRes :=
  let d := (seq + 65536 - w.low) % 65536
  if d < 4096 then
    if w.seen.contains seq then .duplicate
    else .fresh (winSlide 4096 { w with seen := seq :: w.seen })
  else if 32768 ≤ d then .duplicate
  else .beyond

/-! ### Sending -/

/-- The link schedule entry of a message: it must lie in this tread and hold the flits (R205, R209, R268). -/
def State.entryOk (s : State) (c entry flits : Nat) : Option LinkEntry :=
  match s.taskOf c with
  | none => none
  | some t =>
    match t.links[entry]? with
    | none => none
    | some e => if e.kind = t.kind ∧ e.tread = t.tread ∧ flits ≤ e.flits then some e else none


def State.toMesh (s : State) (p : Packet) : State := { s with mesh := s.mesh ++ [p] }

/-- An answer that a receiver returns: notice, refusal or get data; rcc 1 marks the answer to a get. -/
def answerOf (p : Packet) (s : State) (kind : BitVec 4) (reason : BitVec 8) (data : List Byte) : Packet :=
  { kind := kind, banner := p.banner, source := s.globalAddr p.dest, dest := p.source.toNat % 256, seq := p.seq, rcc := if p.kind = 4 then 1 else 0,
    part := 0, parts := 0, address := if kind = 5 then p.back else p.address, payload := data, atom := none, len := 0, back := 0,
    reason := reason, deadline := 0, fromLink := false }

/-- Number of data frames of a message. -/
def flitsOf (n : Nat) : Nat := max 1 (ceilDiv n 64)

/-- Frames' start of a message that has no link schedule entry: answers to remote requests, which the manual gives
no entry, take scheduled slots that no entry fills (log 15). -/
def noEntry : Nat := 252

/-- Place a message with a link bank (R267, R268). -/
def State.toLink (s : State) (l start : Nat) (h : HeadInfo) (data : List Byte) : State :=
  s.updLink l fun k => { k with txQ := k.txQ ++
    [{ head := h, data := data, start := start, tread := s.clk.treadCount, placed := 0, bulk := false }] }

/-- Split into pieces of `n` bytes. -/
def chunks (n : Nat) : Nat → List Byte → List (List Byte)
  | 0, _ => []
  | fuel + 1, l => if l.isEmpty then [] else l.take n :: chunks n fuel (l.drop n)

/-- Return an answer: over the mesh to a core of this module, otherwise over the link toward its module. A refusal's
reason travels in the address field and a notice's sequence number in the sequence field (log 15). -/
def State.answer (s : State) (p a : Packet) : State :=
  let m := p.source.toNat / 256
  if m = s.modAddr then
    if a.payload.isEmpty then s.toMesh a
    else (chunks 512 129 a.payload).zipIdx.foldl (fun s q =>
      s.toMesh { a with payload := q.1, address := a.address + BitVec.ofNat 32 (512 * q.2) }) s
  else
    match routeLink s.modAddr m with
    | none => s
    | some (l, two) =>
      let pieces := if a.payload.isEmpty then [[]] else chunks 4096 17 a.payload
      pieces.zipIdx.foldl (fun s q =>
        s.toLink l noEntry
          { kind := a.kind, banner := a.banner, source := a.source, sequence := a.seq, rcc := a.rcc,
            dest := BitVec.ofNat 8 a.dest, slot := 0,
            address := if a.kind = 7 then a.reason.setWidth 32 else a.address + BitVec.ofNat 32 (4096 * q.2),
            deadline := s.clk.treadCount + (if two then 4 else 2), flits := flitsOf q.1.length,
            destMod := BitVec.ofNat 10 m, twoHops := two, forwarded := false } q.1) s

def State.reply (s : State) (p : Packet) (kind : BitVec 4) (reason : BitVec 8) (data : List Byte) : State :=
  s.answer p (answerOf p s kind reason data)

/-! ### Inbound accesses (R71, R78) -/

/-- What an inbound access comes to. -/
inductive Inb where
  | ok (k : Core) (data : List Byte)
  | refuse (k : Core) (reason : BitVec 8)
  | ue (k : Core) (aux : BitVec 64)
  deriving DecidableEq, Repr, Inhabited

def ofAcc (full : BitVec 8) : Acc → Inb
  | .done k d => .ok k d
  | .wait k _ => .refuse k full
  | .bad k r aux => if r = 0x60 then .ue k aux else .refuse k r

def Core.inWrite (k : Core) (b : Banner) (a : Nat) (d : List Byte) : Inb := ofAcc 0x21 (k.writeAcc b .remoteW a d)
def Core.inRead (k : Core) (b : Banner) (a n : Nat) : Inb := ofAcc 0x20 (k.readAcc b .remoteR a n)

/-- Sum of two FP32 patterns, rounded once (R159). -/
def fp32Add (a b : Nat) : Nat := (roundTo 0xA (vAddV (decodeVal 0xA a) (decodeVal 0xA b)).1).1

/-- Word-wise atomic addition. -/
def atomBytes (fp : Bool) : Nat → List Byte → List Byte → List Byte
  | 0, _, _ => []
  | n + 1, old, new =>
    let a := leNat (old.take 4)
    let b := leNat (new.take 4)
    leBytes 4 (if fp then fp32Add a b else a + b) ++ atomBytes fp n (old.drop 4) (new.drop 4)

/-- An atomic add into a scratchpad: the region grants both remote ports and is not flagged (R159). -/
def Core.inAtom (k : Core) (b : Banner) (a : Nat) (d : List Byte) (fp : Bool) : Inb :=
  match k.region a d.length with
  | none => .refuse k 0x10
  | some e =>
    if !e.getLsbD Port.remoteR.bit || !e.getLsbD Port.remoteW.bit || rgnFlagged e then .refuse k 0x11 else
    match k.inRead b a d.length with
    | .ok k1 old => k1.inWrite b a (atomBytes fp (d.length / 4) old d)
    | r => r

/-! ### The gallery's read path -/

/-- End of the layer table, which is stored in plaintext (R301, R304). -/
def GSlot.tableEnd (g : GSlot) : Nat := 64 * natAt g.header 6 2

/-- A key with an expiry counts as held only while the calendar is valid (R400). -/
def State.keyLive (s : State) (k : KeySlot) : Bool := k.expiry == 0 || s.clk.calValid

/-- Key of an image: none for plaintext. -/
def State.imageKey (s : State) (g : GSlot) : Option (BitVec 256) :=
  let id := BitVec.ofNat 32 (natAt g.header 32 4)
  if id = 0 then none
  else (s.sec.keys.find? fun p => p.2.gallery && p.2.keyId == id && p.2.banner == g.banner && s.keyLive p.2).map (·.2.key)

/-- One byte of an image's body as the read path delivers it. -/
def State.bodyByte (s : State) (g : GSlot) (o : Nat) : Byte :=
  match (if o < g.tableEnd then none else s.imageKey g) with
  | none => memGet g.body o
  | some key => Config.xtsByte key (o / 4096) (memRead g.body (o / 4096 * 4096) 4096) (o % 4096)

def State.bodyRead (s : State) (g : GSlot) (o n : Nat) : List Byte := (List.range n).map fun i => s.bodyByte g (o + i)

/-- The 4 KiB units of [o, o + n). -/
def unitsOf (o n : Nat) : List Nat := (List.range ((o + n - 1) / 4096 + 1 - o / 4096)).map (o / 4096 + ·)

/-- The 512-byte program units of [o, o + n), each with its own BCH code (R298). -/
def progUnitsOf (o n : Nat) : List Nat := (List.range ((o + n - 1) / 512 + 1 - o / 512)).map (o / 512 + ·)

/-- Program units that a read of [o, o + n) of a body meets: how many are corrected, and those that cannot be. -/
def GSlot.readUnits (g : GSlot) (o n : Nat) : Nat × List Nat :=
  let hit := if n = 0 then [] else g.badUnit.filter fun p => p.2 != 0 && (progUnitsOf o n).contains p.1
  ((hit.filter fun p => decide (p.2 ≤ 8)).length, (hit.filter fun p => decide (8 < p.2)).map (·.1))

/-- Count the units of a read (Table 14.7). -/
def State.galCount (s : State) (g : GSlot) (o n : Nat) : State :=
  let u := g.readUnits o n
  { s with gal := { s.gal with ce := s.gal.ce + u.1, ue := s.gal.ue + u.2.length } }

end Sys2Proof.Machine
end

