-- ==== Sys2Proof/Machine/Stream.lean ====
section
/-! DEFINITION. The stream engine: issue, generation and completion of elements, pennant accumulators (07), and the
near-tier controllers that serve its elements (15: R322, R326 to R332). -/

namespace Sys2Proof.Machine

/-! ### Issue (R149, R150, R157, R160, R204, R205) -/

def endCode : EndKind → Nat
  | .loc => 0 | .near => 1 | .gallery => 2 | .die => 3 | .remote => 4

def EndKind.bits : EndKind → Nat
  | .near => 40 | .gallery => 35 | _ => 32

def sAcc (w : IWord) : Nat := wMod w 6 5
def sPn (w : IWord) : Bool := wMod w 7 7 == 1
def sIndexed (op : Nat) (w : IWord) : Bool := op == 0x62 || op == 0x63 || (op == 0x64 && wMod w 3 3 == 1)
def sSize (w : IWord) : Nat := 64 * (fieldOf w.o3.toNat 9 0 + 1)
def sDue (w : IWord) : Nat := fieldOf w.o3.toNat 15 12

/-- Ends that a slot accepts (Tables 7.1, 7.2). -/
def sDstOk (op : Nat) : List Nat := match op with | 0x60 => [0, 1, 3, 4] | 0x61 => [0, 1] | 0x62 => [0] | _ => [1, 3, 4]
def sSrcOk (op : Nat) : List Nat := match op with | 0x60 => [0, 1, 2, 3, 4] | 0x62 => [1, 2, 3, 4] | _ => [0]

def descProd (d : Desc) : Nat := d.counts.foldl (· * ·) 1

def shapeAux (elem code : Nat) : BitVec 64 := BitVec.ofNat 64 (elem + code * 16777216)

/-- Messages of one element at a remote end: a put is cut at 4,096 bytes, a get is one request (R268). -/
def msgsPerElem (get : Bool) (esz : Nat) : Nat := if get then 1 else ceilDiv esz 4096

/-- Everything R149, R150, R157 and R160 ask at issue, with the auxiliary word of Table 7.7. -/
def sShapeBad (op : Nat) (w : IWord) (k : Core) : Bad :=
  let d := k.desc (w.o0.toNat % 256)
  let fill := op == 0x61
  let sd := k.desc (w.o1.toNat % 256)
  let ix := sIndexed op w
  let dstLoc := d.end_ == 0
  let local_ := if fill || dstLoc then d else sd
  let far := if dstLoc then sd else d
  let n := descProd local_
  let farCode := if fill then (if dstLoc then 0 else 1) else far.end_
  let x (b : Bool) (code : Nat) : Bad := badIf b 0x0A (shapeAux 0 code)
  firstBad
    [ x (sDue w == 0) 0,
      x (op == 0x60 && d.end_ != 0 && sd.end_ != 0) d.end_,
      x (op == 0x64 && sPn w) farCode,
      x (decide (16777216 < n)) local_.end_,
      x (!fill && !ix && descProd far != n) farCode,
      x (ix && (decide (4096 < n) || (far.counts.drop 1).any (· != 1))) farCode,
      x (ix && k.baseOf w.o2 % 64 != 0) 0,
      x (!(ix && !dstLoc) && (k.endOf d).base % 64 != 0) d.end_,
      x (!fill && !(ix && dstLoc) && (k.endOf sd).base % 64 != 0) sd.end_ ]

/-- S. instructions that wait to begin: all but the one that generates (R153). -/
def Core.sWaiting (k : Core) : Nat := (k.sq.filter fun i => decide (i.next < i.n)).length - 1
def Core.sAccepts (k : Core) : Bool := decide (k.sWaiting < 4)

/-- A transfer's operation. -/
def sOpOf (op : Nat) (w : IWord) (k : Core) : StreamOp :=
  match op with
  | 0x60 => .copy
  | 0x61 => .fill (k.getK (kIdx w.o1)) (k.getK (kIdx w.o1 + 1))
  | 0x62 => .gather
  | 0x63 => .scatter
  | _ => .atomadd (wMod w 2 2 == 1) (wMod w 3 3 == 1)

/-- An end of the transfer lies on another module. -/
def sRemote (op : Nat) (w : IWord) (k : Core) : Bool :=
  (k.desc (w.o0.toNat % 256)).end_ == 4 || (op != 0x61 && (k.desc (w.o1.toNat % 256)).end_ == 4)

/-- Issue checks of a transfer, in the order of R173. -/
def sChecks (s : State) (c op : Nat) (w : IWord) (modMask : Nat) (k : Core) : Bad :=
  let fill := op == 0x61
  let ix := sIndexed op w
  firstBad
    [ checkWord w modMask
        [.sel [.desc], .sel [if fill then .konst else .desc], if ix then .sel [.desc] else .unused, .num 0xF3FF,
         if sRemote op w k then .num 0xFFF else .unused, .unused],
      badIf (fill && kIdx w.o1 == 63) 0x0D,
      s.checkDesc c k w.o0 (sDstOk op), if fill then none else s.checkDesc c k w.o1 (sSrcOk op),
      if ix then s.checkDesc c k w.o2 [0] else none,
      sShapeBad op w k,
      badIf (sRemote op w k && (s.entryOk c (fieldOf w.o4.toNat 11 0) 0).isNone) 0x42
        (BitVec.ofNat 64 (fieldOf w.o4.toNat 11 0)) ]

/-- Issue of S.COPY, S.FILL, S.GATHER, S.SCATTER and S.ATOMADD. -/
def sIssue (c op : Nat) (w : IWord) (modMask : Nat) (s : State) : State :=
  let fill := op == 0x61
  let ix := sIndexed op w
  s.present c op w (sChecks s c op w modMask)
    Core.sAccepts
    fun s t =>
      let k := s.core c
      let d := k.desc (w.o0.toNat % 256)
      let sd := k.desc (w.o1.toNat % 256)
      let dst := k.endOf d
      let src : StreamEnd := if fill then { dst with kind := .loc } else k.endOf sd
      let n := descProd (if fill || d.end_ == 0 then d else sd)
      let i : StreamInstr :=
        { tag := t, op := sOpOf op w k, src := src, dst := dst,
          idx := if ix then some (BitVec.ofNat 32 (k.baseOf w.o2)) else none, n := n, esz := sSize w, due := sDue w,
          issueAt := s.clk.treadCount, oob := wMod w 4 4 == 1,
          pn := if sPn w then some (Fin.ofNat 4 (sAcc w)) else none,
          link := BitVec.ofNat 12 (fieldOf w.o4.toNat 11 0), next := 0, got := [], ixGot := none, doneCount := 0 }
      let run : List PenRun :=
        if sPn w then [{ ord := t.ord, acc := Fin.ofNat 4 (sAcc w), n := n, esz := sSize w, next := 0, crcs := [] }]
        else []
      (s.setCore c { k with sq := k.sq ++ [i], penq := k.penq ++ run }).stepPc c

def xSCopy (c : Nat) (w : IWord) (s : State) : State := sIssue c 0x60 w 0xE0 s
def xSFill (c : Nat) (w : IWord) (s : State) : State := sIssue c 0x61 w 0xE0 s
def xSGather (c : Nat) (w : IWord) (s : State) : State := sIssue c 0x62 w 0xF0 s
def xSScatter (c : Nat) (w : IWord) (s : State) : State := sIssue c 0x63 w 0xF0 s
def xSAtomadd (c : Nat) (w : IWord) (s : State) : State := sIssue c 0x64 w 0xFC s

/-- Modes 1 and 2 of S.PENNANT name memory. -/
def penMem (mode : Nat) : Bool := mode == 1 || mode == 2

/-- Issue checks of S.PENNANT. DESIGN CHOICE (log 41): a store to an address that is not 16-byte aligned (Table 7.9)
halts with 0x02; a fold may read at any address. -/
def penChecks (s : State) (c : Nat) (w : IWord) (mode : Nat) (k : Core) : Bad :=
  firstBad
    [ checkWord w 0x63 [if penMem mode then .sel [.desc] else .unused, .unused, .unused, .unused, .unused, .half],
      if penMem mode then s.checkDesc c k w.o0 [0] else none,
      badIf (mode == 1 && k.baseOf w.o0 % 16 != 0) 0x02 (BitVec.ofNat 64 (w.o0.toNat % 256)) ]

/-- Issue of S.PENNANT in one mode (R164, R207); the row fixes the mode. -/
def penIssue (c : Nat) (w : IWord) (mode : Nat) (s : State) : State :=
  if wMod w 1 0 ≠ mode then s else
  s.present c 0x65 w (penChecks s c w mode)
    Core.sAccepts
    fun s t =>
      let k := s.core c
      let e : StreamEnd := { kind := .loc, base := if penMem mode then k.baseOf w.o0 else 0, counts := [], strides := [], slot := 0,
                             core := 0 }
      let i : StreamInstr :=
        { tag := t, op := .pennant (BitVec.ofNat 2 mode) w.o5, src := e, dst := e, idx := none, n := 1, esz := 0, due := 0,
          issueAt := s.clk.treadCount, oob := false, pn := some (Fin.ofNat 4 (sAcc w)), link := 0, next := 0,
          got := [], ixGot := none, doneCount := 0 }
      (s.setCore c { k with sq := k.sq ++ [i] }).stepPc c

def xSPennantClear (c : Nat) (w : IWord) (s : State) : State := penIssue c w 0 s
def xSPennantStore (c : Nat) (w : IWord) (s : State) : State := penIssue c w 1 s
def xSPennantFold (c : Nat) (w : IWord) (s : State) : State := penIssue c w 2 s
def xSPennantEmit (c : Nat) (w : IWord) (s : State) : State := penIssue c w 3 s

/-! ### The near tier (R322, R326 to R328) -/

def granuleBytes : Nat := 1073741824

/-- Granules of a banner in ascending order. -/
def State.nearGranules (s : State) (b : Banner) : List Nat := (s.part b).granules

/-- Granule and byte within it of an offset in the banner's space (R322). -/
def State.nearAt (s : State) (b : Banner) (o : Nat) : Option (Nat × Nat) :=
  (s.nearGranules b)[o / granuleBytes]?.map fun g => (g, o % granuleBytes)

def stackOf (g : Nat) : Nat := g / 33

/-- Entries of a wheel that name a banner. -/
def wheelShare (t : Stack) (b : Banner) : Nat :=
  ((List.range 16).filter fun i => tget none t.wheel i == some b).length

/-- Count one 1 KiB unit started for a banner (R326 to R328). -/
def Stack.countUnit (t : Stack) (b : Banner) (unit : Nat) : Stack :=
  let e := wheelShare t b
  let nb := tget 0 t.bankUnits b.val + 1
  let pk := b.val * 32 + unit % 32
  let np := tget 0 t.pcUnits pk + 1
  { t with unitsNow := t.unitsNow + 1, bankUnits := tset t.bankUnits b.val nb, pcUnits := tset t.pcUnits pk np,
           beyond := if decide (937 * e / 16 < nb) || decide (30 * e / 16 < np) then [0, 1, 2, 3] else t.beyond }

/-- Count every unit that [o, o + n) of a banner's space touches, in the tread of generation (R326). -/
def State.countUnits (s : State) (b : Banner) (o n : Nat) : State :=
  ((List.range ((o + n - 1) / 1024 + 1 - o / 1024)).map (o / 1024 + ·)).foldl (fun s u =>
    match s.nearAt b (u * 1024) with
    | some (g, w) => s.setStack (stackOf g) ((s.stack (stackOf g)).countUnit b (w / 1024))
    | none => s) s

def State.nearByte (s : State) (b : Banner) (o : Nat) : Byte :=
  match s.nearAt b o with
  | some (g, w) => memGet (s.granule g).mem w
  | none => 0

def State.nearRead (s : State) (b : Banner) (o n : Nat) : List Byte := (List.range n).map fun i => s.nearByte b (o + i)

/-- Write bytes at an offset of a banner's space; units written become good (R332). -/
def State.nearWrite (s : State) (b : Banner) (o : Nat) (d : List Byte) : State :=
  d.zipIdx.foldl (fun s p =>
    match s.nearAt b (o + p.2) with
    | some (g, w) =>
      let gr := s.granule g
      s.setGranule g { gr with mem := memPut gr.mem w p.1, badUnit := tdel gr.badUnit (w / 64) }
    | none => s) s

/-- First 64-byte unit of [o, o + n) whose check bits are uncorrectable; corrected ones are counted and repaired. -/
def State.nearCheck (s : State) (b : Banner) (o n : Nat) : State × Option Nat :=
  ((List.range ((o + n - 1) / 64 + 1 - o / 64)).map (o / 64 + ·)).foldl (fun (p : State × Option Nat) u =>
    match p.1.nearAt b (u * 64) with
    | none => p
    | some (g, w) =>
      let gr := p.1.granule g
      match gr.badUnit.find? (fun q => q.1 == w / 64) with
      | none => p
      | some (_, true) => (p.1, match p.2 with | some x => some x | none => some (u * 64))
      | some (_, false) =>
        let st := p.1.stack (stackOf g)
        ((p.1.setGranule g { gr with badUnit := tdel gr.badUnit (w / 64) }).setStack (stackOf g)
          { st with ce := st.ce + 1 }, p.2)) (s, none)

/-! ### Pages of a banner's streams (R323, R349) -/

/-- Bytes of a slot area (R349). -/
def areaBytes (x : Serving) : Nat := ceilDiv (64 + 320 * x.slots) 65536 * 65536

/-- Serving tasks of a banner that are loaded. -/
def State.servingTasks (s : State) (b : Banner) : List Task := s.tasks.filter fun t => t.live && t.banner == b && t.serving.isSome

/-- Pages of a banner that streams, the stream buffer, memory stores or slot areas hold (R349, R360). -/
def State.usedPages (s : State) (b : Banner) : List Nat :=
  (s.streams.filter fun p => p.2.banner == b).flatMap (fun p => p.2.pages ++ p.2.listPage.toList ++ p.2.bufPages) ++
  (s.stores.filter fun m => m.2.banner == b).flatMap (fun m => m.2.pages) ++
  (s.servingTasks b).flatMap fun t => match t.serving, t.slotArea with
    | some x, some a => (List.range (areaBytes x / 65536)).map (a / 65536 + ·)
    | _, _ => []

/-- Free pages of a banner: 16,384 in each granule. -/
def State.freePages (s : State) (b : Banner) : List Nat :=
  let used := s.usedPages b
  (List.range ((s.nearGranules b).length * 16384)).filter fun p => !used.contains p

/-! ### Generation (R150 to R153, R157) -/

/-- The instruction that generates: the first with elements to come. -/
def Core.generating (k : Core) : Option StreamInstr := k.sq.find? fun i => decide (i.next < i.n)

/-- Address of element j at an end; `ix` is its index where the far end is indexed. -/
def endAddr (e : StreamEnd) (ix : Option Nat) (j : Nat) : Nat :=
  match ix with
  | some v => wrapInt e.kind.bits (e.base + v * e.strides.getD 0 0)
  | none => genAddr e.kind.bits e.base e.counts e.strides j

/-- Checks of R150 and R151 on one end of an element. -/
def State.endBad (s : State) (c : Nat) (e : StreamEnd) (write : Bool) (a n j : Nat) : Bad :=
  let k := s.core c
  let b := s.coreBanner c
  let code := endCode e.kind
  if a % 64 ≠ 0 then some (0x0A, shapeAux j code) else
  match e.kind with
  | .loc =>
    match k.check b (if write then .streamW else .streamR) a n with
    | .error r => some (r, 0)
    | .ok r => badIf (write && rgnFlagged r && (a % 256 != 0 || n % 256 != 0)) 0x13
  | .near => badIf (decide ((s.nearGranules b).length * granuleBytes < a + n)) 0x14 (shapeAux j code)
  | .gallery =>
    let g := s.slot e.slot
    badIf (!g.grantedTo b || decide (g.length < a + n)) 0x15 (shapeAux j code)
  | _ => none

/-- Element j's index, read at 4j of the list (R157). -/
def readIndex (k : Core) (b : Banner) (base : BitVec 32) (j : Nat) : Acc := k.readAcc b .streamR (base.toNat + 4 * j) 4

/-- Two ranges of `n` bytes overlap. -/
def overlap (a b n : Nat) : Bool := decide (a < b + n) && decide (b < a + n)

/-- Put an element into the table, and advance the instruction. -/
def Core.addElem (k : Core) (i : StreamInstr) (e : Elem) : Core :=
  let k1 := { k with elems := k.elems ++ [e],
                     sq := updFirst (fun x => x.tag.ord == i.tag.ord) (fun x => { x with next := x.next + 1, got := [], ixGot := none }) k.sq }
  { k1 with strmHwm := max k1.strmHwm k1.elems.length }

/-- Mesh packets of a put: 512 bytes each, each with its own number (R252). -/
def putPackets (s : State) (c : Nat) (dest : Nat) (a : Nat) (atom : Option Bool) (l : List (List Byte)) :
    State × List (BitVec 16) :=
  l.zipIdx.foldl (fun (p : State × List (BitVec 16)) d =>
    let s := p.1
    let g := s.globalAddr dest
    let q := (s.core c).nextSeq g
    let pk : Packet :=
      { kind := 3, banner := s.coreBanner c, source := s.globalAddr c, dest := dest, seq := q, rcc := 0, part := 0,
        parts := 0, address := BitVec.ofNat 32 (a + 512 * d.2), payload := d.1, atom := atom, len := 0, back := 0,
        reason := 0, deadline := 0, fromLink := false }
    ((s.updCore c fun k => k.takeSeq g).toMesh pk, p.2 ++ [q])) (s, [])

/-- Messages of a put to another module, on the entries from `e` on (R268); `none` when an entry is not this tread's. -/
def putMessages (s : State) (c : Nat) (dest : Nat) (a : Nat) (atom : Option Bool) (entry : Nat) (l : List (List Byte)) :
    Except Nat (State × List (BitVec 16)) :=
  l.zipIdx.foldl (fun (p : Except Nat (State × List (BitVec 16))) d =>
    match p with
    | .error e => .error e
    | .ok (s, qs) =>
      match s.entryOk c (entry + d.2) (flitsOf d.1.length) with
      | none => .error (entry + d.2)
      | some en =>
        let g := BitVec.ofNat 18 dest
        let q := (s.core c).nextSeq g
        let h : HeadInfo :=
          { kind := 3, banner := s.coreBanner c, source := s.globalAddr c, sequence := q,
            rcc := match atom with | none => 0 | some false => 1 | some true => 2,
            dest := BitVec.ofNat 8 (dest % 256), slot := BitVec.ofNat 12 (entry + d.2),
            address := BitVec.ofNat 32 (a + 4096 * d.2),
            deadline := s.clk.treadCount + (if en.twoHops then 4 else 2), flits := flitsOf d.1.length,
            destMod := BitVec.ofNat 10 (dest / 256), twoHops := en.twoHops, forwarded := false }
        .ok ((s.updCore c fun k => k.takeSeq g).toLink en.link en.offset h d.1, qs ++ [q])) (.ok (s, []))

/-- The number of a new get: the lowest that no outstanding get of the core has. DESIGN CHOICE (log 41): the request
and its answer carry it in their sequence fields, so that an answer finds its element. -/
def Core.getNum (k : Core) : BitVec 16 :=
  let used := (k.elems.filter fun e => e.stage == .awaitData).flatMap fun e => e.wait.map (·.toNat)
  BitVec.ofNat 16 (((List.range (used.length + 1)).find? fun q => !used.contains q).getD 0)

/-- The request of a get. -/
def getPacket (s : State) (c dest a n back : Nat) (q : BitVec 16) : Packet :=
  { kind := 4, banner := s.coreBanner c, source := s.globalAddr c, dest := dest, seq := q, rcc := 0, part := 0, parts := 0,
    address := BitVec.ofNat 32 a, payload := [], atom := none, len := n, back := BitVec.ofNat 32 back, reason := 0,
    deadline := 0, fromLink := false }

/-- STREAM_ELEMENT_GENERATE: the next element, when an entry is free, its index is readable, no element it must wait for
overlaps it, its source is readable and the gallery allowance holds (R153, R157, R311). On a halted core only the outbound element
of which a part has been read goes on (Table 7.8). -/
def xStreamElementGenerate (c : Nat) (s : State) : State :=
  let k := s.core c
  let b := s.coreBanner c
  if !k.engineOn && k.st != .halted then s else
  match k.generating with
  | none => s
  | some i =>
    let j := i.next
    match i.op with
    | .pennant .. => s
    | _ =>
    if entriesOf c ≤ k.elems.length then s else
    match (match i.idx, i.ixGot with
      | none, _ => Acc.done k []
      | some _, some d => .done k d
      | some base, none => readIndex k b base j) with
    | .wait k1 slot => (s.setCore c k1).refused c slot false i.tag (2 * j) .stream
    | .bad k1 r aux => (s.setCore c k1).haltCore c r i.tag.pc (.of .stream) aux
    | .done k0 ixb =>
      let ixv := leNat ixb
      let indexed := i.idx.isSome
      let far := if i.dst.kind = .loc then i.src else i.dst
      let beyond := indexed && decide (far.counts.getD 0 0 ≤ ixv)
      if beyond && !i.oob then s.haltCore c 0x09 i.tag.pc (.of .stream) (BitVec.ofNat 64 (ixv + j * 4294967296)) else
      let isFill := match i.op with | .fill .. => true | _ => false
      let srcA := if isFill then 0 else endAddr i.src (if indexed && decide (i.src.kind ≠ .loc) then some ixv else none) j
      let dstA := endAddr i.dst (if indexed && decide (i.dst.kind ≠ .loc) then some ixv else none) j
      let n := i.esz
      let bad := firstBad
        [ if isFill || (beyond && i.dst.kind == .loc) then none else
            if beyond then none else s.endBad c i.src false srcA n j,
          if beyond && decide (i.dst.kind ≠ .loc) then none else s.endBad c i.dst true dstA n j ]
      match bad with
      | some (r, aux) => s.haltCore c r i.tag.pc (.of .stream) aux
      | none =>
      -- S.SCATTER keeps colliding elements in order
      if decide (i.op = .scatter) && !beyond &&
          k.elems.any (fun e => e.ord == i.tag.ord && !e.oob && overlap e.dst dstA n) then s else
      -- the gallery allowance of the tread (R311)
      let task := s.taskOf c
      let units := (unitsOf srcA n).length * 4096
      let galRead := i.src.kind == .gallery && !beyond && !isFill
      if galRead && (match task with | some t => decide (t.grant * 1000 < t.usedNow + units) | none => true) then s else
      -- a local source is read now
      let readsLocal := !isFill && i.src.kind == .loc && !beyond
      match (if readsLocal then readBeats k0 b srcA n (n / 64 + 1) i.got else ([], .done k0 [])) with
      | (got, .wait k1 slot) =>
        let k2 := if got.length = i.got.length then k1 else k1.served .stream i.tag.ord (2 * j)
        let held (x : StreamInstr) : StreamInstr := { x with got := got, ixGot := if indexed then some ixb else none }
        let k3 := { k2 with sq := updFirst (fun x => x.tag.ord == i.tag.ord) held k2.sq }
        if k.st = .halted then s.setCore c k3 else (s.setCore c k3).refused c slot false i.tag (2 * j) .stream
      | (_, .bad k1 r aux) => (s.setCore c k1).haltCore c r i.tag.pc (.of .stream) aux
      | (_, .done k1 d0) =>
        let s1 := s.setCore c (k1.served .stream i.tag.ord (2 * j))
        let pattern := match i.op with | .fill lo hi => leBytes 4 lo.toNat ++ leBytes 4 hi.toNat | _ => []
        let data : List Byte :=
          if isFill then (List.range (n / 8)).flatMap fun _ => pattern
          else if beyond then (if i.dst.kind = .loc then zeros n else [])
          else if galRead then s.bodyRead (s.slot i.src.slot) srcA n
          else d0
        let gu := if galRead then ((s.slot i.src.slot).readUnits srcA n).2 else []
        let e0 : Elem := { ord := i.tag.ord, elem := j, stage := .ready, src := srcA, dst := dstA, data := data, written := 0,
                           wait := [], parts := [], oob := beyond, ue := if gu.isEmpty then none else some (gu.foldl min (gu.headD 0) * 512 - srcA) }
        let put (s : State) (e : Elem) : State := s.updCore c fun k => k.addElem i e
        let atom : Option Bool := match i.op with | .atomadd fp _ => some fp | _ => none
        if beyond || isFill && decide (i.dst.kind = .loc) then put s1 e0
        else if galRead then
          let s2 := match task with
            | some t => s1.updTask t.loadId fun t => { t with usedNow := t.usedNow + units }
            | none => s1
          put (s2.galCount (s.slot i.src.slot) srcA n) e0
        else
          match i.src.kind, i.dst.kind with
          | .near, _ => put (s1.countUnits b srcA n) { e0 with stage := .nearReq }
          | _, .near => put (s1.countUnits b dstA n) { e0 with stage := .nearReq }
          | .die, _ =>
            let q := k1.getNum
            put (s1.toMesh (getPacket s1 c (i.src.core % 256) srcA n dstA q)) { e0 with stage := .awaitData, wait := [q] }
          | _, .die =>
            let (s2, qs) := putPackets s1 c (i.dst.core % 256) dstA atom (chunks 512 129 data)
            put s2 { e0 with stage := .awaitAccept, wait := qs }
          | .remote, _ =>
            let entry := i.link.toNat + j
            match s1.entryOk c entry 1 with
            | none => s1.haltCore c 0x42 i.tag.pc (.of .stream) (BitVec.ofNat 64 entry)
            | some en =>
              let h : HeadInfo :=
                { kind := 4, banner := b, source := s.globalAddr c, sequence := k1.getNum, rcc := 0,
                  dest := BitVec.ofNat 8 (i.src.core % 256), slot := BitVec.ofNat 12 entry, address := BitVec.ofNat 32 srcA,
                  deadline := s.clk.treadCount + (if en.twoHops then 4 else 2), flits := 1,
                  destMod := BitVec.ofNat 10 (i.src.core / 256), twoHops := en.twoHops, forwarded := false }
              put (s1.toLink en.link en.offset h (leBytes 4 n ++ leBytes 4 dstA ++ zeros 56))
                { e0 with stage := .awaitData, wait := [k1.getNum] }
          | _, .remote =>
            match putMessages s1 c i.dst.core dstA atom (i.link.toNat + j * msgsPerElem false n) (chunks 4096 17 data) with
            | .error entry => s1.haltCore c 0x42 i.tag.pc (.of .stream) (BitVec.ofNat 64 entry)
            | .ok (s2, qs) => put s2 { e0 with stage := .awaitAccept, wait := qs }
          | _, _ => put s1 e0

/-! ### Service by a near-tier controller -/

/-- The element's offset at the near end, and whether it is written. -/
def nearSide (i : StreamInstr) (e : Elem) : Option (Nat × Bool) :=
  if i.dst.kind = .near then some (e.dst, true)
  else if i.src.kind = .near then some (e.src, false)
  else none

/-- The unit that holds an offset of a banner's space has uncorrectable check bits. -/
def State.nearBad (s : State) (b : Banner) (o : Nat) : Bool :=
  match s.nearAt b o with
  | some (g, w) => tget false (s.granule g).badUnit (w / 64)
  | none => false

/-- A controller accepts the write of an element at offset o of its banner's space (R155, R159). An atomic add reads
the old words: corrected units are counted, and what it adds to an uncorrectable one is free (log 1). -/
def State.nearAccept (s : State) (c : Nat) (i : StreamInstr) (e : Elem) (o : Nat) : State :=
  let b := s.coreBanner c
  match i.op with
  | .atomadd fp _ =>
    let s1 := (s.nearCheck b o i.esz).1
    let sums := atomBytes fp (i.esz / 4) (s1.nearRead b o i.esz) e.data
    (s1.nearWrite b o (sums.zipIdx.map fun p =>
      if s1.nearBad b (o + p.2) then BitVec.ofNat 8 (s1.freshAt p.2) else p.1)).tick
  | _ => s.nearWrite b o e.data

/-- NEAR_TIER_REQUEST: stack n serves one element in the banner's wheel entries (R326, R328, R330, R332). -/
def xNearTierRequest (n c instr elem : Nat) (s : State) : State :=
  let k := s.core c
  let b := s.coreBanner c
  match k.sq.find? (fun i => i.tag.ord == instr), k.elems.find? (fun e => e.ord == instr && e.elem == elem) with
  | some i, some e =>
    match nearSide i e with
    | none => s
    | some (o, wr) =>
      match s.nearAt b o with
      | none => s
      | some (g, _) =>
        if stackOf g ≠ n ∨ e.stage ≠ .nearReq ∨ wheelShare (s.stack n) b = 0 ∨ (s.stack n).resetBusy then s else
        let setE (s : State) (f : Elem → Elem) : State :=
          s.updCore c fun k => { k with elems := updFirst (fun x => x.ord == instr && x.elem == elem) f k.elems }
        if wr then setE (s.nearAccept c i e o) fun e => { e with stage := .served }
        else
          let (s1, ue) := s.nearCheck b o i.esz
          setE s1 fun e => { e with stage := .served, data := s1.nearRead b o i.esz, ue := ue.map (· - o) }
  | _, _ => s

/-- The stack that serves an offset of a banner's space. -/
def State.stackAt (s : State) (b : Banner) (o : Nat) : Option Nat := (s.nearAt b o).map fun q => stackOf q.1

/-- Complete the near-tier writes that a core has issued, at the stacks that a test admits; those that it has not issued are no
writes yet (Table 15.1). What a halt has left is issued. -/
def State.drainNear (s : State) (c : Nat) (at_ : Nat → Bool := fun _ => true) : State :=
  (s.core c).elems.foldl (fun s e =>
    match (s.core c).sq.find? (fun i => i.tag.ord == e.ord) with
    | some i => match nearSide i e with
      | some (o, true) =>
        if e.stage = .nearReq && ((s.stackAt (s.coreBanner c) o).any at_) && ((s.core c).st == .halted || !s.unsent c e) then
          (s.nearAccept c i e o).updCore c fun k => { k with
            elems := updFirst (fun x => x.ord == e.ord && x.elem == e.elem) (fun x => { x with stage := .served }) k.elems }
        else s
      | _ => s
    | none => s) s

/-! ### Completion (R155, R161, R163) -/

def Elem.canComplete (e : Elem) : Bool :=
  match e.stage with
  | .ready | .served | .dataHere | .accepted => true
  | _ => false

/-- Append digest (d2, len2) after an accumulator (R163). -/
def PenAcc.append (p : PenAcc) (d2 : BitVec 64) (len2 : Nat) : PenAcc :=
  { digest := crc64Shift p.digest len2 ^^^ d2, length := p.length + BitVec.ofNat 48 len2 }

def Core.pen (k : Core) (a : Fin 4) : PenAcc := tget PenAcc.reset k.pens a.val

/-- Append what is next in element order and issue order to the accumulators. -/
def drainPens : Nat → Core → Core
  | 0, k => k
  | fuel + 1, k =>
    match k.penq.find? (fun r => (k.penq.find? (fun q => q.acc == r.acc)).map (·.ord) == some r.ord &&
        (decide (r.n ≤ r.next) || r.crcs.any (fun p => p.1 == r.next))) with
    | none => k
    | some r =>
      if r.n ≤ r.next then drainPens fuel { k with penq := remFirst (fun q => q.ord == r.ord) k.penq }
      else
        let pens := match tget none r.crcs r.next with
          | some d => tset k.pens r.acc.val ((k.pen r.acc).append d r.esz)
          | none => k.pens
        let penq := updFirst (fun q => q.ord == r.ord) (fun q => { q with next := q.next + 1, crcs := tdel q.crcs q.next })
          k.penq
        drainPens fuel { k with pens := pens, penq := penq }

/-- Record the CRC of a completed element of a digested transfer. -/
def Core.penElem (k : Core) (e : Elem) : Core :=
  match k.penq.find? (fun r => r.ord == e.ord) with
  | none => k
  | some _ =>
    let d : Option (BitVec 64) := if e.data.isEmpty then none else some (crc64 0 e.data)
    let k1 := { k with penq := updFirst (fun r => r.ord == e.ord) (fun r => { r with crcs := tset r.crcs e.elem d }) k.penq }
    drainPens (2 * k1.penq.length + k1.penq.foldl (fun n r => n + r.crcs.length) 0 + 1) k1

/-- The element leaves the table; the last one completes its instruction, which signals (R155). -/
def State.elemDone (s : State) (c : Nat) (i : StreamInstr) (e : Elem) : State :=
  let k := s.core c
  let k1 := k.penElem e
  let elems := remFirst (fun x => x.ord == e.ord && x.elem == e.elem) k1.elems
  if k.st = .halted then
    s.setCore c { k with elems := remFirst (fun x => x.ord == e.ord && x.elem == e.elem) k.elems,
                         sq := if elems.any (fun x => x.ord == e.ord) then k.sq
                               else remFirst (fun x => x.tag.ord == e.ord) k.sq }
  else if i.n ≤ i.doneCount + 1 then
    (s.setCore c { k1 with elems := elems, sq := remFirst (fun x => x.tag.ord == i.tag.ord) k1.sq }).signal c i.tag .stream
  else
    s.setCore c { k1 with elems := elems,
                          sq := updFirst (fun x => x.tag.ord == i.tag.ord) (fun x => { x with doneCount := x.doneCount + 1 })
                            k1.sq }

/-- Write an inbound element slot by slot, from where it stood; beats before an uncorrectable one are written. That it
covers whole slots of a flagged region was checked when it was generated (R151). -/
def writeElem (k : Core) (b : Banner) (dst : Nat) (data : List Byte) : Nat → Nat → Core × Nat × Option Acc
  | 0, w => (k, w, none)
  | fuel + 1, w =>
    if data.length ≤ w then (k, w, none) else
    let a := dst + w
    let m := min (256 - a % 256) (data.length - w)
    match k.writeIf b .streamW false a (bytesAt data w m) with
    | .done k1 _ => writeElem k1 b dst data fuel (w + m)
    | r => (k, w, some r)

/-- Auxiliary word of 0x61 and 0x62 (Table 7.7). -/
def ueAux (off unit : Nat) : BitVec 64 := BitVec.ofNat 64 (off + unit * 1099511627776)

/-- The pennant's record (Table 7.10). -/
def pennantRecord (s : State) (c : Nat) (acc : Fin 4) (layer : BitVec 16) : List Byte :=
  let t := s.taskOf c
  leBytes 4 ((t.map (·.id.toNat)).getD 0) ++ leBytes 4 ((t.map (·.round)).getD 0) ++ leBytes 2 layer.toNat ++
  leBytes 2 s.modAddr ++ leBytes 1 c ++ leBytes 1 acc.val ++ leBytes 2 0 ++ leBytes 8 s.clk.treadCount ++
  leBytes 8 ((s.core c).pen acc).digest.toNat

/-- S.PENNANT's effect, once every earlier instruction that names its accumulator has completed (R164). -/
def penDo (s : State) (c : Nat) (i : StreamInstr) (mode : Nat) (layer : BitVec 16) : State :=
  let k := s.core c
  let b := s.coreBanner c
  let acc := i.pn.getD 0
  let fin (s : State) : State :=
    (s.updCore c fun k => { k with sq := remFirst (fun x => x.tag.ord == i.tag.ord) k.sq }).signal c i.tag .stream
  let earlier := k.sq.any (fun x => decide (x.tag.ord < i.tag.ord) && x.pn == some acc)
  if earlier then s else
  let halt (k1 : Core) (r : BitVec 8) (aux : BitVec 64) : State := (s.setCore c k1).haltCore c r i.tag.pc (.of .stream) aux
  match mode with
  | 0 => fin (s.setCore c { k with pens := tset k.pens acc.val PenAcc.reset })
  | 1 =>
    let d := leBytes 8 (k.pen acc).digest.toNat ++ leBytes 6 (k.pen acc).length.toNat ++ leBytes 2 0
    match k.writeAcc b .streamW i.dst.base d with
    | .done k1 _ => fin (s.setCore c (k1.served .stream i.tag.ord 0))
    | .wait k1 slot => (s.setCore c k1).refused c slot true i.tag 0 .stream
    | .bad k1 r aux => halt k1 r aux
  | 2 =>
    match k.readAcc b .streamR i.dst.base 16 with
    | .done k1 d =>
      let p1 := (k.pen acc).append (BitVec.ofNat 64 (natAt d 0 8)) (natAt d 8 6)
      fin (s.setCore c { (k1.served .stream i.tag.ord 0) with pens := tset k.pens acc.val p1 })
    | .wait k1 slot => (s.setCore c k1).refused c slot false i.tag 0 .stream
    | .bad k1 r aux => halt k1 r aux
  | _ => fin { s with pensIn := s.pensIn ++ [pennantRecord s c acc layer] }

/-- STREAM_ELEMENT_COMPLETE: an element at its completion point is written where its destination is local, frees its
entry and may complete its instruction; an S.PENNANT at the front of generation takes its effect. -/
def xStreamElementComplete (c instr elem : Nat) (s : State) : State :=
  let k := s.core c
  let b := s.coreBanner c
  match k.sq.find? (fun i => i.tag.ord == instr) with
  | none => s
  | some i =>
    match i.op with
    | .pennant mode layer =>
      if k.engineOn && (k.generating.map (·.tag.ord)) == some instr then penDo s c i mode.toNat layer else s
    | _ =>
    match k.elems.find? (fun e => e.ord == instr && e.elem == elem) with
    | none => s
    | some e =>
      if !e.canComplete then s
      else if k.st = .halted then s.elemDone c i e
      else if !k.engineOn then s
      else if i.dst.kind ≠ .loc then s.elemDone c i e
      else
        let cut : Nat := match e.ue with | some o => o / 64 * 64 | none => e.data.length
        let (k1, w, stop) := writeElem k b e.dst (e.data.take cut) (e.data.length / 64 + 2) e.written
        let s1 := s.setCore c { k1 with
          elems := updFirst (fun x => x.ord == instr && x.elem == elem) (fun x => { x with written := w }) k1.elems }
        match stop with
        | some (.wait k2 slot) =>
          let k3 := { k2 with elems := (s1.core c).elems }
          (s1.setCore c (if w = e.written then k3 else k3.served .stream i.tag.ord (2 * elem + 1))).refused c slot true i.tag
            (2 * elem + 1) .stream
        | some (.bad k2 r aux) => (s1.setCore c { k2 with elems := (s1.core c).elems }).haltCore c r i.tag.pc (.of .stream) aux
        | _ =>
          match e.ue with
          | some o =>
            if i.src.kind = .gallery then s1.haltCore c 0x62 i.tag.pc (.of .stream) (ueAux (e.src + o) i.src.slot)
            else
              let st := match s.nearAt b (e.src + o) with | some (g, _) => stackOf g | none => 0
              s1.haltCore c 0x61 i.tag.pc (.of .stream) (ueAux (e.src + o) st)
          | none => (s1.updCore c fun k => k.served .stream i.tag.ord (2 * elem + 1)).elemDone c i { e with written := w }

def execSCopy (c : CoreId) (w : IWord) (s : State) : Out := .next (xSCopy c w s)
def execSFill (c : CoreId) (w : IWord) (s : State) : Out := .next (xSFill c w s)
def execSGather (c : CoreId) (w : IWord) (s : State) : Out := .next (xSGather c w s)
def execSScatter (c : CoreId) (w : IWord) (s : State) : Out := .next (xSScatter c w s)
def execSAtomadd (c : CoreId) (w : IWord) (s : State) : Out := .next (xSAtomadd c w s)
def execSPennantClear (c : CoreId) (w : IWord) (s : State) : Out := .next (xSPennantClear c w s)
def execSPennantStore (c : CoreId) (w : IWord) (s : State) : Out := .next (xSPennantStore c w s)
def execSPennantFold (c : CoreId) (w : IWord) (s : State) : Out := .next (xSPennantFold c w s)
def execSPennantEmit (c : CoreId) (w : IWord) (s : State) : Out := .next (xSPennantEmit c w s)
def execStreamElementGenerate (c : CoreId) (s : State) : Out := .next (xStreamElementGenerate c s)
def execStreamElementComplete (c : CoreId) (instr elem : Nat) (s : State) : Out :=
  .next (xStreamElementComplete c instr elem s)
def execNearTierRequest (n : StackId) (c : CoreId) (instr elem : Nat) (s : State) : Out :=
  .next (xNearTierRequest n c instr elem s)

end Sys2Proof.Machine
end

