-- ==== Sys2Proof/Machine/CoreEvents.lean ====
section
/-! DEFINITION. Events of a core: write-back of corrected words, scrubbing (R64 to R68) and hardware clear (R82). -/

namespace Sys2Proof.Machine

/-- The state a core reports (Table 3.2, R58): OFF when disabled, or in a hall at S0 while it holds no task. -/
def State.coreState (s : State) (c : Nat) : CoreSt :=
  if !s.enabled c then .off else
  match (s.core c).st with
  | .off | .idle => if (s.hall (hallOf c)).stepCur = 0 then .off else .idle
  | x => x

/-- ECC_WRITE_BACK: the corrected word in a bank's write-back register is written; where the bank has none, the flag
array's is (R64, R68; DESIGN CHOICE, log 39). -/
def Core.writeBack (k : Core) (bank : Nat) : Core :=
  match k.wback.find? (fun p => p.1 == bank) with
  | some (_, w) => { k with badWord := tdel k.badWord w, wback := tdel k.wback bank }
  | none =>
    match k.fback with
    | some w => { k with badFlag := tdel k.badFlag w, fback := none }
    | none => k

def xEccWriteBack (c bank : Nat) (s : State) : State := s.updCore c (·.writeBack bank)

/-- An uncorrectable error that the scrubber found (Table 3.4): a core that runs a task halts; another one keeps the
word as it is, with its error flags and an event log entry. -/
def State.scrubUe (s : State) (c : Nat) (byteAddr : Nat) : State :=
  let k := s.core c
  if k.runsTask then s.haltCore c 0x60 k.pc .none (BitVec.ofNat 64 (byteAddr + 1))
  else
    (s.setCore c { k with eccUe := true, eccUeScrub := true, eccAddr := BitVec.ofNat 32 byteAddr }).log 4 7 c
      (if (s.hall (hallOf c)).assigned then some (s.coreBanner c) else none) 0 [byteAddr, k.ceCount.toNat, 1]

/-- Words of every bank checked: the pass is complete when no bank lags (R66, Table 3.13). -/
def Core.scrubAdvance (k : Core) (words bank now : Nat) : Core :=
  let pos := tset k.scrubPos bank (tget 0 k.scrubPos bank + 1)
  if (List.range 512).all fun b => decide (words ≤ tget 0 pos b) then
    { k with scrubPos := (pos.map fun p => (p.1, p.2 - words)).filter fun p => p.2 != 0,
             scrubPasses := k.scrubPasses + 1, scrubMs := BitVec.ofNat 16 (min 65535 ((now - k.scrubStart) / 1000)),
             scrubStart := now }
  else { k with scrubPos := pos }

/-- SCRUB_STEP (R66, R68): a pending write-back takes the cycle and the position stays; otherwise the next word of
the bank is checked, and with it the flag word of its slot, whose pending write-back is done. -/
def xScrubStep (c bank : Nat) (s : State) : State :=
  let k := s.core c
  if !s.enabled c then s
  else if k.wback.any (fun p => p.1 == bank) then xEccWriteBack c bank s
  else
    let words := wordsPerBank c
    let a := bankWord bank (tget 0 k.scrubPos bank % words)
    let (k1, fbad) := (k.writeBack bank).checkFlags a 8
    let (k2, bad) := k1.checkWords a 8
    let s1 := s.setCore c (k2.scrubAdvance words bank s.clk.treadCount)
    let s2 := match fbad with | some w => s1.scrubUe c (w * 8) | none => s1
    match bad with | some w => s2.scrubUe c (w * 8) | none => s2

/-- The scrubber's reserved cycle (R66): one step of every bank of every enabled core. -/
def State.scrubAll (s : State) : State :=
  (List.range 256).foldl (fun s c =>
    if s.enabled c then (List.range 512).foldl (fun s b => xScrubStep c b s) s else s) s

/-- Hardware clear (R82): posted near-tier writes are completed, then every item of the core returns to its reset
value; the core is IDLE, or OFF when it is disabled. -/
def State.clearCore (s : State) (c : Nat) : State :=
  let s1 := s.drainNear c
  ({ s1 with fwWords := s1.fwWords.filter fun x => x.offset / 4096 != 0x200 + c }).setCore c { Core.reset with
    st := if s.enabled c then .idle else .off, scrubStart := s.clk.treadCount }

/-- HARDWARE_CLEAR: the clear of a core runs to its end. -/
def xHardwareClear (c : Nat) (s : State) : State := s.clearCore c

def execEccWriteBack (c : CoreId) (bank : Fin 512) (s : State) : Out := .next (xEccWriteBack c bank s)
def execScrubStep (c : CoreId) (bank : Fin 512) (s : State) : Out := .next (xScrubStep c bank s)
def execHardwareClear (c : CoreId) (s : State) : Out := .next (xHardwareClear c s)

end Sys2Proof.Machine
end

