-- ==== Sys2Proof/Machine/Transcend.lean ====
section
/-! DEFINITION. Transcendentals (R135, Table 6.3). RCP is correctly rounded. For the others the manual gives only an
error bound: the result is one of the FP32 values within the bound, which one being left to `Config.transPick`
(log 2). Bounds are evaluated in fixed point with 96 fraction bits; the interval is widened by the evaluation's
own error, so no value the manual allows is left out. -/

namespace Sys2Proof.Machine

/-- Fraction bits of the fixed-point evaluation. -/
def fxBits : Nat := 96
/-- ln 2 and log2 e, times 2^96. -/
def fxLn2 : Nat := 54916777467707473351141471128
def fxLog2e : Nat := 114302077158074026402637675936

/-- m × 2^e in units of 2^-96, rounded down. -/
def fxOf (m : Nat) (e : Int) : Nat :=
  let sh := e + fxBits
  if 0 ≤ sh then m * 2 ^ sh.toNat else m / 2 ^ (-sh).toNat

/-- Taylor sum of exp(t) for 0 ≤ t < 1: terms, current term, sum. -/
def expSum (t : Nat) : Nat → Nat → Nat → Nat → Nat
  | 0, _, _, sum => sum
  | fuel + 1, i, term, sum =>
    let nt := term * t / 2 ^ fxBits / i
    expSum t fuel (i + 1) nt (sum + nt)

/-- 2^f for 0 ≤ f < 1, in units of 2^-96; the error is below 2^-80. -/
def fxExp2 (f : Nat) : Nat :=
  expSum (f * fxLn2 / 2 ^ fxBits) 32 1 (2 ^ fxBits) (2 ^ fxBits)

/-- Binary digits of log2 of m in [1, 2) by repeated squaring. -/
def log2Digits : Nat → Nat → Nat → Nat
  | 0, _, acc => acc
  | n + 1, m, acc =>
    let q := m * m / 2 ^ fxBits
    if 2 ^ (fxBits + 1) ≤ q then log2Digits n (q / 2) (acc * 2 + 1) else log2Digits n q (acc * 2)

/-- Digits of log2 that are evaluated. -/
def logDigits : Nat := 56

/-! ### FP32 values in order -/

/-- The FP32 bits of an ordered code: non-negative codes are the bits, negative ones the negated magnitude. -/
def codeBits (x : Int) : Nat := if 0 ≤ x then x.toNat else 0x80000000 + (-x).toNat

/-- Largest FP32 magnitude code not above m × 2^e. -/
def floorCode (m : Nat) (e : Int) : Nat :=
  if m = 0 then 0 else
  let q := max ((bitLen m : Int) - 1 + e - 23) (-149)
  let r := if q ≤ e then m * 2 ^ (e - q).toNat else m / 2 ^ (q - e).toNat
  let b := if r < 2 ^ 23 then r else (q + 150).toNat * 2 ^ 23 + (r - 2 ^ 23)
  min b 0x7F800000

/-- Smallest FP32 magnitude code not below m × 2^e. -/
def ceilCode (m : Nat) (e : Int) : Nat :=
  if m = 0 then 0 else
  let q := max ((bitLen m : Int) - 1 + e - 23) (-149)
  let exact := if q ≤ e then true else m % 2 ^ (q - e).toNat == 0
  min (floorCode m e + (if exact then 0 else 1)) 0x7F800000

/-- Ordered codes of the bounds of an interval of integers times 2^e. -/
def floorI (x : Int) (e : Int) : Int := if 0 ≤ x then floorCode x.toNat e else -(ceilCode (-x).toNat e : Int)
def ceilI (x : Int) (e : Int) : Int := if 0 ≤ x then ceilCode x.toNat e else -(floorCode (-x).toNat e : Int)

/-- An interval [lo, hi] × 2^e that holds the exact result. -/
structure Ival where
  lo : Int
  hi : Int
  e  : Int
  deriving DecidableEq, Repr, Inhabited

/-- Exponent of one ulp of a value near x × 2^e. -/
def ulpExp (x : Int) (e : Int) : Int := max ((bitLen x.natAbs : Int) - 1 + e - 23) (-149)

/-- Widen by `n` ulps, or by 2^-24 when `absolute` (R135). -/
def widen (v : Ival) (n : Nat) (absolute : Bool) : Ival :=
  let u := ulpExp (if v.hi.natAbs < v.lo.natAbs then v.lo else v.hi) v.e
  let b := if absolute then max u (-24) else u
  let q := min v.e b
  let d : Int := (n * 2 ^ (b - q).toNat : Nat)
  { lo := v.lo * (2 ^ (v.e - q).toNat : Nat) - d, hi := v.hi * (2 ^ (v.e - q).toNat : Nat) + d, e := q }

/-- The value delivered: one of the FP32 codes in the widened interval. -/
def deliver (v : Ival) (pick : Nat) : Int :=
  let a := ceilI v.lo v.e
  let b := floorI v.hi v.e
  if b < a then a else a + (pick % ((b - a).toNat + 1) : Nat)

/-- Flags of a delivered FP32 code; `exact` is the exact result when it is an FP32 value. -/
def transFlags (code : Int) (exact : Option Int) : Flags :=
  if exact = some code then 0
  else if code.natAbs = 0x7F800000 then fOverflow ||| fInexact
  else if code.natAbs < 0x800000 then fUnderflow ||| fInexact
  else fInexact

/-- 2^z as an interval, z = zi × 2^-96. -/
def exp2Ival (z : Int) : Ival :=
  let i := z / (2 ^ fxBits : Nat)
  let f := (z % (2 ^ fxBits : Nat)).toNat
  if i < -400 then { lo := 0, hi := 1, e := -300 }
  else if 400 < i then { lo := 1, hi := 1, e := 400 }
  else { lo := (fxExp2 f : Int) - 65536, hi := (fxExp2 f : Int) + 65536, e := i - fxBits }

/-- m × 2^e as fixed point, limited in size so that the result is beyond every format (R135). -/
def fxClamp (neg : Bool) (m : Nat) (e : Int) : Int :=
  let x : Int := if 12 < floorLog2 m e then (4096 * 2 ^ fxBits : Nat) else fxOf m e
  if neg then -x else x

/-- Integer square root by digits. -/
def isqrtGo (n : Nat) : Nat → Nat → Nat
  | 0, r => r
  | b + 1, r => let t := r + 2 ^ b; isqrtGo n b (if t * t ≤ n then t else r)

/-- V.EXP2 of a finite value. -/
def tExp2 (neg : Bool) (m : Nat) (e : Int) (pick : Nat) : Int × Flags :=
  let z := fxClamp neg m e
  let whole := m == 0 || (rne m e 0).2
  let exact : Option Int :=
    if whole && decide (-149 ≤ z / (2 ^ fxBits : Nat)) && decide (z / (2 ^ fxBits : Nat) ≤ 127) then
      some (floorI 1 (z / (2 ^ fxBits : Nat))) else none
  let code := max 0 (deliver (widen (exp2Ival z) 1 false) pick)
  (code, transFlags code exact)

/-- V.LOG2 of a positive finite value. At 1 the result is the exact 0: the one fixed function of R135 serves 16-bit compute too,
and no other value stands within 1 ulp of 0 in those formats (DEDUCED, log 43). -/
def tLog2 (m : Nat) (e : Int) (pick : Nat) : Int × Flags :=
  let ex := floorLog2 m e
  let mant := m * 2 ^ (fxBits + 1 - bitLen m)
  let frac := log2Digits logDigits mant 0
  let pow2 := mant == 2 ^ fxBits
  let base : Int := ex * (2 ^ logDigits : Nat) + frac
  let v : Ival := { lo := base - (if pow2 then 0 else 1), hi := base + (if pow2 then 0 else 2), e := -(logDigits : Int) }
  let near := decide (-1 ≤ ex) && (decide (ex < 1) || (ex == 1 && pow2))
  if ex = 0 && pow2 then (0, 0) else
  let code := deliver (widen v 1 near) pick
  (code, transFlags code (if pow2 then some (floorI ex 0) else none))

/-- V.RSQRT of a positive finite value. -/
def tRsqrt (m : Nat) (e : Int) (pick : Nat) : Int × Flags :=
  let (m, e) := if e % 2 = 0 then (m, e) else (m * 2, e - 1)
  let r := isqrtGo (2 ^ 240 / m) 121 0
  let v : Ival := { lo := (r : Int) - 1, hi := (r : Int) + 2, e := -120 - e / 2 }
  let exact := decide (r * r * m = 2 ^ 240)
  let code := deliver (widen v 1 false) pick
  (code, transFlags code (if exact then some (floorI r v.e) else none))

/-- V.TANH of a non-zero finite value. -/
def tTanh (neg : Bool) (m : Nat) (e : Int) (pick : Nat) : Int × Flags :=
  let v : Ival :=
    if floorLog2 m e < -13 then
      { lo := ((2 ^ 40 - 2 ^ 14 : Nat) * m : Nat), hi := (2 ^ 40 * m : Nat), e := e - 40 }
    else
      let z := 2 * fxClamp false m e * (fxLog2e : Int) / (2 ^ fxBits : Nat)
      let t := exp2Ival (-z)
      let up (x : Int) : Int := fxOf x.toNat t.e
      let one : Int := (2 ^ fxBits : Nat)
      let lo := (one - (up t.hi + 1)) * one / (one + up t.hi + 1)
      let hi := (one - up (max t.lo 0)) * one / (one + up (max t.lo 0)) + 1
      { lo := lo - 65536, hi := hi + 65536, e := -(fxBits : Int) }
  let c := max 0 (deliver (widen v 2 false) pick)
  let code := if neg then -c else c
  (code, transFlags code none)

/-- V.SIGM of a finite value. -/
def tSigm (neg : Bool) (m : Nat) (e : Int) (pick : Nat) : Int × Flags :=
  let z := fxClamp neg m e * (fxLog2e : Int) / (2 ^ fxBits : Nat)
  let v : Ival :=
    if neg then
      let t := exp2Ival z
      let one : Int := (2 ^ fxBits : Nat)
      let up (x : Int) : Int := fxOf x.toNat t.e
      { lo := max t.lo 0 * one / (one + up t.hi + 1), hi := t.hi * one / (one + up (max t.lo 0)) + 1, e := t.e }
    else
      let t := exp2Ival (-z)
      let one : Int := (2 ^ fxBits : Nat)
      let up (x : Int) : Int := fxOf x.toNat t.e
      { lo := one * one / (one + up t.hi + 1) - 65536, hi := one * one / (one + up (max t.lo 0)) + 65536,
        e := -(fxBits : Int) }
  let code := max 0 (deliver (widen v 2 false) pick)
  (code, transFlags code (if m = 0 then some 0x3F000000 else none))

/-- V.RCP of a non-zero finite value, correctly rounded. -/
def tRcp (neg : Bool) (m : Nat) (e : Int) : Nat × Flags :=
  let q := 2 ^ 64 / m
  let st := if 2 ^ 64 % m = 0 then 0 else 1
  convert 0xA false (.num neg (2 * q + st) (-65 - e))

/-- The transcendentals by number: 0 EXP2, 1 LOG2, 2 RCP, 3 RSQRT, 4 TANH, 5 SIGM; an FP32 value in, FP32 bits and
flags out, with the special inputs of Table 6.3. -/
def transcend (op : Nat) (bits : Nat) : Nat × Flags :=
  let pick := Config.transPick op (BitVec.ofNat 32 bits)
  let fin (x : Int × Flags) : Nat × Flags := (codeBits x.1, x.2)
  let canon := 0x7FC00000
  let inf (neg : Bool) := if neg then 0xFF800000 else 0x7F800000
  match decodeVal 0xA bits with
  | .nan sg => (canon, fNanIn ||| (if sg then fInvalid else 0))
  | .inf neg =>
    match op with
    | 0 => (if neg then 0 else inf false, 0)
    | 1 => if neg then (canon, fInvalid) else (inf false, 0)
    | 2 => (if neg then 0x80000000 else 0, 0)
    | 3 => if neg then (canon, fInvalid) else (0, 0)
    | 4 => (if neg then 0xBF800000 else 0x3F800000, 0)
    | _ => (if neg then 0 else 0x3F800000, 0)
  | .num neg m e =>
    match op with
    | 0 => fin (tExp2 neg m e pick)
    | 1 => if m = 0 then (inf true, fDivZero) else if neg then (canon, fInvalid) else fin (tLog2 m e pick)
    | 2 => if m = 0 then (inf neg, fDivZero) else tRcp neg m e
    | 3 => if m = 0 then (inf neg, fDivZero) else if neg then (canon, fInvalid) else fin (tRsqrt m e pick)
    | 4 => if m = 0 then (if neg then 0x80000000 else 0, 0) else fin (tTanh neg m e pick)
    | _ => fin (tSigm neg m e pick)

end Sys2Proof.Machine
end

