-- ==== Sys2Proof/Machine/VecOps.lean ====
section
/-! DEFINITION. The machinery of the vector and set engine: operands (R125, R126, R481), slices and port accesses
(R123, R127), results, traps (R104) and the in-order queue (R129 to R131). -/

namespace Sys2Proof.Machine

/-! ### Operands -/

/-- An operand or destination: format code, element bits, and where it lies. -/
inductive VPlace where
  | none
  | mem (base : Nat) (counts : List Nat) (strides : List Int)
  | reg (r p : Nat)
  | lane (r j : Nat)
  | imm (v : Nat)
  deriving DecidableEq, Repr, Inhabited

structure VOpnd where
  code : Nat
  bits : Nat
  place : VPlace
  deriving DecidableEq, Repr, Inhabited

def vNone : VOpnd := { code := 0, bits := 32, place := .none }

/-- Elements of 4 and 6 bits are addressed in groups of four (R126). -/
def VOpnd.grouped (o : VOpnd) : Bool := decide (o.bits < 8)
/-- Bytes of an element, or of a group. -/
def VOpnd.size (o : VOpnd) : Nat := if o.grouped then o.bits / 2 else o.bits / 8

/-- The operand that a selector names. -/
def Core.vOpnd (k : Core) (w : IWord) (v : BitVec 16) (code bits : Nat) : VOpnd :=
  let x := v.toNat
  { code := code, bits := bits,
    place := match selKind x with
      | .desc => let e := k.endOf (k.desc (x % 256)); .mem e.base e.counts e.strides
      | .vreg => .reg (fieldOf x 13 10) (2 ^ fieldOf x 2 0)
      | .lane => .lane (fieldOf x 13 10) (fieldOf x 6 0)
      | .imm => .imm (wImm w).toNat
      | .konst => .none }

/-- Elements that a register holds in a format, at most W (R122). -/
def regCap (wd bits : Nat) : Nat := min wd (if bits = 16 then 128 else 64)

def listProd (l : List Nat) : Nat := l.foldl (· * ·) 1

/-- A format narrower than 16 bits outside the scratchpad (R481). -/
def VOpnd.narrowBad (o : VOpnd) : Bool :=
  match o.place with
  | .mem .. => false
  | .none => false
  | _ => decide (o.bits < 16)

/-- Shape of a source of `n` elements (R125, R126, R147). DESIGN CHOICE (log 43): a register lane at or beyond W has 0x08, since Table
6.5 names no reason for it; where the generator addresses groups of four, the product of the counts is held against the number
of groups. -/
def VOpnd.srcBad (o : VOpnd) (wd n : Nat) : Bool :=
  match o.place with
  | .mem _ c _ =>
    c.getD 4 1 != 1 || c.getD 5 1 != 1 || decide (listProd (c.take 4) < (if o.grouped then ceilDiv n 4 else n)) ||
    (o.grouped && n % 4 != 0)
  | .reg _ p => decide (regCap wd o.bits < p)
  | .lane _ j => decide (regCap wd o.bits ≤ j)
  | _ => false

/-- Shape of a destination of `r` results. -/
def VOpnd.dstBad (o : VOpnd) (wd r : Nat) : Bool :=
  match o.place with
  | .reg _ p => decide (regCap wd o.bits < r) || decide (regCap wd o.bits < p)
  | _ => o.srcBad wd r

/-- Byte address of element or group `i`. -/
def VPlace.addr : VPlace → Nat → Nat
  | .mem b c s, i => genAddr 32 b c s i
  | _, _ => 0

/-! ### Execution -/

/-- How far an execution has come. -/
inductive VStop where
  | go
  | wait (slot : Nat) (write : Bool)
  | pause
  | bad (reason : BitVec 8) (aux : BitVec 64)
  deriving DecidableEq, Repr, Inhabited

/-- An execution in progress: the core, the registers as they stood when it began, the reads served (`reads`, newest
first) and those still to replay, write accesses made and still to skip, slots this slice's reads have emptied,
bytes overwritten with their old contents, the supply of free values, the size of what an access takes old or new as a whole,
the elements of each destination that are still to be written, and slots whose last byte is written before another of their
bytes (R74). -/
structure VX where
  k : Core
  banner : Banner
  regs : Tbl (BitVec 32)
  reads : List (List Byte)
  replay : List (List Byte)
  writes : Nat
  skip : Nat
  emptied : List Nat
  old : List Host.Cell
  others : List (List Host.Cell)   -- bytes that earlier uncompleted instructions overwrote
  fresh : Nat
  idx : Nat
  flags : Flags
  stop : VStop
  grain : Nat := 1
  later : List (VOpnd × Nat × Nat) := []
  also : List (VOpnd × Nat × Nat) := []
  brim : List Nat := []
  deriving DecidableEq, Repr, Inhabited

def VX.going (x : VX) : Bool := x.stop == .go
def VX.fail (x : VX) (r : BitVec 8) (aux : BitVec 64 := 0) : VX := if x.going then { x with stop := .bad r aux } else x
/-- A new slice: flags are judged as they stand now (R77). -/
def VX.newSlice (x : VX) : VX := { x with emptied := [] }

/-- The elements of the destinations that are still to be written after this slice. -/
def VX.ahead (x : VX) (l : List (VOpnd × Nat × Nat)) : VX := { x with later := l }
/-- The elements of a second destination, which are written after those of the first. -/
def VX.andThen (x : VX) (l : List (VOpnd × Nat × Nat)) : VX := { x with also := l }

/-- Old contents that a byte may still show: an earlier write to it is not ordered (R130). -/
def VX.olds (x : VX) (a : Nat) : List Byte :=
  (x.old :: x.others).filterMap fun l => (l.find? fun p => p.1 == a).map (·.2)

/-- The free choice between old and new contents that an access makes for a byte (R130), and V.GATHER for an element as a whole
(R141, log 1). -/
def VX.pick (x : VX) (a : Nat) : Nat := Config.freeNat x.fresh (x.idx * 1073741824 + a / x.grain)

/-- A byte read: as it stands, or one of the old contents that no completion orders (log 1). -/
def VX.byte (x : VX) (a : Nat) : Byte :=
  let l := memGet x.k.mem a :: x.olds a
  if l.length = 1 then memGet x.k.mem a else l.getD (x.pick a % l.length) 0

/-- The table port of V.GATHER may come to rest between two of its accesses, so that a write which nothing orders lands between
them (R141): whether it does is free, and each begin or resumption serves at least one access (log 43). -/
def VX.breathe (x : VX) (grain : Nat) : VX :=
  if x.going && x.replay.isEmpty && decide (0 < x.idx) && x.pick (1073741823 * x.grain) % 2 == 1 then
    { x with stop := .pause } else { x with grain := grain }

/-- Element `i` of an operand has a byte in slot `t`. -/
def VOpnd.touches (o : VOpnd) (t i : Nat) : Bool :=
  match o.place with
  | .mem .. =>
    let a := o.place.addr (if o.grouped then i / 4 else i)
    a / 256 == t || (a + o.size - 1) / 256 == t
  | _ => false

/-- This instruction has another write to slot `t` to make. -/
def VX.returnsTo (x : VX) (t : Nat) : Bool :=
  (x.later ++ x.also).any fun p => (List.range (p.2.2 - p.2.1)).any fun j => p.1.touches t (p.2.1 + j)

/-- Words that bytes of an access touch, and those touched only in part (R63, R64). -/
def touchedWords (as : List Nat) : List Nat := distinct (as.map (· / 8))
def partialWords (as : List Nat) : List Nat :=
  (touchedWords as).filter fun w => !((List.range 8).all fun i => as.contains (w * 8 + i))

/-- One access of a read port to the bytes `as` of slot `t` (R65, R70, R75). -/
def VX.readSlot (x : VX) (t : Nat) (as : List Nat) : VX × List Byte :=
  if !x.going then (x, []) else
  match x.k.check x.banner .vectorR (as.headD 0) 1 with
  | .error r => (x.fail r, [])
  | .ok e =>
    let empties := rgnFlagged e && rgnConsumer e == Port.vectorR.consumer && as.contains (t * 256 + 255)
    let x1 := if empties then { x with emptied := t :: x.emptied } else x
    match x.replay with
    | d :: rest => ({ x1 with replay := rest, reads := d :: x.reads }, d)
    | [] =>
      let (k1, fbad) := if rgnFlagged e then x.k.checkFlags (t * 256) 256 else (x.k, none)
      match fbad with
      | some w => ({ x with k := k1 }.fail 0x60 (BitVec.ofNat 64 (w * 8)), [])
      | none =>
        if rgnFlagged e && !k1.flags.contains t && !x.emptied.contains t then
          ({ x with k := k1, stop := .wait t false }, [])
        else
          let (k2, ue) := k1.checkPart (touchedWords as)
          match ue with
          | some w => ({ x with k := k2 }.fail 0x60 (BitVec.ofNat 64 (w * 8)), [])
          | none =>
            let d := as.map x.byte
            let k3 := if empties then k2.setFlags (k2.flags.filter (· != t)) [t] else k2
            ({ x1 with k := k3, reads := d :: x.reads, idx := x.idx + 1 }, d)

/-- One access of the write port: the bytes of slot `t` (R63, R65, R70, R74). The instruction's writes to one slot complete in
address order, so the slot becomes full with the last of them that holds, or follows the one that holds, byte 0xFF. -/
def VX.writeSlot (x : VX) (t : Nat) (bs : List Host.Cell) : VX :=
  if !x.going then x else
  let as := distinct (bs.map (·.1))
  match x.k.check x.banner .vectorW (as.headD 0) 1 with
  | .error r => x.fail r
  | .ok e =>
    let last := rgnFlagged e && (as.contains (t * 256 + 255) || x.brim.contains t)
    let stays := last && x.returnsTo t
    let brim := if stays then insNat t x.brim else x.brim
    if 0 < x.skip then { x with skip := x.skip - 1, writes := x.writes + 1, brim := brim } else
    let (k1, fbad) := if rgnFlagged e then x.k.checkFlags (t * 256) 256 else (x.k, none)
    match fbad with
    | some w => { x with k := k1 }.fail 0x60 (BitVec.ofNat 64 (w * 8))
    | none =>
      if rgnFlagged e && k1.flags.contains t then { x with k := k1, stop := .wait t true } else
      match k1.checkPart (partialWords as) with
      | (k2, some w) => { x with k := k2 }.fail 0x60 (BitVec.ofNat 64 (w * 8))
      | (k2, none) =>
        let k3 := (touchedWords as).foldl (fun k w => k.clearMarks (w * 8) 8) k2
        let saved := (as.filter fun a => !(x.old.any fun p => p.1 == a)).map fun a => (a, memGet k3.mem a)
        let mem := bs.foldl (fun m p =>
          let keep := (x.others.any fun l => l.any fun c => c.1 == p.1) && x.pick p.1 % 2 == 1
          if keep then m else memPut m p.1 p.2) k3.mem
        let k4 := { k3 with mem := mem }
        { x with k := if last && !stays then k4.setFlags (insNat t k4.flags) [t] else k4, brim := brim,
                 old := saved ++ x.old, writes := x.writes + 1, idx := x.idx + 1 }

/-- The value of element `i` of a register file (R122). -/
def regElem (regs : Tbl (BitVec 32)) (bits r e : Nat) : Nat :=
  if bits = 16 then
    let v := (tget 0 regs (r * 64 + e / 2)).toNat
    if e % 2 = 0 then v % 65536 else v / 65536
  else (tget 0 regs (r * 64 + e)).toNat

/-- Read distinct bytes, one access for each 256-byte slot, in the order in which the slots are first touched. -/
def VX.fetchBytes (x : VX) (bytes : List Nat) : VX × List Host.Cell :=
  (distinct (bytes.map (· / 256))).foldl (fun p t =>
    let as := bytes.filter (fun a => a / 256 == t)
    let (x, d) := p.1.readSlot t as
    (x, p.2 ++ as.zip d)) (x, [])

/-- The little-endian number of `n` bytes among those read. -/
def cellsNat (got : List Host.Cell) (a n : Nat) : Nat :=
  leNat ((List.range n).map fun j => ((got.find? fun p => p.1 == a + j).map (·.2)).getD 0)

/-- Read elements `is` of an operand as one slice's accesses (R127). -/
def VX.fetch (x : VX) (o : VOpnd) (is : List Nat) : VX × List Nat :=
  if !x.going then (x, []) else
  match o.place with
  | .none => (x, is.map fun _ => 0)
  | .imm v => (x, is.map fun _ => v % 2 ^ o.bits)
  | .lane r j => (x, is.map fun _ => regElem x.regs o.bits r j)
  | .reg r p => (x, is.map fun i => regElem x.regs o.bits r (i % p))
  | .mem .. =>
    let sz := o.size
    let at_ (i : Nat) : Nat := o.place.addr (if o.grouped then i / 4 else i)
    let addrs := is.map at_
    if !o.grouped && addrs.any (fun a => a % sz != 0) then (x.fail 0x08, []) else
    let (x1, got) := x.fetchBytes (distinct ((distinct addrs).flatMap fun a => (List.range sz).map (a + ·)))
    if !x1.going then (x1, []) else
    (x1, is.map fun i =>
      let v := cellsNat got (at_ i) sz
      if o.grouped then v / 2 ^ (o.bits * (i % 4)) % 2 ^ o.bits else v)

/-- Write results (element number, bits) as one slice's accesses; a group of which only some elements are delivered
keeps the bits of the others. -/
def VX.put (x : VX) (o : VOpnd) (rs : List (Nat × Nat)) : VX :=
  if !x.going then x else
  match o.place with
  | .reg r _ =>
    let vreg := rs.foldl (fun t p =>
      if o.bits = 16 then
        tupd 0 t (r * 64 + p.1 / 2) fun v =>
          BitVec.ofNat 32 (if p.1 % 2 = 0 then v.toNat / 65536 * 65536 + p.2 else p.2 * 65536 + v.toNat % 65536)
      else tset t (r * 64 + p.1) (BitVec.ofNat 32 p.2)) x.k.vreg
    { x with k := { x.k with vreg := vreg } }
  | .mem .. =>
    let sz := o.size
    let groups : List (Nat × Nat) :=
      if o.grouped then
        (distinct (rs.map fun p => p.1 / 4)).map fun g =>
          let have_ := leNat (memRead x.k.mem (o.place.addr g) sz)
          (g, (List.range 4).foldl (fun v j =>
            let e := match rs.find? (fun p => p.1 == 4 * g + j) with
              | some p => p.2
              | none => have_ / 2 ^ (o.bits * j) % 2 ^ o.bits
            v + e * 2 ^ (o.bits * j)) 0)
      else rs
    let cells := groups.map fun p => (o.place.addr p.1, p.2)
    if !o.grouped && cells.any (fun p => p.1 % sz != 0) then x.fail 0x08 else
    let bytes : List Host.Cell := cells.flatMap fun p => (leBytes sz p.2).zipIdx.map fun q => (p.1 + q.2, q.1)
    (distinct (bytes.map (·.1 / 256))).foldl (fun x t => x.writeSlot t (bytes.filter fun b => b.1 / 256 == t)) x
  | _ => x

/-- One result: element number, bits, flags. -/
abbrev VRes := Nat × Nat × Flags

def resFlags (l : List VRes) : Flags := l.foldl (fun f r => f ||| r.2.2) 0

def invalidIn (f : Flags) : Bool := f.getLsbD 0

/-- Deliver the results of one slice. With trap_invalid set, the results below the first lane that raises invalid are
written and the core halts (R104); `each` says that results are taken one after another (a reduction), so the
summary stops at the trapping one, and otherwise the slice is one trapping cycle. -/
def VX.deliver (x : VX) (each : Bool) (o : VOpnd) (rs : List VRes) : VX :=
  if !x.going then x else
  match (if x.k.vflags.getLsbD 9 then rs.find? (fun r => invalidIn r.2.2) else none) with
  | none =>
    let x1 := x.put o (rs.map fun r => (r.1, r.2.1))
    { x1 with flags := x1.flags ||| resFlags rs }
  | some b =>
    let below := rs.takeWhile fun r => !invalidIn r.2.2
    let f := x.flags ||| (if each then resFlags below ||| b.2.2 else resFlags rs)
    (x.put o (below.map fun r => (r.1, r.2.1))).fail 0x51 (BitVec.ofNat 64 (b.1 % 4096 * 16384 + f.toNat))

/-- Element numbers of each slice (R123). -/
def slicesOf (n wd : Nat) : List (List Nat) :=
  (List.range (ceilDiv n wd)).map fun s => (List.range (min wd (n - s * wd))).map (s * wd + ·)

/-- Fetch several operands for a slice; each has its own map of element numbers. -/
def VX.fetchAll (x : VX) : List (VOpnd × (Nat → Nat)) → List Nat → VX × List (List Nat)
  | [], _ => (x, [])
  | (o, m) :: os, is =>
    let (x1, v) := x.fetch o (is.map m)
    let (x2, vs) := x1.fetchAll os is
    (x2, v :: vs)

/-- Operand values of lane number `j` of a slice. -/
def rowOf (cols : List (List Nat)) (j : Nat) : List Nat := cols.map fun c => c.getD j 0

/-- An element-wise instruction: each slice is read, computed and written. DESIGN CHOICE (log 10): where an access of a later slice
faults, the results of every earlier slice are written; R126 tells the cycle of the fault alone. -/
def VX.elementwise (x : VX) (n wd : Nat) (ops : List (VOpnd × (Nat → Nat))) (dst : VOpnd)
    (f : List Nat → Nat × Flags) : VX :=
  (slicesOf n wd).foldl (fun x is =>
    let (x1, cols) := (x.newSlice.ahead [(dst, is.getLastD 0 + 1, n)]).fetchAll ops is
    x1.deliver false dst (is.zipIdx.map fun p => (p.1, f (rowOf cols p.2)))) x

/-- Read a whole operand, slice by slice. -/
def VX.fetchWhole (x : VX) (n wd : Nat) (ops : List (VOpnd × (Nat → Nat))) : VX × List (List Nat) :=
  (slicesOf n wd).foldl (fun p is =>
    let (x1, cols) := p.1.newSlice.fetchAll ops is
    (x1, (p.2.zip cols).map fun q => q.1 ++ q.2)) (x, ops.map fun _ => [])

/-- Deliver a list of results in slices of `wd`. -/
def VX.deliverAll (x : VX) (each : Bool) (wd : Nat) (o : VOpnd) (rs : List VRes) : VX :=
  (slicesOf rs.length wd).foldl (fun x is =>
    (x.newSlice.ahead [(o, is.getLastD 0 + 1, rs.length)]).deliver each o (is.filterMap fun i => rs[i]?)) x

/-! ### The queue -/

/-- What the checks of an instruction find beyond the common ones, and what it does. -/
structure VPlan where
  fmtBad : Bool
  shapeBad : Bool
  run : VX → VX

/-- V. instructions that wait to begin (R129): one that has begun has captured its registers. -/
def Core.vWaiting (k : Core) : Nat :=
  (k.vq.filter fun p => match p.todo with | some t => t.regs.isNone | none => false).length
def Core.vAccepts (k : Core) : Bool := decide (k.vWaiting < 4)

/-- Which plan an opcode has; filled in by Vector.lean. -/
abbrev VPlanner := Nat → IWord → Core → VPlan

/-- Run, or resume, the instruction `p` with its `t`; `before` holds the instructions ahead of it in the queue. -/
def vRun (plan : VPlanner) (s : State) (c : Nat) (p : VPend) (t : VTodo) (before : List VPend) : State × VPend × Bool :=
  let k := s.core c
  let regs := t.regs.getD k.vreg
  let x0 : VX := { k := k, banner := s.coreBanner c, regs := regs, reads := [], replay := t.reads, writes := 0,
                   skip := t.writes, emptied := [], old := p.old, others := before.map (·.old), fresh := s.fresh,
                   idx := 0, flags := 0, stop := .go }
  let x := (plan t.op t.word { k with k := t.k }).run x0
  let s1 := (s.setCore c x.k).tick
  match x.stop with
  | .go => (s1, { p with flags := x.flags, old := x.old, todo := none }, true)
  | .wait slot w =>
    (s1.refused c slot w p.tag 0 .vector,
     { p with old := x.old, todo := some { t with regs := some regs, reads := x.reads.reverse, writes := x.writes } },
     false)
  | .pause => (s1, { p with old := x.old, todo := some { t with regs := some regs, reads := x.reads.reverse, writes := x.writes } },
    false)
  | .bad r aux => (s1.haltCore c r p.tag.pc (.of .vector) aux, p, false)

/-- Begin waiting instructions in issue order: one with seq waits for every earlier one to complete (R129, R130). -/
def vKick (plan : VPlanner) (c : Nat) : Nat → State → State
  | 0, s => s
  | fuel + 1, s =>
    let k := s.core c
    let before := k.vq.takeWhile fun p => p.todo.isNone
    match k.vq.drop before.length with
    | [] => s
    | p :: _ =>
      match p.todo with
      | none => s
      | some t =>
        if (bitOf t.word.mod.toNat 7 && !before.isEmpty) || (!k.engineOn) then s else
        let (s1, p1, ok) := vRun plan s c p t before
        if (s1.core c).st = .halted then s1 else
        let k1 := s1.core c
        let k2 := { k1 with vq := updFirst (fun q => q.tag.ord == p.tag.ord) (fun _ => p1) k1.vq }
        if ok then vKick plan c fuel (s1.setCore c (k2.served .vector p.tag.ord 0)) else s1.setCore c k2

/-- Issue of a V. instruction: it joins the queue, and begins at once if nothing holds it. -/
def vIssue (plan : VPlanner) (c op : Nat) (w : IWord) (regs : List Nat × List Nat) (s : State) (t : Tag) : State :=
  let k := s.core c
  let p : VPend := { tag := t, flags := 0, old := [], dsts := regs.1, uses := regs.2,
                     todo := some { op := op, word := w, k := k.k, regs := none, reads := [], writes := 0 } }
  let s1 := (s.setCore c { k with vq := k.vq ++ [p] }).stepPc c
  if k.vq.any (fun q => q.todo.isSome) then s1 else vKick plan c 1 s1

/-- The executed instructions that may complete next: one whose results are registers has completed before a later one that
reads or writes those registers begins (R129, R131). -/
def vReady : List VPend → List VPend → List VPend
  | _, [] => []
  | before, p :: l =>
    let held := before.any fun q => !q.dsts.isEmpty && q.dsts.any p.uses.contains
    (if p.todo.isNone && !held then [p] else []) ++ vReady (before ++ [p]) l

/-- VECTOR_COMPLETION: an instruction that has executed completes (R131): its summary is ORed into VFLAGS and its signal
is given; then waiting instructions begin. Each completes at its own last write, so of several which one is next is free
(log 43). Where none has executed, the one that a flag holds is presented again first. -/
def vComplete (plan : VPlanner) (c : Nat) (s : State) : State :=
  if !(s.core c).engineOn then s else
  let stuck := !((s.core c).vq.any fun p => p.todo.isNone)
  let s := if stuck then vKick plan c 5 s else s
  let k := s.core c
  let done := vReady [] k.vq
  match done[s.freshVal % done.length]? with
  | none => s
  | some p =>
    if k.st == .halted then s else
    let k1 := { k with vq := remFirst (fun q => q.tag.ord == p.tag.ord) k.vq, vflags := k.vflags ||| p.flags.setWidth 10 }
    let s1 := (s.setCore c k1).tick.signal c p.tag .vector
    if stuck || (s1.core c).st == .halted then s1 else vKick plan c 5 s1

end Sys2Proof.Machine
end

