-- ==== Sys2Proof/Machine/Vector.lean ====
section
/-! DEFINITION. Meanings of the vector and set instructions (06, R200 to R203). Each has a plan: its format checks,
its shape checks, and its execution over the machinery of VecOps. -/

namespace Sys2Proof.Machine

/-! ### Fields (Table 9.5) -/

def vN (w : IWord) : Nat := let v := fieldOf w.o3.toNat 11 0; if v = 0 then 4096 else v
def vFn (w : IWord) : Nat := fieldOf w.o3.toNat 15 12
def vCf (w : IWord) : Nat := match wMod w 5 4 with | 0 => 0xA | 1 => 0x8 | 2 => 0x9 | _ => 0xB
def vSat (w : IWord) : Bool := wMod w 6 6 == 1
def vWd (code : Nat) : Nat := if fmtBits code = 16 then 128 else 64
/-- A count field in which 0 encodes 4,096. -/
def vLen (v : BitVec 16) : Nat := let x := fieldOf v.toNat 11 0; if x = 0 then 4096 else x
def isDesc (v : BitVec 16) : Bool := selKind v.toNat == .desc

/-- Storage format of an operand with the given narrow bit (R124, R201). -/
def vStore (w : IWord) (narrow : Bool) : Nat :=
  if narrow then (if wMod w 3 3 == 1 then 0x9 else 0x8) else vCf w

/-- A narrow bit that is set where it may not be (R201): with another compute format, or for no scratchpad operand. -/
def narrowBad (w : IWord) (bit : Bool) (ok : Bool) : Bool := bit && !(vCf w == 0xA && ok)

def bitD (w : IWord) : Bool := wMod w 2 2 == 1
def bitA (w : IWord) : Bool := wMod w 1 1 == 1
def bitB (w : IWord) : Bool := wMod w 0 0 == 1

/-- Source and destination operands with their narrow bit. -/
def vSrc (k : Core) (w : IWord) (v : BitVec 16) (narrow : Bool) : VOpnd :=
  let f := vStore w narrow
  k.vOpnd w v f (fmtBits f)

/-! ### Arithmetic on values (R101) -/

def Val.toInt : Val → Int
  | .num n m _ => if n then -(m : Int) else m
  | _ => 0

/-- Round a value to the compute format and take it back. -/
def vRound (cf : Nat) (r : Val × Flags) : Val × Flags :=
  let (b, g) := roundTo cf r.1
  (decodeVal cf b, r.2 ||| g)

/-- One operation in the compute format: 0 add, 1 subtract, 2 multiply, 3 fused multiply-add, 4 maximum, 5 minimum. -/
def vCompute (kind cf : Nat) (sat : Bool) (a b c : Val) : Val × Flags :=
  if cf = 0xB then
    let x := a.toInt
    let y := b.toInt
    let r : Int := match kind with
      | 0 => x + y | 1 => x - y | 2 => x * y | 3 => x * y + c.toInt
      | 4 => if x < y then y else x
      | _ => if x < y then x else y
    let (v, f) := int32Result sat r
    (decodeVal 0xB v, f)
  else
    match kind with
    | 0 => vRound cf (vAddV a b)
    | 1 => vRound cf (vAddV a b.negate)
    | 2 => vRound cf (vMulV a b)
    | 3 => vRound cf (vFmaV a b c)
    | 4 => vRound cf (vMinMax true a b)
    | _ => vRound cf (vMinMax false a b)

/-- Store a value of the compute format: unchanged there, narrowed by R98 otherwise (R101, R124). -/
def vKeep (cf dst : Nat) (sat : Bool) (r : Val × Flags) : Nat × Flags :=
  if dst = cf then ((roundTo cf r.1).1, r.2)
  else let (b, g) := convert dst sat r.1; (b, r.2 ||| g)

/-- Fraction bits of the floating-point formats of the engine. -/
def fracBits (f : Nat) : Nat := match f with | 0x8 => 7 | 0x9 => 10 | _ => 23

/-- A NaN carried into another storage format: its sign and the leading bits of its fraction, quiet if these are 0. -/
def nanMove (src dst b : Nat) : Nat :=
  let fs := fracBits src
  let fd := fracBits dst
  let x := if fs ≤ fd then b % 2 ^ fs * 2 ^ (fd - fs) else b % 2 ^ fs / 2 ^ (fs - fd)
  let nb := fmtBits dst
  b / 2 ^ (fmtBits src - 1) * 2 ^ (nb - 1) + (2 ^ (nb - 1) - 2 ^ fd) + (if x = 0 then 2 ^ (fd - 1) else x)

/-- Element bits moved unchanged, or carried into another storage format; a NaN does not become canonical (R133;
DEDUCED, log 43: between formats it keeps its sign and the leading bits of its fraction). -/
def vMove (src dst : Nat) (sat : Bool) (b : Nat) : Nat :=
  if src = dst then b
  else if (decodeVal src b).isNan then nanMove src dst b
  else (convert dst sat (decodeVal src b)).1

def at3 (l : List Nat) (i : Nat) : Nat := l.getD i 0

/-! ### Element-wise plans -/

/-- V.ADD, V.SUB, V.MUL, V.FMA, V.MAX, V.MIN. -/
def planArith (kind : Nat) (w : IWord) (k : Core) : VPlan :=
  let cf := vCf w
  let n := vN w
  let wd := vWd cf
  let cNarrow := kind == 3 && vFn w % 2 == 1
  let a := vSrc k w w.o1 (bitA w)
  let b := vSrc k w w.o2 (bitB w)
  let c := if kind = 3 then vSrc k w w.o4 cNarrow else vNone
  let d := vSrc k w w.o0 (bitD w)
  { fmtBad := narrowBad w (bitD w) (isDesc w.o0) || narrowBad w (bitA w) (isDesc w.o1) ||
      narrowBad w (bitB w) (isDesc w.o2) || narrowBad w cNarrow (isDesc w.o4),
    shapeBad := a.srcBad wd n || b.srcBad wd n || c.srcBad wd n || d.dstBad wd n,
    run := fun x => x.elementwise n wd [(a, id), (b, id), (c, id)] d fun l =>
      vKeep cf d.code (vSat w) (vCompute kind cf (vSat w) (decodeVal a.code (at3 l 0)) (decodeVal b.code (at3 l 1))
        (decodeVal c.code (at3 l 2))) }

/-- V.CMP (R132). -/
def planCmp (w : IWord) (k : Core) : VPlan :=
  let cf := vCf w
  let n := vN w
  let wd := vWd cf
  let a := vSrc k w w.o1 (bitA w)
  let b := vSrc k w w.o2 (bitB w)
  let d := vSrc k w w.o0 (bitD w)
  { fmtBad := narrowBad w (bitD w) (isDesc w.o0) || narrowBad w (bitA w) (isDesc w.o1) ||
      narrowBad w (bitB w) (isDesc w.o2),
    shapeBad := vFn w == 7 || a.srcBad wd n || b.srcBad wd n || d.dstBad wd n,
    run := fun x => x.elementwise n wd [(a, id), (b, id)] d fun l =>
      let (t, f) := vCmpV (vFn w) (decodeVal a.code (at3 l 0)) (decodeVal b.code (at3 l 1))
      (if t then 2 ^ d.bits - 1 else 0, f) }

/-- V.SELECT (R133): the mask is judged by its bits. -/
def planSelect (w : IWord) (k : Core) : VPlan :=
  let n := vN w
  let wd := vWd (vCf w)
  let bn := vFn w % 2 == 1
  let m := vSrc k w w.o1 (bitA w)
  let a := vSrc k w w.o2 (bitB w)
  let b := vSrc k w w.o4 bn
  let d := vSrc k w w.o0 (bitD w)
  { fmtBad := narrowBad w (bitD w) (isDesc w.o0) || narrowBad w (bitA w) (isDesc w.o1) ||
      narrowBad w (bitB w) (isDesc w.o2) || narrowBad w bn (isDesc w.o4),
    shapeBad := m.srcBad wd n || a.srcBad wd n || b.srcBad wd n || d.dstBad wd n,
    run := fun x => x.elementwise n wd [(m, id), (a, id), (b, id)] d fun l =>
      (if at3 l 0 = 0 then vMove b.code d.code (vSat w) (at3 l 2) else vMove a.code d.code (vSat w) (at3 l 1), 0) }

/-- A transcendental of a value in a compute format (R135). -/
def vTrans (op cf : Nat) (v : Val) : Val × Flags :=
  if v.isNan then (.nan false, nanFlags [v])
  else
    let (b, f) := transcend op (convert 0xA false v).1
    let r := decodeVal 0xA b
    if cf = 0xA then (r, f) else vRound cf (r, f)

/-- V.EXP2, V.LOG2, V.RCP, V.RSQRT, V.TANH, V.SIGM. -/
def planUnary (op : Nat) (w : IWord) (k : Core) : VPlan :=
  let cf := vCf w
  let n := vN w
  let wd := vWd cf
  let a := vSrc k w w.o1 (bitA w)
  let d := vSrc k w w.o0 (bitD w)
  { fmtBad := cf == 0xB || narrowBad w (bitD w) (isDesc w.o0) || narrowBad w (bitA w) (isDesc w.o1) || bitB w,
    shapeBad := a.srcBad wd n || d.dstBad wd n,
    run := fun x => x.elementwise n wd [(a, id)] d fun l =>
      vKeep cf d.code (vSat w) (vTrans op cf (decodeVal a.code (at3 l 0))) }

/-! ### V.CVT (R98, R99, R138, R202, R480) -/

/-- Formats that V.CVT converts. -/
def cvtFmt (f : Nat) : Bool := decide (f ≤ 0xC) && f != 1

/-- Element numbers of block q and the number of its scale byte, for interleave N (0: none). -/
def blockElems (nn n q : Nat) : List Nat × Nat :=
  if nn = 0 then ((List.range (min 32 (n - 32 * q))).map (32 * q + ·), q)
  else ((List.range 32).map fun j => (32 * (q / nn) + j) * nn + q % nn, q)

/-- The scale byte of element i. -/
def scaleIdx (nn i : Nat) : Nat := if nn = 0 then i / 32 else i / nn / 32 * nn + i % nn

/-- V.CVT (R99, R138). DESIGN CHOICE (log 43): the instruction has no compute format, to which R122 ties the lane width; W is 64 where
the source or the destination has elements of 32 bits and 128 otherwise. -/
def planCvt (w : IWord) (k : Core) : VPlan :=
  let n := vN w
  let dc := fieldOf w.o4.toNat 7 4
  let sc := fieldOf w.o4.toNat 3 0
  let wd := if max (fmtBits dc) (fmtBits sc) = 32 then 64 else 128
  let nn := match vFn w with | 1 => 8 | 2 => 32 | _ => 0
  let bd := isBlockFmt dc
  let bs := isBlockFmt sc
  let a := k.vOpnd w w.o1 sc (fmtBits sc)
  let d := k.vOpnd w w.o0 dc (fmtBits dc)
  let sp := if bd || bs then k.vOpnd w w.o2 0xC 8 else vNone
  let nb := ceilDiv n 32
  { fmtBad := !cvtFmt dc || !cvtFmt sc || (bd && bs) || a.narrowBad || d.narrowBad || sp.narrowBad,
    shapeBad := vFn w == 3 || (nn != 0 && !(bd || bs)) || (nn != 0 && n % (32 * nn) != 0) ||
      a.srcBad wd n || d.dstBad wd n || sp.srcBad wd nb ||
      (bd && nn != 0 && (match sp.place with | .mem b _ _ => b % 2048 != 0 | _ => false)),
    run := fun x =>
      if bd then
        let chunk := if nn = 0 then wd else 32 * nn
        (slicesOf n chunk).foldl (fun x is =>
          let i0 := is.headD 0
          let (x1, cols) := (slicesOf is.length wd).foldl (fun p js =>
            let (x, v) := p.1.newSlice.fetch a (js.map (i0 + ·))
            (x, p.2 ++ v)) (x, [])
          let blocks := (List.range (if nn = 0 then ceilDiv is.length 32 else nn)).map fun q =>
            blockElems nn n (q + (if nn = 0 then i0 / 32 else i0 / 32))
          let done := blocks.map fun p =>
            let (s, es) := toBlock dc (p.1.map fun i => decodeVal sc (cols.getD (i - i0) 0))
            ((p.2, s), p.1.zip es)
          let elems := done.flatMap (·.2)
          let out : List VRes := is.filterMap fun i => (elems.find? fun e => e.1 == i)
          let ends := (d, is.getLastD 0 + 1, n)
          let scales := (sp, (done.map (·.1.1)).foldl max 0 + 1, ceilDiv n 32)
          let x2 := (slicesOf is.length wd).foldl (fun x js =>
            ((x.newSlice.ahead [(d, i0 + js.getLastD 0 + 1, n)]).andThen [(sp, 0, ceilDiv n 32)]).deliver false d
              (js.filterMap fun j => out[j]?)) x1
          ((x2.ahead [ends]).andThen [scales]).put sp (done.map (·.1))) x
      else if bs then
        x.elementwise n wd [(a, id), (sp, scaleIdx nn)] d fun l =>
          convert dc (vSat w) (scaledVal sc (at3 l 0) (at3 l 1))
      else x.elementwise n wd [(a, id)] d fun l => convert dc (vSat w) (decodeVal sc (at3 l 0)) }

/-! ### V.SUM (R134) -/

/-- One level of the reduction tree. -/
def treeLevel (f : Val → Val → Val × Flags) : List Val → List Val × Flags
  | a :: b :: l =>
    let (r, g) := f a b
    let (rs, h) := treeLevel f l
    (r :: rs, g ||| h)
  | l => (l, 0)

/-- The reduction tree, `fuel` levels deep. -/
def treeRed (f : Val → Val → Val × Flags) : Nat → List Val → Val × Flags
  | _, [] => (Val.zero, 0)
  | _, [v] => (v, 0)
  | 0, v :: _ => (v, 0)
  | fuel + 1, l =>
    let (l1, g) := treeLevel f l
    let (r, h) := treeRed f fuel l1
    (r, g ||| h)

/-- The tree of V.SUM and V.NORM, each of whose steps is an instruction's operation of its own (R134). DESIGN CHOICE (log 10): a NaN that
an earlier step produced raises nan_in where a later one takes it, as a NaN of a source does; R102 does not tell the two apart. -/
def vTree (kind cf : Nat) (sat : Bool) (l : List Val) : Val × Flags :=
  treeRed (fun a b => vCompute kind cf sat a b Val.zero) 13 l

/-- Map with flags gathered. -/
def mapFlags (f : Val → Val × Flags) (l : List Val) : List Val × Flags :=
  let r := l.map f
  (r.map (·.1), r.foldl (fun g p => g ||| p.2) 0)

/-- V.SUM. A NaN element raises its flags also in a segment of one element, where the tree holds no operation (Table 4.8).
DESIGN CHOICE (log 43): the element index of a trap is the number of the result whose segment raised invalid. -/
def planSum (w : IWord) (k : Core) : VPlan :=
  let cf := vCf w
  let n := vN w
  let wd := vWd cf
  let L := vLen w.o2
  let op := vFn w % 4
  let inter := bitOf (vFn w) 2
  let r := if inter then L else n / L
  let m := n / r
  let a := vSrc k w w.o1 (bitA w)
  let d := vSrc k w w.o0 (bitD w)
  { fmtBad := narrowBad w (bitD w) (isDesc w.o0) || narrowBad w (bitA w) (isDesc w.o1) || bitB w,
    shapeBad := n % L != 0 || a.srcBad wd n || d.dstBad wd r,
    run := fun x =>
      let (x1, cols) := x.fetchWhole n wd [(a, id)]
      let v := (cols.getD 0 []).map (decodeVal a.code)
      let kind := match op with | 0 => 0 | 1 => 4 | 2 => 5 | _ => 0
      let rs : List VRes := (List.range r).map fun s =>
        let seg := (List.range m).map fun j => v.getD (if inter then s + L * j else s * L + j) Val.zero
        let (seg, g) := if op = 3 then mapFlags (fun e => vCompute 2 cf (vSat w) e e Val.zero) seg else (seg, 0)
        let (t, h) := vTree kind cf (vSat w) seg
        (s, vKeep cf d.code (vSat w) (t, g ||| h ||| nanFlags seg))
      x1.deliverAll true wd d rs }

/-! ### V.NORM (R136) -/

def fAdd (a b : Val) : Val × Flags := vCompute 0 0xA false a b Val.zero
def fSub (a b : Val) : Val × Flags := vCompute 1 0xA false a b Val.zero
def fMul (a b : Val) : Val × Flags := vCompute 2 0xA false a b Val.zero

/-- One segment: results with the flags of each, the segment's own flags among them. -/
def normSeg (mode : Nat) (xs gs bs : List Val) (c e : Val) : List (Val × Flags) :=
  match mode with
  | 0 =>
    let (sq, f1) := mapFlags (fun x => fMul x x) xs
    let (s, f2) := vTree 0 0xA false sq
    let (sc, f3) := fMul s c
    let (se, f4) := fAdd sc e
    let (r, f5) := vTrans 3 0xA se
    let f := f1 ||| f2 ||| f3 ||| f4 ||| f5
    (xs.zip gs).map fun p =>
      let (y, h1) := fMul p.1 r
      let (z, h2) := fMul y p.2
      (z, f ||| h1 ||| h2)
  | 1 =>
    let (t, f1) := vTree 0 0xA false xs
    let (mu, f2) := fMul t c
    let (ds, f3) := mapFlags (fun x => fSub x mu) xs
    let (sq, f4) := mapFlags (fun d => fMul d d) ds
    let (q, f5) := vTree 0 0xA false sq
    let (v, f6) := fMul q c
    let (ve, f7) := fAdd v e
    let (r, f8) := vTrans 3 0xA ve
    let f := f1 ||| f2 ||| f3 ||| f4 ||| f5 ||| f6 ||| f7 ||| f8
    (ds.zip (gs.zip bs)).map fun p =>
      let (y, h1) := fMul p.1 r
      let (z, h2) := fMul y p.2.1
      let (u, h3) := fAdd z p.2.2
      (u, f ||| h1 ||| h2 ||| h3)
  | _ =>
    (xs.zip gs).map fun p =>
      let (y, h1) := fMul p.1 c
      let (z, h2) := fMul y p.2
      (z, h1 ||| h2)

/-- V.NORM. DESIGN CHOICE (log 43): flags of the steps that a segment's elements share attach to each of them, so a trap
names the segment's first element; and the bias of layer mode has the storage type of the gain, since no narrow bit is its own
(R201). -/
def planNorm (w : IWord) (k : Core) : VPlan :=
  let n := vN w
  let mode := vFn w
  let m := vLen w.o5
  let a := vSrc k w w.o1 (bitA w)
  let d := vSrc k w w.o0 (bitD w)
  let g := vSrc k w w.o2 (bitB w)
  let g1 := w.o2.toNat % 256 + 1
  let b := if mode = 1 then vSrc k w (BitVec.ofNat 16 g1) (bitB w) else vNone
  let e := if mode = 2 then vNone else vSrc k w (w.o4 + 1) false
  let j := fieldOf w.o4.toNat 6 0
  { fmtBad := vCf w != 0xA || narrowBad w (bitD w) (isDesc w.o0) || narrowBad w (bitA w) (isDesc w.o1) ||
      narrowBad w (bitB w) (isDesc w.o2),
    shapeBad := mode == 3 || n % m != 0 || (mode == 1 && g1 == 256) || decide (64 ≤ j) || (mode != 2 && decide (64 ≤ j + 1)) ||
      a.srcBad 64 n || g.srcBad 64 m || b.srcBad 64 m || d.dstBad 64 n,
    run := fun x =>
      let cv := decodeVal 0xA (regElem x.regs 32 (fieldOf w.o4.toNat 13 10) j)
      let ev := match e.place with
        | .lane r i => decodeVal 0xA (regElem x.regs 32 r i)
        | _ => Val.zero
      let (x1, cols) := x.fetchWhole n 64 [(a, id), (g, (· % m)), (b, (· % m))]
      let xs := (cols.getD 0 []).map (decodeVal a.code)
      let gs := (cols.getD 1 []).map (decodeVal g.code)
      let bs := (cols.getD 2 []).map (decodeVal b.code)
      let rs := (List.range (n / m)).flatMap fun s =>
        let cut (l : List Val) : List Val := (l.drop (s * m)).take m
        normSeg mode (cut xs) (cut gs) (cut bs) cv ev
      x1.deliverAll false 64 d (rs.zipIdx.map fun p => (p.2, vKeep 0xA d.code (vSat w) p.1)) }

/-! ### V.ROPE (R137) -/

/-- Exact a × b + c × d with one rounding. -/
def dot2 (cf : Nat) (a b c d : Val) : Val × Flags :=
  let (p, f) := vMulV a b
  let (q, g) := vMulV c d
  if p.isNan || q.isNan then (.nan false, f ||| g)
  else
    let (r, h) := vAddV p q
    vRound cf (r, f ||| g ||| h)

/-- V.ROPE (R137). DESIGN CHOICE (log 43): no rule names a reason for the compute format INT32, and the model halts with 0x05; an entry
of the cos/sin table, two FP32 words, lies at a multiple of 4, with 0x08 otherwise as R126 has it for an element. -/
def planRope (w : IWord) (k : Core) : VPlan :=
  let cf := vCf w
  let n := vN w
  let wd := vWd cf
  let dd := fieldOf w.o5.toNat 11 0
  let hlf := vFn w % 2 == 1
  let a := vSrc k w w.o1 (bitA w)
  let d := vSrc k w w.o0 (bitD w)
  let t := k.desc (w.o2.toNat % 256)
  let tb := (k.endOf t).base
  let rows := t.counts.getD 0 0
  let stride := t.strides.getD 0 0
  let pr := fieldOf w.o4.toNat 13 10
  let pp := 2 ^ fieldOf w.o4.toNat 2 0
  { fmtBad := cf == 0xB || narrowBad w (bitD w) (isDesc w.o0) || narrowBad w (bitA w) (isDesc w.o1) || bitB w,
    shapeBad := dd == 0 || dd % 2 != 0 || n % dd != 0 || decide (64 < n / dd) || decide (wd < pp) ||
      a.srcBad wd n || d.dstBad wd n || t.counts.getD 4 1 != 1 || t.counts.getD 5 1 != 1,
    run := fun x =>
      -- element i of a segment: its pair number, and whether it is the first of the pair
      let pairOf (i : Nat) : Nat × Bool :=
        let e := i % dd
        if hlf then (e % (dd / 2), decide (e < dd / 2)) else (e / 2, e % 2 == 0)
      let partner (i : Nat) : Nat :=
        if hlf then (if (pairOf i).2 then i + dd / 2 else i - dd / 2) else (if i % 2 = 0 then i + 1 else i - 1)
      let pos (i : Nat) : Nat := regElem x.regs 32 pr ((i / dd) % pp)
      let entry (i : Nat) : Nat := wrapInt 32 ((tb : Int) + (pos i : Int) * stride + 8 * (pairOf i).1)
      let (x1, xv, tv) := (slicesOf n wd).foldl (fun (p : VX × List (Nat × Nat) × List Host.Cell) is =>
        let (x1, v) := p.1.newSlice.fetch a (is ++ is.map partner)
        if is.any (fun i => decide (rows ≤ pos i)) then (x1.fail 0x09, p.2) else
        let es := distinct (is.map entry)
        if es.any (fun e => e % 4 != 0) then (x1.fail 0x08, p.2) else
        let (x2, cs) := x1.fetchBytes (distinct (es.flatMap fun e => (List.range 8).map (e + ·)))
        (x2, p.2.1 ++ (is.zip v), p.2.2 ++ cs)) (x, [], [])
      let xVal (i : Nat) : Val := decodeVal a.code ((xv[i]?.map (·.2)).getD 0)
      let rs : List VRes := (List.range n).map fun i =>
        let cs := decodeVal 0xA (cellsNat tv (entry i) 4)
        let sn := decodeVal 0xA (cellsNat tv (entry i + 4) 4)
        let other := xVal (partner i)
        let r := if (pairOf i).2 then dot2 cf (xVal i) cs other.negate sn else dot2 cf other sn (xVal i) cs
        (i, vKeep cf d.code (vSat w) r)
      x1.deliverAll false wd d rs }

/-! ### V.GATHER and V.SCATTER (R139, R140, R202) -/

def elemBits (w : IWord) : Nat := match vFn w / 2 % 4 with | 0 => 8 | 1 => 16 | _ => 32

/-- Conditions on the table descriptor. -/
def tableBad (k : Core) (v : BitVec 16) (eb : Nat) : Bool :=
  let t := k.desc (v.toNat % 256)
  let b := (k.endOf t).base
  let len := t.counts.getD 0 0 * (eb / 8)
  t.strides.getD 0 0 != ((eb / 8 : Nat) : Int) || (t.counts.drop 1).any (· != 1) ||
  k.rgn.any fun p => decide (rgnSize p.2 ≠ 0) && rgnFlagged p.2 && decide (rgnBase p.2 < b + len) &&
    decide (b < rgnBase p.2 + rgnSize p.2)

/-- Read the index list, and another operand with it; an index out of range halts when it is read (R140). -/
def fetchIdx (x : VX) (n wd L : Nat) (oob : Bool) (ops : List (VOpnd × (Nat → Nat))) : VX × List (List Nat) :=
  (slicesOf n wd).foldl (fun p is =>
    let (x1, cols) := p.1.newSlice.fetchAll ops is
    let bad := if oob then none else (is.zip (cols.getD 0 [])).find? fun q => decide (L ≤ q.2)
    let x2 := match bad with
      | some q => x1.fail 0x09 (BitVec.ofNat 64 (q.2 + q.1 % 4096 * 4294967296))
      | none => x1
    (x2, (p.2.zip cols).map fun q => q.1 ++ q.2)) (x, ops.map fun _ => [])

/-- Order of the table port: the lowest pending index, with every other among the next 63 of the same slot (R139). -/
def tableBatches (addr : Nat → Nat) : Nat → List (Nat × Nat) → List (List (Nat × Nat))
  | 0, _ => []
  | _, [] => []
  | fuel + 1, p :: l =>
    let near := l.take 63
    let same (q : Nat × Nat) : Bool := addr q.2 / 256 == addr p.2 / 256
    (p :: near.filter same) :: tableBatches addr fuel (near.filter (fun q => !same q) ++ l.drop 63)

/-- V.GATHER (R139, R140). DESIGN CHOICE (log 43): without a compute format, to which R122 ties the lane width, W is 64 for elements of
32 bits and 128 otherwise. -/
def planGather (w : IWord) (k : Core) : VPlan :=
  let n := vN w
  let eb := elemBits w
  let wd := if eb = 32 then 64 else 128
  let ib := if vFn w % 2 = 1 then 32 else 16
  let ix := k.vOpnd w w.o2 0xB ib
  let d := k.vOpnd w w.o0 0 eb
  let tab := k.vOpnd w w.o1 0 eb
  let L := (k.desc (w.o1.toNat % 256)).counts.getD 0 0
  let oob := bitOf (vFn w) 3
  { fmtBad := d.narrowBad,
    shapeBad := vFn w / 2 % 4 == 3 || tableBad k w.o1 eb || ix.srcBad wd n || d.dstBad wd n,
    run := fun x =>
      let (x1, cols) := fetchIdx x n wd L oob [(ix, id)]
      let pend := ((cols.getD 0 []).zipIdx.filter fun p => decide (p.1 < L)).map fun p => (p.2, p.1)
      let (x2, vals) := (tableBatches tab.place.addr n pend).foldl (fun (p : VX × Tbl Nat) batch =>
        let as := batch.map fun q => tab.place.addr q.2
        if as.any (fun a => a % (eb / 8) != 0) then (p.1.fail 0x08, p.2) else
        let (x, cs) := (p.1.breathe (eb / 8)).fetchBytes
          (distinct (as.flatMap fun a => (List.range (eb / 8)).map (a + ·)))
        (x, batch.foldl (fun t q => tset t q.1 (cellsNat cs (tab.place.addr q.2) (eb / 8))) p.2)) (x1.newSlice, [])
      { x2 with grain := 1 }.deliverAll false wd d ((List.range n).map fun i => (i, tget 0 vals i, 0)) }

/-- V.SCATTER (R139, R140). DESIGN CHOICE (log 43): the lane width is that of V.GATHER. -/
def planScatter (w : IWord) (k : Core) : VPlan :=
  let n := vN w
  let eb := elemBits w
  let wd := if eb = 32 then 64 else 128
  let ib := if vFn w % 2 = 1 then 32 else 16
  let ix := k.vOpnd w w.o2 0xB ib
  let a := k.vOpnd w w.o1 0 eb
  let tab := k.vOpnd w w.o0 0 eb
  let L := (k.desc (w.o0.toNat % 256)).counts.getD 0 0
  let oob := bitOf (vFn w) 3
  { fmtBad := a.narrowBad,
    shapeBad := vFn w / 2 % 4 == 3 || tableBad k w.o0 eb || ix.srcBad wd n || a.srcBad wd n,
    run := fun x =>
      let (x1, cols) := fetchIdx x n wd L oob [(ix, id), (a, id)]
      let vals := cols.getD 1 []
      let pend := ((cols.getD 0 []).zipIdx.filter fun p => decide (p.1 < L)).map fun p => (p.2, p.1)
      (tableBatches tab.place.addr n pend).foldl (fun x batch =>
        x.newSlice.put tab (batch.map fun q => (q.2, vals.getD q.1 0))) x1 }

/-! ### V.TOPK and V.SORT (R142 to R144) -/

/-- Key a comes no later than key b; equal keys keep the order of their element numbers. -/
def keyLe (asc : Bool) (a b : Val) : Bool :=
  if a.isNan then b.isNan
  else if b.isNan then true
  else if asc then decide (cmpVal a b ≤ 0) else decide (0 ≤ cmpVal a b)

/-- Positions of a segment in selection order. -/
def ranked (asc : Bool) (keys : List Val) : List Nat :=
  (sortBy (fun p q => keyLe asc p.1 q.1) keys.zipIdx).map (·.2)

def planTopk (w : IWord) (k : Core) : VPlan :=
  let n := vN w
  let wd := vWd (vCf w)
  let L := vLen w.o4
  let kk := fieldOf w.o5.toNat 8 0
  let r := n / L * kk
  let a := vSrc k w w.o1 (bitA w)
  let d := vSrc k w w.o0 (bitD w)
  let d2 := k.vOpnd w w.o2 0xB 32
  { fmtBad := narrowBad w (bitD w) (isDesc w.o0) || narrowBad w (bitA w) (isDesc w.o1) || bitB w,
    shapeBad := n % L != 0 || kk == 0 || decide (256 < kk) || decide (L < kk) || a.srcBad wd n || d.dstBad wd r ||
      d2.dstBad wd r,
    run := fun x =>
      let (x1, cols) := x.fetchWhole n wd [(a, id)]
      let raw := cols.getD 0 []
      let sel := (List.range (n / L)).flatMap fun s =>
        let seg := (raw.drop (s * L)).take L
        let keys := seg.map (decodeVal a.code)
        let f : Flags := if keys.any Val.isNan then fNanIn else 0
        ((ranked (vFn w % 2 == 1) keys).take kk).map fun j => (j, seg.getD j 0, f)
      let rs : List (VRes × VRes) := sel.zipIdx.map fun p =>
        ((p.2, vMove a.code d.code (vSat w) p.1.2.1, p.1.2.2), (p.2, p.1.1, 0))
      (((x1.andThen [(d2, 0, rs.length)]).deliverAll true wd d (rs.map (·.1))).andThen []).deliverAll true wd d2
        (rs.map (·.2)) }

def planSort (w : IWord) (k : Core) : VPlan :=
  let n := vN w
  let wd := vWd (vCf w)
  let m := vLen w.o5
  let a := vSrc k w w.o1 (bitA w)
  let d := vSrc k w w.o0 (bitD w)
  let d2 := k.vOpnd w w.o2 0xB 32
  let pay := bitOf (vFn w) 1
  let pl := if pay then k.vOpnd w w.o4 0xB 32 else vNone
  { fmtBad := narrowBad w (bitD w) (isDesc w.o0) || narrowBad w (bitA w) (isDesc w.o1) || bitB w,
    shapeBad := n % m != 0 || a.srcBad wd n || d.dstBad wd n || d2.dstBad wd n || pl.srcBad wd n,
    run := fun x =>
      let (x1, cols) := x.fetchWhole n wd [(a, id), (pl, id)]
      let sel := (List.range (n / m)).flatMap fun s =>
        let seg := ((cols.getD 0 []).drop (s * m)).take m
        let pls := ((cols.getD 1 []).drop (s * m)).take m
        let keys := seg.map (decodeVal a.code)
        let f : Flags := if keys.any Val.isNan then fNanIn else 0
        (ranked (vFn w % 2 == 1) keys).map fun j => (if pay then pls.getD j 0 else j, seg.getD j 0, f)
      let rs : List (VRes × VRes) := sel.zipIdx.map fun p =>
        ((p.2, vMove a.code d.code (vSat w) p.1.2.1, p.1.2.2), (p.2, p.1.1, 0))
      (((x1.andThen [(d2, 0, rs.length)]).deliverAll false wd d (rs.map (·.1))).andThen []).deliverAll false wd d2
        (rs.map (·.2)) }

/-! ### V.RAND (R145) -/

/-- One round of the generator. -/
def randRound (key : BitVec 64) (r : Nat) (x : BitVec 64) : BitVec 64 :=
  let y := (x ^^^ (key + BitVec.ofNat 64 r * 0x6C8E9CF5709623A1#64)) * 0xB5E17A3D9C42F06B#64
  y ^^^ (y >>> 29)

/-- Six rounds over the counter, and the top half of the result. -/
def randState (key x : BitVec 64) : BitVec 64 := (List.range 6).foldl (fun x r => randRound key r x) x
def randWord (key x : BitVec 64) : Nat := (randState key x >>> 32).toNat

def planRand (w : IWord) (k : Core) : VPlan :=
  let n := vN w
  let d := k.vOpnd w w.o0 0xB 32
  { fmtBad := false,
    shapeBad := decide (64 < 2 ^ fieldOf w.o1.toNat 2 0) || d.dstBad 64 n,
    run := fun x =>
      let r := fieldOf w.o1.toNat 13 10
      let ln (j : Nat) : Nat := regElem x.regs 32 r j
      let key := BitVec.ofNat 64 (ln 0 + ln 1 * 4294967296)
      x.deliverAll false 64 d ((List.range n).map fun i =>
        let v := randWord key (BitVec.ofNat 64 (ln 2 * 4294967296 + (ln 3 + i) % 4294967296))
        (i, if vFn w % 2 = 0 then v else (convert 0xA false (.num false (v / 256) (-24))).1, 0)) }

/-! ### Issue -/

/-- The plan of each opcode of Table 9.1. -/
def vPlan : VPlanner := fun op w k =>
  match op with
  | 0x40 => planArith 0 w k
  | 0x41 => planArith 1 w k
  | 0x42 => planArith 2 w k
  | 0x43 => planArith 3 w k
  | 0x44 => planArith 4 w k
  | 0x45 => planArith 5 w k
  | 0x46 => planCmp w k
  | 0x47 => planSelect w k
  | 0x48 => planCvt w k
  | 0x49 => planUnary 0 w k
  | 0x4A => planUnary 1 w k
  | 0x4B => planUnary 2 w k
  | 0x4C => planUnary 3 w k
  | 0x4D => planUnary 4 w k
  | 0x4E => planUnary 5 w k
  | 0x4F => planSum w k
  | 0x50 => planNorm w k
  | 0x51 => planRope w k
  | 0x52 => planGather w k
  | 0x53 => planScatter w k
  | 0x54 => planTopk w k
  | 0x55 => planSort w k
  | _ => planRand w k

def srcKinds : List SelKind := [.desc, .vreg, .lane]
def dstUse : SlotUse := .sel [.desc, .vreg]

/-- Layout of a V. instruction (Table 9.6): mask of the modifiers, mask of fn, uses of O0, O1, O2 and of O4 and O5, a
further reserved condition, and further descriptors that the instruction names. -/
structure VLayout where
  modMask : Nat
  fnMask : Nat
  u0 : SlotUse
  u1 : SlotUse
  u2 : SlotUse
  u45 : List SlotUse
  more : Bool
  extra : List (BitVec 16)

/-- Two sources, with an immediate in either place (R200). -/
def layoutBinary (fnMask : Nat) (w : IWord) : VLayout :=
  let imm := isImm w.o1 || isImm w.o2
  { modMask := 0xFF, fnMask := fnMask, u0 := dstUse, u1 := .sel (.imm :: srcKinds),
    u2 := .sel (if isImm w.o1 then srcKinds else .imm :: srcKinds), u45 := immUse imm,
    more := imm && fmtBits (vCf w) == 16 && fieldOf (wImm w).toNat 31 16 != 0, extra := [] }

/-- One source. -/
def layoutUnary : VLayout :=
  { modMask := 0xFF, fnMask := 0, u0 := dstUse, u1 := .sel srcKinds, u2 := .unused, u45 := [.unused, .unused],
    more := false, extra := [] }

/-- Three sources, none an immediate (R128). -/
def layoutTernary : VLayout :=
  { modMask := 0xFF, fnMask := 1, u0 := dstUse, u1 := .sel srcKinds, u2 := .sel srcKinds,
    u45 := [.sel srcKinds, .unused], more := false, extra := [] }

/-- The layout of each opcode. -/
def vLayout (op : Nat) (w : IWord) : VLayout :=
  let l := layoutUnary
  match op with
  | 0x40 | 0x41 | 0x42 | 0x44 | 0x45 => layoutBinary 0 w
  | 0x46 => layoutBinary 7 w
  | 0x43 | 0x47 => layoutTernary
  | 0x48 =>
    let blk := isBlockFmt (fieldOf w.o4.toNat 7 4) || isBlockFmt (fieldOf w.o4.toNat 3 0)
    { l with modMask := 0xC0, fnMask := 3, u2 := if blk then .sel [.desc] else .unused, u45 := [.num 255, .unused] }
  | 0x4F => { l with fnMask := 7, u2 := .num 4095 }
  | 0x50 =>
    let g := w.o2.toNat % 256
    { l with fnMask := 3, u2 := .sel [.desc], u45 := [.sel [.lane], .num 4095],
             extra := if vFn w = 1 ∧ g < 255 then [BitVec.ofNat 16 (g + 1)] else [] }
  | 0x51 => { l with fnMask := 1, u2 := .sel [.desc], u45 := [.sel [.vreg], .num 4095] }
  | 0x52 => { l with modMask := 0xC0, fnMask := 15, u1 := .sel [.desc], u2 := .sel srcKinds }
  | 0x53 => { l with modMask := 0xC0, fnMask := 15, u0 := .sel [.desc], u2 := .sel srcKinds }
  | 0x54 => { l with fnMask := 1, u2 := dstUse, u45 := [.num 4095, .num 511] }
  | 0x55 =>
    { l with fnMask := 3, u2 := dstUse,
             u45 := [if bitOf (vFn w) 1 then .sel srcKinds else .unused, .num 4095] }
  | 0x56 => { l with modMask := 0xC0, fnMask := 1, u1 := .sel [.vreg] }
  | _ => l

/-- Issue checks of a V. instruction, in the order of R173. -/
def vChecks (s : State) (c op : Nat) (w : IWord) (k : Core) : Bad :=
  let l := vLayout op w
  let uses := [l.u0, l.u1, l.u2, .num (l.fnMask * 4096 + 4095)] ++ l.u45
  let descs := ((uses.zip [w.o0, w.o1, w.o2, w.o3, w.o4, w.o5]).filterMap fun p =>
    match p.1 with | .sel _ => some p.2 | _ => none) ++ l.extra
  firstBad ([checkWord w l.modMask uses l.more] ++ descs.map (fun v => s.checkDesc c k v [0]) ++
    [badIf (vPlan op w k).fmtBad 0x05, badIf (vPlan op w k).shapeBad 0x08])

/-- The registers that an instruction writes, none listed where it also writes the scratchpad, and those that it names. -/
def vRegs (op : Nat) (w : IWord) : List Nat × List Nat :=
  let l := vLayout op w
  let isReg (v : BitVec 16) : Bool := selKind v.toNat == .vreg || selKind v.toNat == .lane
  let num (v : BitVec 16) : Nat := fieldOf v.toNat 13 10
  let ds := if op = 0x54 ∨ op = 0x55 then [w.o0, w.o2] else [w.o0]
  let all := (([l.u0, l.u1, l.u2] ++ l.u45).zip [w.o0, w.o1, w.o2, w.o4, w.o5]).filterMap fun p =>
    match p.1 with | .sel _ => (if isReg p.2 then some (num p.2) else none) | _ => none
  (if ds.all isReg then distinct (ds.map num) else [], distinct all)

/-- Present a V. instruction. -/
def vPresent (c op : Nat) (w : IWord) (s : State) : State :=
  s.present c op w (vChecks s c op w) Core.vAccepts (vIssue vPlan c op w (vRegs op w))

def xVAdd (c : Nat) (w : IWord) (s : State) : State := vPresent c 0x40 w s
def xVSub (c : Nat) (w : IWord) (s : State) : State := vPresent c 0x41 w s
def xVMul (c : Nat) (w : IWord) (s : State) : State := vPresent c 0x42 w s
def xVFma (c : Nat) (w : IWord) (s : State) : State := vPresent c 0x43 w s
def xVMax (c : Nat) (w : IWord) (s : State) : State := vPresent c 0x44 w s
def xVMin (c : Nat) (w : IWord) (s : State) : State := vPresent c 0x45 w s
def xVCmp (c : Nat) (w : IWord) (s : State) : State := vPresent c 0x46 w s
def xVSelect (c : Nat) (w : IWord) (s : State) : State := vPresent c 0x47 w s
def xVCvt (c : Nat) (w : IWord) (s : State) : State := vPresent c 0x48 w s
def xVExp2 (c : Nat) (w : IWord) (s : State) : State := vPresent c 0x49 w s
def xVLog2 (c : Nat) (w : IWord) (s : State) : State := vPresent c 0x4A w s
def xVRcp (c : Nat) (w : IWord) (s : State) : State := vPresent c 0x4B w s
def xVRsqrt (c : Nat) (w : IWord) (s : State) : State := vPresent c 0x4C w s
def xVTanh (c : Nat) (w : IWord) (s : State) : State := vPresent c 0x4D w s
def xVSigm (c : Nat) (w : IWord) (s : State) : State := vPresent c 0x4E w s
def xVSum (c : Nat) (w : IWord) (s : State) : State := vPresent c 0x4F w s
def xVNorm (c : Nat) (w : IWord) (s : State) : State := vPresent c 0x50 w s
def xVRope (c : Nat) (w : IWord) (s : State) : State := vPresent c 0x51 w s
def xVGather (c : Nat) (w : IWord) (s : State) : State := vPresent c 0x52 w s
def xVScatter (c : Nat) (w : IWord) (s : State) : State := vPresent c 0x53 w s
def xVTopk (c : Nat) (w : IWord) (s : State) : State := vPresent c 0x54 w s
def xVSort (c : Nat) (w : IWord) (s : State) : State := vPresent c 0x55 w s
def xVRand (c : Nat) (w : IWord) (s : State) : State := vPresent c 0x56 w s
def xVectorCompletion (c : Nat) (s : State) : State := vComplete vPlan c s

def execVAdd (c : CoreId) (w : IWord) (s : State) : Out := .next (xVAdd c w s)
def execVSub (c : CoreId) (w : IWord) (s : State) : Out := .next (xVSub c w s)
def execVMul (c : CoreId) (w : IWord) (s : State) : Out := .next (xVMul c w s)
def execVFma (c : CoreId) (w : IWord) (s : State) : Out := .next (xVFma c w s)
def execVMax (c : CoreId) (w : IWord) (s : State) : Out := .next (xVMax c w s)
def execVMin (c : CoreId) (w : IWord) (s : State) : Out := .next (xVMin c w s)
def execVCmp (c : CoreId) (w : IWord) (s : State) : Out := .next (xVCmp c w s)
def execVSelect (c : CoreId) (w : IWord) (s : State) : Out := .next (xVSelect c w s)
def execVCvt (c : CoreId) (w : IWord) (s : State) : Out := .next (xVCvt c w s)
def execVExp2 (c : CoreId) (w : IWord) (s : State) : Out := .next (xVExp2 c w s)
def execVLog2 (c : CoreId) (w : IWord) (s : State) : Out := .next (xVLog2 c w s)
def execVRcp (c : CoreId) (w : IWord) (s : State) : Out := .next (xVRcp c w s)
def execVRsqrt (c : CoreId) (w : IWord) (s : State) : Out := .next (xVRsqrt c w s)
def execVTanh (c : CoreId) (w : IWord) (s : State) : Out := .next (xVTanh c w s)
def execVSigm (c : CoreId) (w : IWord) (s : State) : Out := .next (xVSigm c w s)
def execVSum (c : CoreId) (w : IWord) (s : State) : Out := .next (xVSum c w s)
def execVNorm (c : CoreId) (w : IWord) (s : State) : Out := .next (xVNorm c w s)
def execVRope (c : CoreId) (w : IWord) (s : State) : Out := .next (xVRope c w s)
def execVGather (c : CoreId) (w : IWord) (s : State) : Out := .next (xVGather c w s)
def execVScatter (c : CoreId) (w : IWord) (s : State) : Out := .next (xVScatter c w s)
def execVTopk (c : CoreId) (w : IWord) (s : State) : Out := .next (xVTopk c w s)
def execVSort (c : CoreId) (w : IWord) (s : State) : Out := .next (xVSort c w s)
def execVRand (c : CoreId) (w : IWord) (s : State) : Out := .next (xVRand c w s)
def execVectorCompletion (c : CoreId) (s : State) : Out := .next (xVectorCompletion c s)

end Sys2Proof.Machine
end

