-- ==== Sys2Proof/Machine/Message.lean ====
section
/-! DEFINITION. The message engine and the arrival of mesh packets (09: R208 to R213; 11: R246 to R254). -/

namespace Sys2Proof.Machine

/-! ### Shape of a message (Table 9.9, R209, R291) -/

/-- Axis line of an instruction: on the die or along a line of the fabric. -/
structure Axis where
  remote : Bool
  column : Bool
  deriving DecidableEq, Repr, Inhabited

def Axis.width (a : Axis) : Nat := if a.remote then 32 else if a.column then 10 else 16

/-- Position of a core (die) or of its module (line) along the axis. -/
def Axis.posOf (a : Axis) (g : BitVec 18) : Nat :=
  let m := g.toNat / 256
  let c := g.toNat % 256
  if a.remote then (if a.column then m / 32 else m % 32) else (if a.column then coreY c else coreX c)

/-- Two cores, or their modules, share the axis line. -/
def Axis.sameLine (a : Axis) (g h : BitVec 18) : Bool :=
  if a.remote then
    if a.column then g.toNat / 256 % 32 == h.toNat / 256 % 32 else g.toNat / 8192 == h.toNat / 8192
  else g.toNat / 256 == h.toNat / 256 &&
    (if a.column then coreX (g.toNat % 256) == coreX (h.toNat % 256) else coreY (g.toNat % 256) == coreY (h.toNat % 256))

/-- Global address of position k of `me`'s line; `core` is the core index at a remote member. -/
def Axis.at (a : Axis) (me : BitVec 18) (core k : Nat) : BitVec 18 :=
  let m := me.toNat / 256
  let c := me.toNat % 256
  if a.remote then BitVec.ofNat 18 ((if a.column then k * 32 + m % 32 else m / 32 * 32 + k) * 256 + core)
  else BitVec.ofNat 18 (m * 256 + (if a.column then k * 16 + coreX c else coreY c * 16 + k))

/-- Masked positions in ascending order, within the axis. -/
def Axis.positions (a : Axis) (mask : BitVec 32) : List Nat := (List.range a.width).filter fun k => mask.getLsbD k

def xLen (w : IWord) : Nat := 16 * (fieldOf w.o3.toNat 7 0 + 1)
def xRcc (w : IWord) : BitVec 4 := BitVec.ofNat 4 (fieldOf w.o2.toNat 3 0)
def xSlot (w : IWord) : Nat := fieldOf w.o2.toNat 15 4
def xRemote (k : Core) (w : IWord) : Bool := (k.desc (w.o1.toNat % 256)).end_ == 4
def xAxis (k : Core) (w : IWord) : Axis := { remote := xRemote k w, column := wMod w 0 0 == 1 }
def isReduce (op : Nat) : Bool := op == 0x82 || op == 0x83

/-- A member of the line: an enabled core allocated to the task, or a member module of it. -/
def State.memberOk (s : State) (c : Nat) (a : Axis) (k core : Nat) : Bool :=
  let t := s.taskOf c
  let g := (a.at (s.globalAddr c) core k).toNat
  if a.remote then
    (match t with | some t => t.members.contains (BitVec.ofNat 10 (g / 256)) | none => false) || g / 256 == s.modAddr
  else s.dieOk t (g % 256)

/-- Grade check of a core index on a module of the task, the own one included. -/
def State.coreOn (s : State) (c g : Nat) : Bool :=
  if g / 256 = s.modAddr then s.enabled (g % 256) else s.remOk (s.taskOf c) g

/-- Step 4 of R173 for the destination, root or sending end (R180, R208). -/
def xDescBad (s : State) (c op : Nat) (w : IWord) (k : Core) : Bad :=
  let d := k.desc (w.o1.toNat % 256)
  let t := s.taskOf c
  let bad :=
    if op = 0x80 then d.bad [3, 4] (s.dieOk t) (s.remOk t)
    else if op = 0x81 then
      d.bad [3, 4] (fun x => x == c) (fun g => g / 256 == s.modAddr && decide (g % 256 < 160))
    else d.bad [3, 4] (s.dieOk t) (s.coreOn c)
  badIf bad 0x02 (BitVec.ofNat 64 (w.o1.toNat % 256))

/-- The member checks of R209: 0x02, over the mask bits within the axis. -/
def xMemberBad (s : State) (c op : Nat) (w : IWord) (k : Core) : Bad :=
  let a := xAxis k w
  let core := (k.endOf (k.desc (w.o1.toNat % 256))).core % 256
  badIf (op != 0x80 && (a.positions (wImm w)).any fun p =>
    !s.memberOk c a p core || (op == 0x81 && a.remote && !s.coreOn c (a.at (s.globalAddr c) core p).toNat)) 0x02
    (BitVec.ofNat 64 (w.o1.toNat % 256))

/-- The message engine's own checks: 0x45 with the failing slot (R209, Table 9.11). -/
def xShapeBad (s : State) (c op : Nat) (w : IWord) (k : Core) : Bad :=
  let a := xAxis k w
  let n := xLen w
  let mask := wImm w
  let me := s.globalAddr c
  let own := a.posOf me
  let e := k.endOf (k.desc (w.o1.toNat % 256))
  let root : BitVec 18 := if a.remote then BitVec.ofNat 18 e.core else s.globalAddr (e.core % 256)
  let sh (b : Bool) (slot : Nat) : Bad := badIf b 0x45 (BitVec.ofNat 64 slot)
  firstBad
    [ sh (if a.remote then n % 64 != 0 else decide (512 < n)) 3,
      sh (op != 0x80 && mask.toNat / 2 ^ a.width != 0) 4,
      sh (isReduce op && (wMod w 2 1 == 3 || wMod w 4 3 == 3)) 6,
      sh (op != 0x80 && !mask.getLsbD own) 4,
      sh (isReduce op && !(a.sameLine me root && mask.getLsbD (a.posOf root))) 4 ]

/-- Entries of the link schedule that the instruction's own messages use at issue (R209, R291). -/
def xEntryBad (s : State) (c op : Nat) (w : IWord) (k : Core) : Bad :=
  if !xRemote k w then none else
  let a := xAxis k w
  let me := s.globalAddr c
  let e := k.endOf (k.desc (w.o1.toNat % 256))
  let count :=
    if op = 0x81 then ((a.positions (wImm w)).filter (· != a.posOf me)).length
    else if isReduce op && e.core / 256 == s.modAddr then 0 else 1
  match (List.range count).find? fun j => (s.entryOk c (xSlot w + j) (flitsOf (xLen w))).isNone with
  | some j => some (0x42, BitVec.ofNat 64 (xSlot w + j))
  | none => none

/-! ### Sending -/

def Core.addXq (k : Core) (t : Tag) (out : List (Nat × HeadInfo)) : Core := { k with xq := k.xq ++ [{ tag := t, out := out }] }

/-- Send `d` as a message of a kind to one core, over the mesh or on a link schedule entry; what a link bank holds. A copy
of a multicast on the die carries its axis and mask `mc`. -/
def sendOne (s : State) (c : Nat) (kind : BitVec 4) (g : BitVec 18) (addr : BitVec 32) (rcc : BitVec 4) (d : List Byte)
    (entry : Nat) (u lag : Nat) (pc : BitVec 32) (ord : Nat) (mc : Option (Bool × BitVec 16)) : Except Nat (State × List (Nat × HeadInfo)) :=
  let q := (s.core c).nextSeq g
  let note (s : State) (deadline : Nat) : State :=
    s.updCore c fun k =>
      { (k.takeSeq g) with sent := k.sent ++ [{ dest := g, seq := q, pc := pc, deadline := deadline, ord := ord }] }
  if g.toNat / 256 = s.modAddr then
    .ok ((note s (u + lag)).toMesh
      { kind := kind, banner := s.coreBanner c, source := s.globalAddr c, dest := g.toNat % 256, seq := q, rcc := rcc, part := 0,
        parts := 0, address := addr, payload := d, atom := none, len := 0, back := 0, reason := 0, deadline := u + lag,
        fromLink := false, mcast := mc }, [])
  else
    match s.entryOk c entry (flitsOf d.length) with
    | none => .error entry
    | some en =>
      let two := en.twoHops && kind == 0 && mc.isNone   -- a copy of a cast or a contribution makes one hop (R291)
      let h : HeadInfo :=
        { kind := kind, banner := s.coreBanner c, source := s.globalAddr c, sequence := q, rcc := rcc,
          dest := BitVec.ofNat 8 (g.toNat % 256), slot := BitVec.ofNat 12 entry, address := addr,
          deadline := u + (if two = true ∨ lag = 4 then 4 else 2), flits := flitsOf d.length,
          destMod := BitVec.ofNat 10 (g.toNat / 256), twoHops := two, forwarded := false }
      .ok ((note s h.deadline).toLink en.link en.offset h d, [(en.link, h)])

/-- Send to several cores; the j-th remote one uses entry e + j (R291). -/
def sendAll (s : State) (c : Nat) (kind : BitVec 4) (addr : BitVec 32) (d : List Byte) (entry u lag : Nat) (pc : BitVec 32)
    (ord : Nat) (mc : Option (Bool × BitVec 16)) : List (Nat × BitVec 18 × BitVec 4) → Except Nat (State × List (Nat × HeadInfo))
  | [] => .ok (s, [])
  | (j, g, rcc) :: l =>
    match sendOne s c kind g addr rcc d (entry + j) u lag pc ord mc with
    | .error e => .error e
    | .ok (s1, o1) =>
      match sendAll s1 c kind addr d entry u lag pc ord mc l with
      | .error e => .error e
      | .ok (s2, o2) => .ok (s2, o1 ++ o2)

/-! ### Contributions at the root (R211, R254) -/

/-- Compute format of a reduction. -/
def redFmt (r : RedShape) : Nat := match r.fmt.toNat with | 0 => 0xA | 1 => 0x8 | _ => 0xB
def redKind (r : RedShape) : Nat := match r.op.toNat with | 0 => 0 | 1 => 4 | _ => 5

/-- Combine two byte strings element by element, each result rounded, every NaN canonical. -/
def redBytes (fmt kind : Nat) : Nat → List Byte → List Byte → List Byte
  | 0, _, _ => []
  | n + 1, x, y =>
    let b := fmtBits fmt / 8
    let v := (vCompute kind fmt false (decodeVal fmt (leNat (x.take b))) (decodeVal fmt (leNat (y.take b))) Val.zero).1
    leBytes b (roundTo fmt v).1 ++ redBytes fmt kind n (x.drop b) (y.drop b)

def redCombine (r : RedShape) (x y : List Byte) : List Byte :=
  redBytes (redFmt r) (redKind r) (x.length / (fmtBits (redFmt r) / 8)) x y

def RootRed.axis (r : RootRed) : Axis := { remote := r.remote, column := r.shape.axis }

/-- Where the contribution from position p lands. -/
def RootRed.landing (r : RootRed) (p : Nat) : BitVec 32 :=
  if r.shape.arrival then r.dst else r.dst + BitVec.ofNat 32 ((p + 1) * r.len)

/-- The contribution belongs to this reduction. -/
def RootRed.takes (r : RootRed) (p : Packet) : Bool :=
  let pos := r.axis.posOf p.source
  r.mask.getLsbD pos && !(r.arrived.any fun q => q.1 == pos) &&
  p.address - BitVec.ofNat 32 (512 * p.part) == r.landing pos && p.parts + 1 == ceilDiv r.len 512

/-- A part of a message is written: the parts so far, and whether all are there (R247, R253). -/
def Core.partDone (k : Core) (p : Packet) : Core × Bool :=
  if p.parts = 0 then (k, true) else
  let have_ := match k.rxParts.find? (fun x => x.1 == p.source && x.2.1 == p.seq) with | some x => x.2.2 | none => []
  let now := insNat p.part have_
  let rest := k.rxParts.filter fun x => !(x.1 == p.source && x.2.1 == p.seq)
  if p.parts + 1 ≤ now.length then ({ k with rxParts := rest }, true)
  else ({ k with rxParts := (p.source, p.seq, now) :: rest }, false)

/-- An uncorrectable word met by an inbound access (Table 3.4): a core that runs a task halts; otherwise the access is
refused and its sender halts with 0x60. -/
def State.inUe (s : State) (p : Packet) (k : Core) (aux : BitVec 64) : State :=
  let s1 := s.setCore p.dest k
  if k.runsTask then s1.haltAtHead p.dest 0x60 aux
  else (s1.setCore p.dest { k with eccUe := true, eccUeScrub := false, eccAddr := aux.setWidth 32 }).reply p 7 0x60 []

/-- The root reads `n` bytes at each of the addresses for a reduction, and every read checks its words: the core with the
corrections counted, and the first uncorrectable word (R64, R65). -/
def Core.redCheck (k : Core) (n : Nat) (l : List Nat) : Core × Option Nat :=
  l.foldl (fun x a => match x.2 with | some _ => x | none => x.1.checkWords a n) (k, none)

/-- The root's own read for reduction `r` meets an uncorrectable word: it halts (Table 3.4). -/
def State.redUe (s : State) (c : Nat) (k : Core) (r : RootRed) (w : Nat) : State :=
  (s.setCore c k).haltCore c 0x60 r.pc (.of .message) (BitVec.ofNat 64 (w * 8))

/-- A contribution that belongs to reduction `r` is staged, or combined as it lands. -/
def contribute (s : State) (r : RootRed) (p : Packet) : State :=
  let c := p.dest
  let pos := r.axis.posOf p.source
  let first := !r.started.contains p.part
  let again := r.shape.arrival && !first
  let (k, bad) := (s.core c).redCheck p.payload.length (if again then [p.address.toNat] else [])
  match bad with
  | some w => s.redUe c k r w
  | none =>
  let data := if again then redCombine r.shape (memRead k.mem p.address.toNat p.payload.length) p.payload else p.payload
  match k.inWrite p.banner p.address.toNat data with
  | .ue k1 aux => s.inUe p k1 aux
  | .refuse k1 reason =>
    let s := s.setCore c k1
    if r.shape.arrival then
      s.haltCore c reason r.pc (.of .message) (BitVec.ofNat 64 (s.globalAddr c).toNat)
    else s.reply p 7 reason []
  | .ok k1 _ =>
    let (k2, all) := k1.partDone p
    let r1 : RootRed := { r with started := insNat p.part r.started,
                                 arrived := if all then tset r.arrived pos (p.rcc, p.source.toNat % 256) else r.arrived }
    s.setCore c { k2 with reds := updFirst (fun x => x == r) (fun _ => r1) k2.reds }

/-- A contribution arrives: to its reduction, or held until the root's own instruction issues (log 16). -/
def State.contrib (s : State) (p : Packet) : State :=
  match (s.core p.dest).reds.find? (fun r => r.takes p) with
  | some r => contribute s r p
  | none => s.updCore p.dest fun k => { k with redIn := k.redIn ++ [p] }

/-! ### Beginning an instruction -/

/-- Outcome of beginning a message instruction. -/
inductive XBegin where
  | done (s : State)
  | wait (s : State) (x : XWait) (slot : Nat)
  | full
  | bad (s : State) (reason : BitVec 8) (aux : BitVec 64)

/-- Begin X.SEND, X.CAST, X.REDUCE or X.REDUCEA: read the source and send (R209 to R211). DESIGN CHOICE (log 41): the
bounds of R70 are those of the whole source, so that one which spans two regions halts with 0x10. -/
def beginMsg (s : State) (c : Nat) (x : XWait) : XBegin :=
  let k := s.core c
  let kc := { k with k := x.k }
  let w := x.word
  let n := xLen w
  let src := kc.baseOf w.o0
  match k.check (s.coreBanner c) .streamR src n with
  | .error r => .bad s r 0
  | .ok _ =>
  match readBeats k (s.coreBanner c) src n (n / 64 + 1) x.got with
  | (got, .wait k1 slot) =>
    .wait (s.setCore c (if got.length = x.got.length then k1 else k1.served .message x.tag.ord 0)) { x with got := got } slot
  | (_, .bad k1 r aux) => .bad (s.setCore c k1) r aux
  | (_, .done k1 d) =>
    let s1 := s.setCore c (k1.served .message x.tag.ord 0)
    let a := xAxis kc w
    let me := s.globalAddr c
    let e := kc.endOf (kc.desc (w.o1.toNat % 256))
    let dst := BitVec.ofNat 32 e.base
    let far : BitVec 18 := if a.remote then BitVec.ofNat 18 e.core else s.globalAddr (e.core % 256)
    let rcc := xRcc w
    let res : Except Nat (State × List (Nat × HeadInfo)) :=
      if x.op = 0x80 then sendAll s1 c 0 dst d (xSlot w) x.issued 1 x.tag.pc x.tag.ord none [(0, far, rcc)]
      else if x.op = 0x81 then
        sendAll s1 c 0 dst d (xSlot w) x.issued 1 x.tag.pc x.tag.ord (some (a.column, (wImm w).setWidth 16))
          (((a.positions (wImm w)).filter (· != a.posOf me)).zipIdx.map fun p =>
            (p.2, a.at me (e.core % 256) p.1, rcc))
      else
        let arrival := x.op == 0x83
        let pos := a.posOf me
        let addr := if arrival then dst else dst + BitVec.ofNat 32 ((pos + 1) * n)
        let s2 :=
          if far = me then
            s1.updCore c fun k => { k with reds := k.reds ++
              [{ shape := { axis := a.column, op := BitVec.ofNat 2 (wMod w 2 1), fmt := BitVec.ofNat 2 (wMod w 4 3),
                            all := wMod w 5 5 == 1, arrival := arrival },
                 dst := dst, len := n, rcc := rcc, mask := wImm w, slot := BitVec.ofNat 12 (xSlot w), remote := a.remote,
                 arrived := [], started := [], pc := x.tag.pc, issued := x.issued, ord := x.tag.ord }] }
          else s1
        let toSelf := a.remote && decide (far.toNat / 256 = s.modAddr)
        match (if toSelf && decide (512 < n) then
            -- the root's own contribution to a line reduction, cut as a link bank cuts a message
            let g := far
            let q := (s2.core c).nextSeq g
            -- the number is entered in the core's own window, as a link bank does with those it has checked
            let win (k : Core) : Core :=
              match winCheck (tget { low := 0, seen := [] } k.rxWin (g.toNat % 256)) q.toNat with
              | .fresh w => { k with rxWin := tset k.rxWin (g.toNat % 256) w }
              | _ => k
            .ok ((chunks 512 9 d).zipIdx.foldl (fun s p => s.toMesh
                { kind := 1, banner := s.coreBanner c, source := me, dest := g.toNat % 256, seq := q, rcc := rcc, part := p.2,
                  parts := ceilDiv n 512 - 1, address := addr + BitVec.ofNat 32 (512 * p.2), payload := p.1, atom := none,
                  len := 0, back := 0, reason := 0, deadline := x.issued + 4, fromLink := true })
                (s2.updCore c fun k => { (win (k.takeSeq g)) with
                  sent := k.sent ++ [{ dest := g, seq := q, pc := x.tag.pc, deadline := x.issued + 4, ord := x.tag.ord }] }), [])
          else sendOne s2 c 1 far addr rcc d (xSlot w) x.issued (if a.remote then 4 else 2) x.tag.pc x.tag.ord none) with
        | .error e => .error e
        | .ok (s3, out) =>
          let held := (s3.core c).redIn
          let s4 := if far = me then
              held.foldl (fun s p => s.contrib p) (s3.updCore c fun k => { k with redIn := [] })
            else s3
          .ok (s4, out)
    match res with
    | .error entry => .bad s1 0x42 (BitVec.ofNat 64 entry)
    | .ok (s2, out) => .done (s2.updCore c fun k => k.addXq x.tag out)

/-- Treads from its issue within which a message instruction's messages must be usable (R210, R211). -/
def XWait.lag (s : State) (c : Nat) (x : XWait) : Nat :=
  let kc := { s.core c with k := x.k }
  if !xRemote kc x.word then (if isReduce x.op then 2 else 1)
  else if isReduce x.op then 4
  else match (s.taskOf c).bind fun t => t.links[xSlot x.word]? with
    | some e => if e.twoHops then 4 else 2
    | none => 2

/-- The receiver that a waiting message instruction misses first: its far core, or the lowest other position of a cast. -/
def XWait.first (s : State) (c : Nat) (x : XWait) : BitVec 18 :=
  let kc := { s.core c with k := x.k }
  let a := xAxis kc x.word
  let me := s.globalAddr c
  let e := kc.endOf (kc.desc (x.word.o1.toNat % 256))
  let far : BitVec 18 := if a.remote then BitVec.ofNat 18 e.core else s.globalAddr (e.core % 256)
  if x.op = 0x81 then
    match (a.positions (wImm x.word)).find? (· != a.posOf me) with
    | some p => a.at me (e.core % 256) p
    | none => far
  else far

/-- Counter value and tread that an X.EXPECT names. -/
def expectCount (k : Core) (w : IWord) : BitVec 32 := BitVec.ofNat 32 (constOrImm k w w.o1)
def expectTread (k : Core) (w : IWord) : Nat := constOrImm k w w.o2

def beginX (s : State) (c : Nat) (x : XWait) : XBegin :=
  if x.op = 0x84 then
    let k := s.core c
    let kc := { k with k := x.k }
    if 8 ≤ k.expects.length then .full
    else .done (s.setCore c { k with expects := k.expects ++
      [{ tag := x.tag, cc := BitVec.ofNat 4 x.word.o0.toNat, count := expectCount kc x.word, tread := expectTread kc x.word }] })
  else beginMsg s c x

/-- Begin waiting instructions in issue order. -/
def xKick (c : Nat) : Nat → State → State
  | 0, s => s
  | fuel + 1, s =>
    match (s.core c).xwait with
    | [] => s
    | x :: rest =>
      match beginX (s.updCore c fun k => { k with xwait := rest }) c x with
      | .done s1 => xKick c fuel s1
      | .wait s1 x1 slot => (s1.updCore c fun k => { k with xwait := x1 :: rest }).refused c slot false x.tag 0 .message
      | .full => s
      | .bad s1 r aux => s1.haltCore c r x.tag.pc (.of .message) aux

/-- Issue of an X. instruction (Table 8.2, R212). -/
def xIssue (c op : Nat) (w : IWord) (s : State) (t : Tag) : State :=
  let k := s.core c
  let x : XWait := { tag := t, op := op, word := w, k := k.k, issued := s.clk.treadCount, got := [] }
  let s1 := (s.setCore c { k with xwait := k.xwait ++ [x] }).stepPc c
  if k.xwait.isEmpty then xKick c 1 s1 else s1

/-- The checks of a message instruction in the order of R173 (R208, R209). -/
def xChecks (s : State) (c op : Nat) (w : IWord) (modMask : Nat) (k : Core) : Bad :=
  firstBad
    [ checkWord w modMask
        ([.sel [.desc], .sel [.desc], .num (if xRemote k w then 0xFFFF else 0xF), .num 0xFF] ++
          (if op = 0x80 then [.unused, .unused] else [.half, .half])),
      s.checkDesc c k w.o0 [0], xDescBad s c op w k, xMemberBad s c op w k, xEntryBad s c op w k, xShapeBad s c op w k ]

def xPresent (c op : Nat) (w : IWord) (modMask : Nat) (s : State) : State :=
  s.present c op w (xChecks s c op w modMask) (fun k => decide (k.xwait.length < 4))
    (xIssue c op w)

def xXSend (c : Nat) (w : IWord) (s : State) : State := xPresent c 0x80 w 0 s
def xXCast (c : Nat) (w : IWord) (s : State) : State := xPresent c 0x81 w 0x01 s
def xXReduce (c : Nat) (w : IWord) (s : State) : State := xPresent c 0x82 w 0x3F s
def xXReducea (c : Nat) (w : IWord) (s : State) : State := xPresent c 0x83 w 0x3F s

/-- The checks of X.EXPECT (R212). -/
def expectChecks (s : State) (c : Nat) (w : IWord) (k : Core) : Bad :=
  firstBad
    [ checkWord w 0 ([.num 15, .sel [.konst, .imm], .sel [.konst, .imm], .unused] ++ immUse (isImm w.o1 || isImm w.o2)),
      badIf (isImm w.o1 && isImm w.o2) 0x45 2,
      badIf (decide (expectTread k w < s.treadOf c)) 0x45 2 ]

/-- X.EXPECT (R212). -/
def xXExpect (c : Nat) (w : IWord) (s : State) : State :=
  s.present c 0x84 w (expectChecks s c w) (fun k => decide (k.xwait.length < 4))
    (xIssue c 0x84 w)

/-- MESSAGE_COMPLETION: the oldest message completes once the router, or the link bank's replay buffer, has all of it
(R210); then instructions that wait are presented. -/
def xMessageCompletion (c : Nat) (s : State) : State :=
  let k := s.core c
  if !k.engineOn then s else
  match k.xq with
  | x :: rest =>
    if x.out.any fun o => (s.link o.1).txQ.any fun t => t.head == o.2 then s
    else xKick c 4 ((s.setCore c { k with xq := rest }).signal c x.tag .message)
  | [] => xKick c 4 s

/-! ### Combining at the root -/

/-- Positions whose contributions must arrive. -/
def RootRed.members (r : RootRed) : List Nat := r.axis.positions r.mask
def RootRed.ready (r : RootRed) : Bool := r.members.all fun p => r.arrived.any fun q => q.1 == p

/-- The staged contributions in ascending order, combined. -/
def redResult (k : Core) (r : RootRed) : List Byte :=
  match r.members.map fun p => memRead k.mem (r.landing p).toNat r.len with
  | [] => []
  | x :: l => l.foldl (redCombine r.shape) x

/-- REDUCTION_COMBINE (R211, R254). -/
def xReductionCombine (c : Nat) (s : State) : State :=
  let k := s.core c
  if !k.engineOn then s else
  match k.reds.find? (·.ready) with
  | none => s
  | some r =>
    let me := s.globalAddr c
    let s0 := s.setCore c { k with reds := remFirst (fun x => x == r) k.reds }
    let (k0, bad) := (s0.core c).redCheck r.len
      (if r.shape.arrival then (if r.shape.all then [r.dst.toNat] else []) else r.members.map fun p => (r.landing p).toNat)
    match bad with
    | some w => s0.redUe c k0 r w
    | none =>
    let res := if r.shape.arrival then memRead k0.mem r.dst.toNat r.len else redResult k0 r
    match (if r.shape.arrival then Inb.ok k0 [] else k0.inWrite (s.coreBanner c) r.dst.toNat res) with
    | .ue k1 aux => (s0.setCore c k1).haltCore c 0x60 r.pc (.of .message) aux
    | .refuse k1 reason => (s0.setCore c k1).haltCore c reason r.pc (.of .message) (BitVec.ofNat 64 me.toNat)
    | .ok k1 _ =>
      let s1 := (s0.setCore c k1).countArrival c r.rcc
      if !r.shape.all || (s1.core c).st == .halted then s1 else
      let own := r.axis.posOf me
      let others := ((r.members.filter (· != own)).zipIdx).map fun p =>
        let m := tget (0, 0) r.arrived p.1
        (p.2, r.axis.at me m.2 p.1, m.1)
      match sendAll s1 c 2 r.dst res r.slot.toNat r.issued (if r.remote then 4 else 2) r.pc r.ord (some (r.shape.axis, r.mask.setWidth 16)) others with
      | .ok (s2, _) => s2
      | .error entry => s1.haltCore c 0x42 r.pc (.of .message) (BitVec.ofNat 64 entry)

/-! ### Arrival -/

/-- A get's data arrives at the requester (R155). -/
def getArrive (s : State) (p : Packet) : State :=
  let c := p.dest
  let k := s.core c
  let a := p.address.toNat
  let size (e : Elem) : Nat := match k.sq.find? (fun i => i.tag.ord == e.ord) with | some i => i.esz | none => 0
  let mine (e : Elem) : Bool :=
    e.stage == .awaitData && e.wait == [p.seq] && decide (e.dst ≤ a) && decide (a < e.dst + size e)
  let f (e : Elem) : Elem :=
    let parts : Tbl (List Byte) := tset e.parts (a - e.dst) p.payload
    let data : List Byte := parts.flatMap (fun q => q.2)
    if data.length == size e then { e with parts := [], data := data, stage := .dataHere } else { e with parts := parts }
  s.setCore c { k with elems := updFirst mine f k.elems }

/-- A put, message, reduction result or contribution that its window accepts. -/
def arrive (s : State) (p : Packet) : State :=
  let c := p.dest
  let k := s.core c
  if p.kind = 1 then s.contrib p else
  match p.atom with
  | some fp =>
    match k.inAtom p.banner p.address.toNat p.payload fp with
    | .ue k1 aux => s.inUe p k1 aux
    | .refuse k1 r => (s.setCore c k1).reply p 7 r []
    | .ok k1 _ =>
      let (k2, all) := k1.partDone p
      if all then (s.setCore c k2).reply p 6 0 [] else s.setCore c k2
  | none =>
    match k.inWrite p.banner p.address.toNat p.payload with
    | .ue k1 aux => s.inUe p k1 aux
    | .refuse k1 r => (s.setCore c k1).reply p 7 r []
    | .ok k1 _ =>
      let (k2, all) := k1.partDone p
      let s1 := s.setCore c k2
      if !all then s1
      else if p.kind = 3 then s1.reply p 6 0 []
      else s1.countArrival c p.rcc

/-- Global address of the far core of a transfer. -/
def farGlobal (s : State) (e : StreamEnd) : BitVec 18 :=
  if e.kind = .remote then BitVec.ofNat 18 e.core else s.globalAddr (e.core % 256)

/-- The entry of a halted core's get frees when its data has been dropped at the source (Table 7.8). -/
def State.dropGet (s : State) (c : Nat) (src : BitVec 18) (seq : BitVec 16) : State :=
  let k := s.core c
  if k.st ≠ .halted then s else
  match k.elems.find? fun e => e.stage == .awaitData && e.wait == [seq] && k.sq.any fun i => i.tag.ord == e.ord && farGlobal s i.src == src with
  | none => s
  | some e =>
    let elems := remFirst (fun x => x.ord == e.ord && x.elem == e.elem) k.elems
    s.setCore c { k with elems := elems, sq := if elems.any (fun x => x.ord == e.ord) then k.sq else remFirst (fun x => x.tag.ord == e.ord) k.sq }

/-- A packet reaches its receiver (R71, R78, R247, R252, R253). What reaches a halted core is discarded (R162). -/
def receive (s : State) (p : Packet) : State :=
  let c := p.dest
  let k := s.core c
  if 0xD ≤ p.kind.toNat then s.discardPacket
  else if 8 ≤ p.kind.toNat then s
  else if p.kind = 5 then getArrive s p
  else if k.st = .halted then
    (if p.kind = 4 && p.source == s.globalAddr (p.source.toNat % 256) then s.dropGet (p.source.toNat % 256) (s.globalAddr c) p.seq else s)
  else if p.kind = 4 then
    match k.inRead p.banner p.address.toNat p.len with
    | .ue k1 aux => s.inUe p k1 aux
    | .refuse k1 r => (s.setCore c k1).reply p 7 r []
    | .ok k1 d => (s.setCore c k1).reply p 5 0 d
  else if p.fromLink then arrive s p
  else
    let src := p.source.toNat % 256
    match winCheck (tget { low := 0, seen := [] } k.rxWin src) p.seq.toNat with
    | .duplicate => s
    | .beyond => s.reply p 7 0x43 []
    | .fresh w => arrive (s.setCore c { k with rxWin := tset k.rxWin src w }) p

/-- INBOUND_PACKET: the packet with this place among those in flight. -/
def xInboundPacket (i : Nat) (s : State) : State :=
  match s.mesh[i]? with
  | none => s
  | some p => if p.kind = 6 ∨ p.kind = 7 then s else receive { s with mesh := s.mesh.eraseIdx i } p

/-- The outstanding put that a notice or refusal names. -/
def Core.putOf (k : Core) (s : State) (src : BitVec 18) (seq : BitVec 16) : Option (StreamInstr × Elem) :=
  (k.elems.find? fun e => e.stage == .awaitAccept && e.wait.contains seq &&
    k.sq.any fun i => i.tag.ord == e.ord && farGlobal s i.dst == src).bind fun e =>
      (k.sq.find? fun i => i.tag.ord == e.ord).map fun i => (i, e)

/-- ACCEPTANCE_NOTICE (R155): the last notice of an element's packets accepts it. -/
def xAcceptanceNotice (i : Nat) (s : State) : State :=
  match s.mesh[i]? with
  | none => s
  | some p =>
    if p.kind ≠ 6 then s else
    let s1 := { s with mesh := s.mesh.eraseIdx i }
    let k := s1.core p.dest
    match k.putOf s1 p.source p.seq with
    | none => s1
    | some (_, e) =>
      let f (x : Elem) : Elem :=
        let left := x.wait.filter (· != p.seq)
        { x with wait := left, stage := if left.isEmpty then .accepted else x.stage }
      s1.setCore p.dest { k with elems := updFirst (fun x => x.ord == e.ord && x.elem == e.elem) f k.elems }

/-- A sender halts for what a receiver refused. An uncorrectable error there is none of its own scratchpad (R65). -/
def State.haltRefused (s : State) (c : Nat) (reason : BitVec 8) (pc : BitVec 32) (e : FaultEngine) (aux : BitVec 64) : State :=
  let k := s.core c
  (s.haltCore c reason pc e aux).updCore c fun h =>
    { h with eccUe := k.eccUe, eccUeScrub := k.eccUeScrub, eccAddr := k.eccAddr }

/-- REFUSAL (R71): the sender halts with the receiver's reason and global address. -/
def xRefusal (i : Nat) (s : State) : State :=
  match s.mesh[i]? with
  | none => s
  | some p =>
    if p.kind ≠ 7 then s else
    let s1 := { s with mesh := s.mesh.eraseIdx i }
    let k := s1.core p.dest
    let aux := BitVec.ofNat 64 (p.source.toNat + if p.reason = 0x43 then p.seq.toNat % 4096 * 1048576 else 0)
    let get := k.sq.find? fun i => farGlobal s1 i.src == p.source &&
      k.elems.any fun e => e.ord == i.tag.ord && e.stage == .awaitData && e.wait == [p.seq]
    if p.rcc = 1 then
      match get with
      | some i => if k.st = .halted then s1.dropGet p.dest p.source p.seq else s1.haltRefused p.dest p.reason i.tag.pc (.of .stream) aux
      | none => s1
    else
      match k.putOf s1 p.source p.seq with
      | some (i, _) => s1.haltRefused p.dest p.reason i.tag.pc (.of .stream) aux
      | none =>
        match k.sent.find? fun m => m.dest == p.source && m.seq == p.seq with
        | some m => s1.haltRefused p.dest p.reason m.pc (.of .message) aux
        | none => s1

/-- Engine that issued the instruction at `pc`. -/
def Core.sender (k : Core) (pc : BitVec 32) : FaultEngine :=
  if k.sq.any (fun i => i.tag.pc == pc) then .of .stream else .of .message

/-- LATE_NOTICE (R213, R270). -/
def xLateNotice (c : Nat) (pc : BitVec 32) (rcv : BitVec 18) (seq : BitVec 12) (s : State) : State :=
  s.haltCore c 0x40 pc ((s.core c).sender pc) (BitVec.ofNat 64 (rcv.toNat + seq.toNat * 1048576))

/-- SEQ_GAP_NOTICE (R271). -/
def xSeqGapNotice (c : Nat) (pc : BitVec 32) (rcv : BitVec 18) (seq : BitVec 12) (s : State) : State :=
  s.haltCore c 0x43 pc ((s.core c).sender pc) (BitVec.ofNat 64 (rcv.toNat + seq.toNat * 1048576))

def execXSend (c : CoreId) (w : IWord) (s : State) : Out := .next (xXSend c w s)
def execXCast (c : CoreId) (w : IWord) (s : State) : Out := .next (xXCast c w s)
def execXReduce (c : CoreId) (w : IWord) (s : State) : Out := .next (xXReduce c w s)
def execXReducea (c : CoreId) (w : IWord) (s : State) : Out := .next (xXReducea c w s)
def execXExpect (c : CoreId) (w : IWord) (s : State) : Out := .next (xXExpect c w s)
def execMessageCompletion (c : CoreId) (s : State) : Out := .next (xMessageCompletion c s)
def execReductionCombine (c : CoreId) (s : State) : Out := .next (xReductionCombine c s)
def execInboundPacket (i : Nat) (s : State) : Out := .next (xInboundPacket i s)
def execAcceptanceNotice (i : Nat) (s : State) : Out := .next (xAcceptanceNotice i s)
def execRefusal (i : Nat) (s : State) : Out := .next (xRefusal i s)
def execLateNotice (c : CoreId) (pc : BitVec 32) (rcv : BitVec 18) (seq : BitVec 12) (s : State) : Out :=
  .next (xLateNotice c pc rcv seq s)
def execSeqGapNotice (c : CoreId) (pc : BitVec 32) (rcv : BitVec 18) (seq : BitVec 12) (s : State) : Out :=
  .next (xSeqGapNotice c pc rcv seq s)

end Sys2Proof.Machine
end

