-- ==== Sys2Proof/Machine/Image.lean ====
section
/-! DEFINITION. Gallery images and their layers (R301 to R304), and the copy of a swap (R316). -/

namespace Sys2Proof.Machine

/-! ### Images (R301 to R304) -/

def extentBytes : Nat := 67108864

/-- Fields of a layer table entry (Table 14.1). -/
def GSlot.layerOff (g : GSlot) (l : Nat) : Nat := leNat (memRead g.body (64 * l) 8)
def GSlot.layerLen (g : GSlot) (l : Nat) : Nat := leNat (memRead g.body (64 * l + 8) 8)
def GSlot.layerDig (g : GSlot) (l : Nat) : BitVec 384 := BitVec.ofNat 384 (leNat (memRead g.body (64 * l + 16) 48))

/-- Layer count of a header. -/
def GSlot.layers (g : GSlot) : Nat := natAt g.header 6 2
def GSlot.model (g : GSlot) : Nat := natAt g.header 16 16

/-- The header digest, over bytes [507:0] (R303). -/
def headerDigest (h : List Byte) : BitVec 384 := Config.sha384 (h.take 508)

/-- The digest of a layer as read: SHA-384 over the digests of its 4 KiB units (R302). -/
def State.layerDigest (s : State) (g : GSlot) (l : Nat) : BitVec 384 :=
  let n := g.layerLen l
  let unit (u : Nat) : List Byte :=
    let m := min 4096 (n - 4096 * u)
    s.bodyRead g (g.layerOff l + 4096 * u) m ++ zeros (4096 - m)
  Config.sha384 ((List.range (ceilDiv n 4096)).flatMap fun u => leBytes 48 (Config.sha384 (unit u)).toNat)

/-- A layer reads without an uncorrectable unit and its digest matches the layer table. -/
def State.layerOk (s : State) (g : GSlot) (l : Nat) : Bool :=
  (g.readUnits (g.layerOff l) (g.layerLen l)).2.isEmpty && s.layerDigest g l == g.layerDig l

/-- The key an image needs is held (R304). -/
def State.imageHeld (s : State) (g : GSlot) : Bool := natAt g.header 32 4 == 0 || (s.imageKey g).isSome

/-- The table digest matches the header. -/
def GSlot.tableOk (g : GSlot) : Bool :=
  Config.sha384 (memRead g.body 0 g.tableEnd) == BitVec.ofNat 384 (natAt g.header 48 48)

/-- The first layer that fails, the number of layers for the table itself, or none (R307). -/
def State.imageBad (s : State) (g : GSlot) : Option Nat :=
  match (List.range g.layers).find? (fun l => !s.layerOk g l) with
  | some l => some l
  | none => if g.tableOk then none else some g.layers

/-! ### Copying layers over resident weights (R316) -/

/-- Write every byte of [lo, hi) of a layer that a kind 3 entry of the reference takes, over the old weights; the units read
are counted. -/
def State.copyRange (s : State) (t : Task) (gref : Nat) (g : GSlot) (l lo hi : Nat) : State :=
  ((t.allocs.filter fun a => a.kind == 3 && a.gref == gref && a.layer == l).foldl (fun s a =>
    let x := max lo a.source
    let y := min hi (a.source + a.length)
    if y ≤ x then s
    else s.updCore a.core fun k => k.store false (a.start + (x - a.source)) (s.bodyRead g (g.layerOff l + x) (y - x))) s).galCount
      g (g.layerOff l + lo) (hi - lo)

def State.copyLayer (s : State) (t : Task) (gref : Nat) (g : GSlot) (l : Nat) : State := s.copyRange t gref g l 0 (g.layerLen l)

/-- Copy layers in ascending order until one fails; every layer read has overwritten its bytes. -/
def State.copyLayers (t : Task) (gref i : Nat) : List Nat → State → State × LayerResult
  | [], s => (s, .ok)
  | l :: ls, s =>
    let g := s.slot i
    let s1 := s.copyLayer t gref g l
    if s.layerOk g l then State.copyLayers t gref i ls s1 else (s1, .badLayer l)

/-- The layers a reference names. -/
def Task.refLayers (t : Task) (gref : Nat) : List Nat :=
  match t.grefs[gref]? with
  | some r => (List.range r.layers).map (r.first + ·)
  | none => []

/-- Copy what lies in [a, b) of the layers laid one after the other, up to and with the first that fails its digest or has an
uncorrectable unit. -/
def State.copySpan (t : Task) (gref i : Nat) (a b : Nat) : List Nat → State → State × LayerResult
  | [], s => (s, .ok)
  | l :: ls, s =>
    let g := s.slot i
    let n := g.layerLen l
    let s1 := if min n b ≤ a then s else s.copyRange t gref g l a (min n b)
    if b < n then (s1, .ok)
    else if s.layerOk g l then State.copySpan t gref i (a - n) (b - n) ls s1 else (s1, .badLayer l)

/-- A reset, an abort or a halt has stopped the task's cores: its copy stops (R318). -/
def State.copyStopped (s : State) (t : Task) : Bool := t.cores.any fun c => (s.core c).st == .halted

/-- The span that whole 4 KiB units of a read of `n` bytes have reached: layers in full, the current one in whole units. -/
def wholeUnits : List Nat → Nat → Nat
  | [], _ => 0
  | l :: ls, n => if l ≤ n then l + wholeUnits ls (n - l) else n / 4096 * 4096

/-- One tread of a swap's copy: SC4 reads at 4,000 GB/s less what every other loaded task holds (R316). -/
def State.swapTread (s : State) (t : Task) : State :=
  match t.swap with
  | none => s
  | some w =>
    if !t.live || !w.applying || w.copied || s.copyStopped t then s
    else
      let others := ((s.tasks.filter fun y => y.live && y.loadId != t.loadId).map (·.grant)).sum
      let ls := t.refLayers w.gref
      let lens := ls.map (s.slot w.slot).layerLen
      let n := w.read + (4000 - others) * 1000
      let (s1, _) := State.copySpan t w.gref w.slot (wholeUnits lens w.read) (wholeUnits lens n) ls s
      s1.updTask t.loadId fun t => { t with swap := some { w with read := n } }

/-- The layer a copy has reached. -/
def layerAt (g : GSlot) : List Nat → Nat → Nat
  | [], _ => 0
  | [l], _ => l
  | l :: ls, n => if g.layerLen l ≤ n then layerAt g ls (n - g.layerLen l) else l

end Sys2Proof.Machine
end

