-- ==== Sys2Proof/Machine/Transport.lean ====
section
/-! DEFINITION. The command transport (17): queues and rings, doorbells, the acceptance checks in their order, the
replay cache, replies and events. -/

namespace Sys2Proof.Machine

/-! ### Status codes (Table 17.10) -/

abbrev stOk : BitVec 16 := 0x0000
abbrev stPending : BitVec 16 := 0x0001
abbrev stReplayed : BitVec 16 := 0x0002
abbrev stBadLength : BitVec 16 := 0x0100
abbrev stBadOpcode : BitVec 16 := 0x0101
abbrev stReserved : BitVec 16 := 0x0102
abbrev stTagReuse : BitVec 16 := 0x0103
abbrev stBadDate : BitVec 16 := 0x0104
abbrev stBadImage : BitVec 16 := 0x0105
abbrev stBadParam : BitVec 16 := 0x0106
abbrev stBadAddress : BitVec 16 := 0x0107
abbrev stNotPermitted : BitVec 16 := 0x0200
abbrev stLifecycle : BitVec 16 := 0x0201
abbrev stBanner : BitVec 16 := 0x0202
abbrev stBusy : BitVec 16 := 0x0300
abbrev stNoCapacity : BitVec 16 := 0x0301
abbrev stDigestFail : BitVec 16 := 0x0400
abbrev stSignatureFail : BitVec 16 := 0x0401
abbrev stKeyFail : BitVec 16 := 0x0402
abbrev stLinkUnavailable : BitVec 16 := 0x0500
abbrev stManifestMismatch : BitVec 16 := 0x0501
abbrev stManifestInvalid : BitVec 16 := 0x0502
abbrev stNotLocked : BitVec 16 := 0x0503
abbrev stSwapIncomplete : BitVec 16 := 0x0504
abbrev stTaskAborted : BitVec 16 := 0x0505
abbrev stInternal : BitVec 16 := 0x0600
abbrev stCalibration : BitVec 16 := 0x0601

/-! ### Who may do what (R367, R387, R392, R411, R424) -/

/-- The management attachment: PF0, or the MCTP sideband (Table 19.4); in recovery mode commands come over MCTP as well (R424). -/
def State.isMgmt (s : State) (f : FnId) : Bool :=
  (if s.rst.straps.mgmtPortSel then f.val == 0 else f.val == 4) || (s.rst.recovery && f.val == 4)

/-- The function owns the banner (R392); none does while its partition is torn down (Table 18.8). -/
def State.owns (s : State) (f : FnId) (b : Banner) : Bool :=
  let p := s.part b
  p.valid && !p.teardown && p.owner == some f && (f.val != 4 || s.isMgmt f)

/-- Life-cycle state (Table 18.11): 0 BLANK, 1 PROVISIONED, 2 DEPLOYED, 3 RETURNED, 4 RETIRED. -/
def lcOf (b : BitVec 4) : Nat :=
  if b.getLsbD 3 then 4 else if b.getLsbD 2 then 3 else if b.getLsbD 1 then 2 else if b.getLsbD 0 then 1 else 0

/-- Who may issue an opcode (Table 17.7). -/
inductive Who where
  | mgmt | owner | any
  deriving DecidableEq, Repr, Inhabited

/-- Issuer and whether it replies PENDING, for every assigned opcode (Table 17.7). -/
def opInfo (op : Nat) : Option (Who × Bool) :=
  match op with
  | 0x0101 => some (.any, false) | 0x0102 => some (.any, false) | 0x0103 => some (.any, false)
  | 0x0104 => some (.mgmt, false) | 0x0105 => some (.mgmt, true) | 0x0106 => some (.mgmt, false)
  | 0x0107 => some (.mgmt, true) | 0x0108 => some (.mgmt, false)
  | 0x0201 => some (.mgmt, true) | 0x0202 => some (.mgmt, true) | 0x0203 => some (.mgmt, false)
  | 0x0204 => some (.any, false) | 0x0205 => some (.mgmt, false)
  | 0x0301 => some (.owner, true) | 0x0302 => some (.owner, true) | 0x0303 => some (.owner, true)
  | 0x0304 => some (.owner, false) | 0x0305 => some (.mgmt, false)
  | 0x0401 => some (.mgmt, false) | 0x0402 => some (.mgmt, true) | 0x0403 => some (.mgmt, true)
  | 0x0404 => some (.mgmt, true) | 0x0405 => some (.mgmt, false) | 0x0406 => some (.owner, true)
  | 0x0407 => some (.any, false)
  | 0x0501 => some (.owner, false) | 0x0502 => some (.owner, true) | 0x0503 => some (.owner, true)
  | 0x0504 => some (.owner, true) | 0x0505 => some (.owner, false) | 0x0506 => some (.owner, false)
  | 0x0601 => some (.owner, false) | 0x0602 => some (.owner, true) | 0x0603 => some (.owner, true)
  | 0x0604 => some (.owner, true) | 0x0605 => some (.owner, true)
  | 0x0701 => some (.mgmt, true) | 0x0702 => some (.any, false) | 0x0703 => some (.mgmt, false)
  | 0x0704 => some (.any, false)
  | 0x0801 => some (.owner, false) | 0x0802 => some (.owner, false) | 0x0803 => some (.mgmt, true)
  | 0x0804 => some (.any, false)
  | 0x0901 => some (.owner, false) | 0x0902 => some (.any, false) | 0x0903 => some (.owner, false)
  | 0x0904 => some (.any, false)
  | 0x0A01 => some (.mgmt, false) | 0x0A02 => some (.any, false)
  | _ => none

/-- The opcode replies PENDING first (Table 17.7). -/
def pends (op : Nat) : Bool := match opInfo op with | some (_, p) => p | none => false

/-- Table 18.13. -/
def lcAdmits (lc op : Nat) : Bool :=
  let g := op / 256
  if op = 0x0101 || op = 0x0102 || g = 0x0A then true
  else if op = 0x0104 || op = 0x0803 then lc != 4
  else if g = 1 || g = 7 || g = 4 then lc == 1 || lc == 2
  else if g = 2 || g = 3 || g = 5 || g = 6 then lc == 2
  else if op = 0x0804 then lc == 1 || lc == 2 || lc == 3
  else if g = 8 then lc == 2
  else if op = 0x0902 then lc != 0
  else if op = 0x0904 then lc == 1 || lc == 2 || lc == 3
  else lc == 1 || lc == 2

/-- Commands of recovery mode (R424). -/
def recoveryOps : List Nat := [0x0101, 0x0102, 0x0104, 0x0107, 0x0108, 0x0902]

/-- Lengths an opcode accepts (check 5): the packet of Tables 17.9, 18.2 and of R402, R439, R446, R455; 16 for the
commands that take no parameters; for a layout the manual does not give, any length with parameters (log 18). -/
def lengthOk (op len : Nat) (params : List Byte) : Bool :=
  match op with
  | 0x0501 =>
    if bitOf (natAt params 6 1) 2 then len == 80
    else decide (natAt params 8 4 ≤ 1004) && len == (80 + 4 * natAt params 8 4 + 15) / 16 * 16
  | 0x0301 => len == 48
  | 0x0A01 => len == 32
  | 0x0106 => len == 32
  | 0x0201 => len == 144
  | 0x0202 => len == 32
  | 0x0901 => len == 32
  | 0x0903 => len == 32
  | 0x0101 | 0x0102 | 0x0104 | 0x0105 | 0x0204 | 0x0801 | 0x0904 | 0x0A02 => len == 16
  | 0x0407 | 0x0702 | 0x0704 | 0x0803 | 0x0804 | 0x0902 => true
  | _ => len != 16

/-- Reserved parameter bits of the layouts the manual gives (check 6). -/
def reservedSet (op : Nat) (p : List Byte) : Bool :=
  match op with
  | 0x0501 => decide (32 ≤ natAt p 4 1) || decide (8 ≤ natAt p 5 1) || decide (8 ≤ natAt p 6 1) || natAt p 7 1 != 0 || natAt p 42 6 != 0 ||
      (!bitOf (natAt p 6 1) 2 && natAt p 48 8 != 0) || natAt p 56 8 != 0
  | 0x0301 => natAt p 12 4 != 0 || natAt p 24 8 != 0
  | 0x0A01 => natAt p 7 9 != 0
  | 0x0106 => decide (2 ≤ natAt p 2 1) || natAt p 3 1 != 0 || natAt p 14 2 != 0
  | 0x0201 => decide (8 ≤ natAt p 0 1) || decide (16 ≤ natAt p 6 1) || natAt p 9 1 != 0 || natAt p 12 4 != 0 ||
      natAt p 65 15 != 0
  | 0x0202 => decide (8 ≤ natAt p 0 1) || decide (4 ≤ natAt p 1 1) || natAt p 2 14 != 0
  | 0x0901 => natAt p 9 7 != 0
  | 0x0903 => natAt p 10 6 != 0
  | _ => false

/-! ### Queues and rings (R370 to R373) -/

/-- Entry count N of both rings. -/
def Queue.n (q : Queue) : Nat := 2 ^ q.size.toNat
/-- Free reply slots. -/
def Queue.free (q : Queue) : Nat := q.n - (q.replyTail - q.replyHead)

/-- Bytes of a payload whose layout the manual gives: Tables 10.9, 16.1, 17.8, 17.9, 12.8, the log entries of R441, the bytes read, and
the log reference of a status of group 0x06 (R375). -/
def Payload.size : Payload → Option Nat
  | .none => some 0
  | .logRef _ | .shortfall _ => some 4
  | .badRecord .. => some 12
  | .loadReport log .. => some (40 + 4 * b2n log.isSome)
  | .event (.stream _ t ..) => some (16 + 4 * t.length)
  | .event (.taskFault ..) => some 48
  | .event (.module _) => some 64
  | .append .. => some 17
  | .streamState _ => some 1
  | .streamEntry _ t => some (64 + 4 * t.length)
  | .bytes b => some b.length
  | .linkPage w => some (4 * w.length)
  | .logs l => some (64 * l.length)
  | .digest _ => some 48
  | .nonce _ => some 16
  | .slot _ h _ => some h.length
  | .identify .. | .status .. | .cap _ | .partitions _ | .taskStatus .. | .swapFail .. | .keys _ | .counters _ | .time .. | .count _ => Option.none

/-- The length field of a reply's header: 16 bytes of header and the payload, in multiples of 16 (R375, Table 17.3); none where the
manual does not give the payload's layout (log 18). -/
def Reply.length (r : Reply) : Option Nat := r.payload.size.map fun n => 16 + (n + 15) / 16 * 16

/-- Write a reply or an event: the phase is 1 on the ring's first pass and inverts at every wrap (R373). -/
def Queue.put (q : Queue) (r : Reply) (irq : Bool) : Queue :=
  { q with ring := tset q.ring (q.replyTail % q.n)
             { r with phase := q.replyTail / q.n % 2 == 0, cmdHead := q.cmdHead % q.n },
           replyTail := q.replyTail + 1, irqs := q.irqs + b2n irq }

def State.queue (s : State) (f q : Nat) : Queue := tget Queue.reset (s.fn f).queues q
def State.setQueue (s : State) (f q : Nat) (x : Queue) : State :=
  s.setFn f { s.fn f with queues := tset (s.fn f).queues q x }

/-- The sideband's one queue is always open (R387). -/
def State.queueOn (s : State) (f q : Nat) : Bool := if f = 4 then q == 0 else (s.queue f q).enable

/-- A word of the MSI-X table; a vector is masked until its control word says otherwise (PRESUMED, log 18: PCI Express). -/
def HostFn.msixWord (h : HostFn) (i : Nat) : Word := tget (if i % 4 = 3 then 1 else 0) h.msix i

/-- Raising a masked vector sets its pending bit (R369; PRESUMED, log 18). -/
def State.raiseIrq (s : State) (f q : Nat) (irq : Bool) : State :=
  let v := (s.queue f q).vector.toNat
  if irq && ((s.fn f).msixWord (4 * v + 3)).getLsbD 0 then s.setFn f { s.fn f with pba := insNat v (s.fn f).pba } else s

/-- Write a reply into its queue's ring; nothing is written to a queue that is not enabled (R368, Table 17.12). -/
def State.writeReply (s : State) (f q : Nat) (op st : BitVec 16) (tag : BitVec 32) (p : Payload)
    (final replayed irq : Bool) : State :=
  if !s.queueOn f q then s
  else (s.setQueue f q ((s.queue f q).put
    { opcode := op, status := st, tag := tag, phase := false, replayed := replayed, event := false, final := final,
      cmdHead := 0, payload := p } irq)).raiseIrq f q irq

/-! ### Events (R379, R380) -/

def Event.opcode : Event → BitVec 16
  | .stream .. => 0xFF01 | .taskFault .. => 0xFF02 | .module .. => 0xFF03

/-- Bytes of an event with its header: a stream record is padded to 16 bytes (R380). -/
def Event.bytes : Event → Nat
  | .stream _ t .. => 16 + (16 + 4 * t.length + 15) / 16 * 16
  | .taskFault .. => 64
  | .module .. => 80

def Event.isStream : Event → Bool
  | .stream .. => true
  | _ => false

/-- Write held events while the event queue keeps a reply slot for each of its PENDING commands. -/
def flushEvents (f : Nat) : Nat → State → State
  | 0, s => s
  | fuel + 1, s =>
    let h := s.fn f
    match h.eventQ, h.held with
    | some q, (seq, e) :: rest =>
      let x := s.queue f q
      if x.enable && decide (x.pending < x.free) then
        flushEvents f fuel (((s.setFn f { h with held := rest }).setQueue f q
          (x.put { opcode := e.opcode, status := stOk, tag := seq, phase := false, replayed := false, event := true,
                   final := false, cmdHead := 0, payload := .event e } true)).raiseIrq f q true)
      else s
    | _, _ => s

/-- Discard the oldest held stream events while the buffer of 1 MiB is exceeded; with none held, the newest event
goes (log 18). -/
def trimHeld (h : HostFn) : Nat → HostFn
  | 0 => h
  | fuel + 1 =>
    if (h.held.map fun e => e.2.bytes).sum ≤ 1048576 then h
    else
      let held := if h.held.any (fun e => e.2.isStream) then remFirst (fun e => e.2.isStream) h.held else h.held.dropLast
      trimHeld { h with held := held, evLost := h.evLost + 1 } fuel

/-- One event for a function. -/
def State.eventTo (s : State) (f : Nat) (e : Event) : State :=
  if f = 4 then s else
  let h := s.fn f
  let h1 := trimHeld { h with held := h.held ++ [(h.eventSeq, e)], eventSeq := h.eventSeq + 1 } (h.held.length + 1)
  flushEvents f h1.held.length (s.setFn f h1)

/-- An event for the function that owns a banner. -/
def State.postEvent (s : State) (b : Banner) (e : Event) : State :=
  match (s.part b).owner with
  | some f => s.eventTo f.val e
  | none => s

/-- The 64 bytes of an entry (Table 20.5), its stamp in the layout of Table 14.2. -/
def LogEntry.bytes (e : LogEntry) : List Byte :=
  let d (i : Nat) : Nat := e.stamp.getD i 0
  leBytes 4 e.seq.toNat ++ leBytes 2 (d 0) ++ leBytes 1 (d 1) ++ leBytes 1 (d 2) ++ leBytes 1 (d 3) ++ leBytes 1 (d 4) ++ leBytes 1 (d 5) ++
  leBytes 1 (b2n e.stampValid) ++ leBytes 8 e.tread ++ leBytes 1 e.source ++
  leBytes 1 (match e.banner with | some b => b.val | none => 0xFF) ++ leBytes 2 e.kind ++ leBytes 4 e.subject ++
  leBytes 2 e.status.toNat ++ zeros 2 ++ e.body

/-- An entry as a tenant reads it (R443): its view number, no tread in a module-wide entry, and the temperature of a
kind 0x04 entry in steps of 2 degrees. -/
def LogEntry.viewOf (e : LogEntry) (b : Nat) : LogEntry :=
  { e with
    seq := BitVec.ofNat 32 (tget 0 e.views b), tread := if e.banner.isNone then 0 else e.tread, body := if e.kind = 4 then leBytes 4 (natAt e.body 0 4 / 20 * 20) ++ e.body.drop 4 else e.body, views := [] }

/-- An entry as the management attachment reads it. -/
def LogEntry.stored (e : LogEntry) : LogEntry := { e with views := [] }

/-- An entry as a function reads it, for a banner. -/
def State.entryFor (s : State) (f : FnId) (b : Nat) (e : LogEntry) : LogEntry := if s.isMgmt f then e.stored else e.viewOf b

/-- Banners a function owns. -/
def State.bannersOf (s : State) (f : FnId) : List Nat := (List.range 8).filter fun b => (s.part b).valid && (s.part b).owner == some f

/-- Kinds of module-wide entries that a tenant may see (R443). -/
def wideKind (k : Nat) : Bool := k == 1 || k == 4 || k == 10

/-- Another module-wide entry of kind 0x04 less than a second old (Table 18.10). -/
def State.throttledLately (s : State) (e : LogEntry) : Bool :=
  e.kind == 4 && s.loggedWithin 1000000 fun x => x.kind == 4 && x.banner.isNone && x.seq != e.seq

/-- A module event for every PCIe function that may see it: the management function, and the tenants for the kinds
that the banner filter lets pass, with a throttle reported at most once per second (R379, R405, R443). -/
def State.moduleEvent (s : State) (e : LogEntry) : State :=
  [0, 1, 2, 3].foldl (fun s f =>
    let fn : FnId := Fin.ofNat 5 f
    match s.bannersOf fn with
    | b :: _ =>
      if s.isMgmt fn || (wideKind e.kind && !s.throttledLately e) then s.eventTo f (.module (s.entryFor fn b e)) else s
    | [] => if s.isMgmt fn then s.eventTo f (.module e.stored) else s) s

/-- Log an entry and post it as a module event. -/
def State.logEvent (s : State) (source kind subject : Nat) (banner : Option Banner) (body : List Nat) (status : BitVec 16 := 0) : State :=
  let s1 := s.log source kind subject banner status body
  match s1.diag.buf.head? with
  | none => s1
  | some e =>
    if s1.diag.nextSeq = s.diag.nextSeq then s1 else
    match banner with
    | some b => match (s.part b).owner with
      | some f => s1.postEvent b (.module (s1.entryFor f b.val e))
      | none => s1
    | none => s1.moduleEvent e

/-- EVENT_HOLD_RELEASE (R379): held events are written once the ring has room. -/
def xEventHoldRelease (f : Nat) (s : State) : State := flushEvents f (s.fn f).held.length s

/-! ### Commands from acceptance to final reply -/

def Accepted.on (a : Accepted) (r : CmdRef) : Bool := a.ref.fn == r.fn && a.ref.queue == r.queue

/-- The reply ring has more free slots than the queue's PENDING commands, plus one (R372). -/
def Queue.room (q : Queue) : Bool := decide (q.pending + 1 < q.free)

/-- A queue's ring has room for a command's replies; the sideband and a queue that is not enabled have no ring to fill. -/
def State.ringRoom (s : State) (f q : Nat) : Bool := f == 4 || !(s.queue f q).enable || (s.queue f q).room

/-- Take up a command for its own conditions (check 10): the oldest of its queue that has not begun, once the ring has room
(R372, log 18). An ordered command waits until every earlier one of its queue has replied (Table 17.2). -/
def State.beginCmd (s : State) (r : CmdRef) (op : Nat) : Option (Accepted × State) :=
  match s.accepted.find? (fun a => a.on r && !a.started) with
  | none => none
  | some a =>
    if a.ref != r || a.opcode.toNat != op || (a.ordered && s.accepted.any (fun b => b.on r && b.started)) ||
        !s.ringRoom r.fn.val r.queue.val then none else
    let a1 := { a with started := true, begun := false }
    some (a1, { s with accepted := updFirst (fun b => b.ref == r && !b.started) (fun _ => a1) s.accepted })

/-- A command that must wait, or whose data a transfer brings, replies PENDING, once (R377, Table 17.7). -/
def State.pendOn (s : State) (r : CmdRef) : State :=
  match s.accepted.find? (fun a => a.ref == r && a.started) with
  | none => s
  | some a =>
    if a.begun || !pends a.opcode.toNat then s else
    let s1 := { s with accepted := updFirst (fun b => b.ref == r && b.started) (fun _ => { a with begun := true }) s.accepted }
    if a.discard then s1 else
    let s2 := s1.setQueue r.fn.val r.queue.val
      { s1.queue r.fn.val r.queue.val with pending := (s1.queue r.fn.val r.queue.val).pending + 1 }
    s2.writeReply r.fn.val r.queue.val a.opcode stPending r.tag .none false false a.irq

/-- The final reply of a command that has begun: cached, then written, then held events (R377, R378). -/
def State.finish (s : State) (r : CmdRef) (st : BitVec 16) (p : Payload) : State :=
  match s.accepted.find? (fun a => a.ref == r && a.started) with
  | none => s
  | some a =>
    let s1 := { s with accepted := remFirst (fun b => b.ref == r && b.started) s.accepted }
    if a.discard then s1 else
    let q := s1.queue r.fn.val r.queue.val
    let s2 := s1.setQueue r.fn.val r.queue.val
      { q with pending := if a.begun then q.pending - 1 else q.pending,
               cache := updFirst (fun e => e.tag == r.tag && e.n == r.n) (fun e => { e with final := some (st, p) }) q.cache }
    let s3 := s2.writeReply r.fn.val r.queue.val a.opcode st r.tag p true false a.irq
    flushEvents r.fn.val (s3.fn r.fn.val).held.length s3

/-- Run a command's own conditions and effect when it may begin; one that has not replied in final form then waits (R377). -/
def State.cmd (s : State) (r : CmdRef) (op : Nat) (act : Accepted → State → State) : State :=
  match s.beginCmd r op with
  | some (a, s1) => (act a s1).pendOn r
  | none => s

/-- Final replies to several commands. -/
def State.finishAll (s : State) (l : List CmdRef) (st : BitVec 16) (p : Payload) : State :=
  l.foldl (fun s r => s.finish r st p) s

/-! ### COMMAND_FETCH (R372 to R378) -/

/-- The fetch of a queue is not held (R372). -/
def State.mayFetch (s : State) (f q : Nat) : Bool :=
  let x := s.queue f q
  if f = 4 then q == 0 && decide (x.pending < 64) && decide (s.pwr.smbUntil ≤ s.clk.treadCount)
  else (s.fn f).present && x.enable && !x.err && decide (x.cmdHead < x.cmdTail) && decide (x.pending < 64) && x.room

/-- The next queue in the round robin from which a command can be fetched. -/
def State.nextQueue (s : State) : Option (Nat × Nat) :=
  let order := (List.range 64).map fun i => (s.turn + i) % 64
  (order.find? fun i => s.mayFetch (i / 16) (i % 16)).map fun i => (i / 16, i % 16)

/-- SC0 is fetching: READY or recovery mode, and SC0 is not in reset (R424, R426, R432). -/
def State.fetching (s : State) : Bool :=
  (s.rst.isReady || s.rst.recovery) && s.rst.scRunning.contains 0

/-- Checks 4 to 9 of Table 17.4: the first status that fails. -/
def acceptCheck (s : State) (f : FnId) (c : List Byte) : Option (BitVec 16) :=
  let op := natAt c 0 2
  let params := c.drop 16
  let who := match opInfo op with | some (w, _) => w | none => .any
  if decide (4 ≤ natAt c 2 2) || decide (8 ≤ natAt c 4 1) || natAt c 5 1 != 0 || natAt c 12 4 != 0 then some stReserved
  else if !lengthOk op (natAt c 6 2) params then some stBadLength
  else if reservedSet op params then some stReserved
  else if who == .mgmt && !s.isMgmt f then some stNotPermitted
  else if who == .owner && !s.owns f (Fin.ofNat 8 (natAt c 4 1)) then some stBanner
  else if !lcAdmits (lcOf s.sec.lcBits) op then some stLifecycle
  else if s.rst.recovery && !(recoveryOps.contains op && (s.isMgmt f || f.val == 4)) then some stLifecycle
  else none

/-- A fetched packet: checks 1 and 2, the replay cache, then checks 4 to 9. -/
def fetched (s : State) (f : FnId) (q : QueueId) (p : List Byte) : State :=
  let len := natAt p 6 2
  let op := BitVec.ofNat 16 (natAt p 0 2)
  let tag := BitVec.ofNat 32 (natAt p 8 4)
  let irq := bitOf (natAt p 2 2) 0
  let quick (s : State) (st : BitVec 16) : State := s.writeReply f.val q.val op st tag .none true false irq
  if decide (len < 16) || decide (4096 < len) || len % 16 != 0 then quick s stBadLength
  else if (opInfo op.toNat).isNone then quick s stBadOpcode
  else
    let c := (p ++ zeros len).take len
    let x := s.queue f.val q.val
    match x.cache.find? (fun e => e.tag == tag) with
    | some e =>
      if e.content != c then quick s stTagReuse
      else match e.final with
        | none => s.writeReply f.val q.val op stReplayed tag .none false false irq
        | some (st, pl) => s.writeReply f.val q.val op st tag pl true true irq
    | none =>
      let entry (fin : Option (BitVec 16 × Payload)) : State :=
        s.setQueue f.val q.val { x with
          cache := ({ tag := tag, n := x.taken, content := c, final := fin } :: x.cache).take 1024, taken := x.taken + 1 }
      match acceptCheck s f c with
      | some st => quick (entry (some (st, .none))) st
      | none =>
        let s1 := entry none
        { s1 with accepted := s1.accepted ++
            [{ ref := { fn := f, queue := q, tag := tag, n := x.taken }, opcode := op, banner := Fin.ofNat 8 (natAt c 4 1),
               params := c.drop 16, irq := irq, ordered := bitOf (natAt c 2 2) 1, started := false, begun := false,
               discard := false }] }

/-- COMMAND_FETCH: one command of the queue whose turn it is; `none` when the DMA read of its slot failed (R373). -/
def xCommandFetch (f : FnId) (q : QueueId) (p : Option (List Byte)) (s : State) : State :=
  if !s.fetching then s
  else if f.val = 4 then
    if s.mayFetch 4 q.val then match p with | some p => fetched s f q p | none => s else s
  else if s.nextQueue != some (f.val, q.val) then s
  else
    let s0 := { s with turn := (f.val * 16 + q.val + 1) % 64 }
    let x := s0.queue f.val q.val
    match p with
    | none => s0.setQueue f.val q.val { x with err := true, cause := 2 }
    | some p => fetched (s0.setQueue f.val q.val { x with cmdHead := x.cmdHead + 1 }) f q p

/-! ### Queue registers and doorbells -/

/-- Stop a queue: its replay cache goes, and the final replies of its accepted commands are discarded. -/
def State.stopQueue (s : State) (f q : Nat) : State :=
  let x := s.queue f q
  let s1 := s.setQueue f q { x with enable := false, cache := [], pending := 0 }
  { s1 with accepted := s1.accepted.map fun a =>
      if a.ref.fn.val = f ∧ a.ref.queue.val = q then { a with discard := true } else a }

/-- QUEUE_ENABLE (R370): CMDQ_CFG written with enable set; an invalid size code sets err with cause 1. -/
def xQueueEnable (f : FnId) (q : QueueId) (v : Word) (s : State) : State :=
  let x := s.queue f.val q.val
  if !(s.fn f.val).present || f.val == 4 || x.enable || !v.getLsbD 31 then s else
  if decide (fieldOf v.toNat 11 8 < 4) || decide (10 < fieldOf v.toNat 11 8) then
    s.setQueue f.val q.val { x with err := true, cause := 1 }
  else
    let s1 := s.setQueue f.val q.val
      { x with size := v.extractLsb' 8 4, vector := v.extractLsb' 0 8, enable := true, err := false, cause := 0, cmdHead := 0, cmdTail := 0, replyHead := 0, replyTail := 0,
                pending := 0, ring := [], cache := [] }
    flushEvents f.val (s1.fn f.val).held.length s1

/-- QUEUE_DISABLE (R370, Table 17.12). -/
def xQueueDisable (f : FnId) (q : QueueId) (s : State) : State :=
  if (s.queue f.val q.val).enable then s.stopQueue f.val q.val else s

/-- The index a doorbell names, counted on from `base` (values are taken modulo N, R371). -/
def doorbell (n base : Nat) (v : Word) : Nat := base + (v.toNat % n + n - base % n) % n

/-- COMMAND_TAIL_DOORBELL (R371); ignored on a queue that is not enabled (log 18). -/
def xCommandTailDoorbell (f : FnId) (q : QueueId) (v : Word) (s : State) : State :=
  let x := s.queue f.val q.val
  if x.enable then s.setQueue f.val q.val { x with cmdTail := doorbell x.n x.cmdHead v } else s

/-- REPLY_HEAD_DOORBELL (R371): consumed slots become free, and held events may follow. -/
def xReplyHeadDoorbell (f : FnId) (q : QueueId) (v : Word) (s : State) : State :=
  let x := s.queue f.val q.val
  if x.enable then s.setQueue f.val q.val { x with replyHead := min x.replyTail (doorbell x.n x.replyHead v) } else s

/-- Disable every queue of a function and discard its caches and held events (R368, R418). -/
def State.stopFn (s : State) (f : Nat) : State :=
  let s1 := (List.range 16).foldl (fun s q =>
    if s.queueOn f q then
      let s1 := s.stopQueue f q
      s1.setQueue f q { s1.queue f q with err := true, cause := 3 }
    else s) s
  s1.setFn f { s1.fn f with held := [] }

/-- FUNCTION_RESET of a tenant function (R368); that of the management function is the source CMD_RESET. A function whose link is
lost is not present (Table 17.1). -/
def xFunctionReset (x : FnReset) (s : State) : State :=
  if x.fn.val = 4 then s else
  let s1 := if x.linkLost then s.setFn x.fn.val { s.fn x.fn.val with present := false, rate := 0, width := 0 } else s
  if s.isMgmt x.fn then s1 else s1.stopFn x.fn.val

/-! ### Meanings -/

def execCommandFetch (f : FnId) (q : QueueId) (p : Option (List Byte)) (s : State) : Out := .next (xCommandFetch f q p s)
def execEventHoldRelease (f : FnId) (s : State) : Out := .next (xEventHoldRelease f.val s)
def execFunctionReset (f : FnReset) (s : State) : Out := .next (xFunctionReset f s)
def execQueueEnable (f : FnId) (q : QueueId) (v : Word) (s : State) : Out := .next (xQueueEnable f q v s)
def execQueueDisable (f : FnId) (q : QueueId) (s : State) : Out := .next (xQueueDisable f q s)
def execCommandTailDoorbell (f : FnId) (q : QueueId) (v : Word) (s : State) : Out := .next (xCommandTailDoorbell f q v s)
def execReplyHeadDoorbell (f : FnId) (q : QueueId) (v : Word) (s : State) : Out := .next (xReplyHeadDoorbell f q v s)

end Sys2Proof.Machine
end

