-- ==== Sys2Proof/Machine/Tasks.lean ====
section
/-! DEFINITION. Tasks on the module: hall steps and armed changes (R34, R37 to R42), requests for a step (R458,
R465), landings and releases (R30 to R32, R238), aborts and task faults (R235 to R240, R444 to R446), and the end of a task (R241). -/

namespace Sys2Proof.Machine

/-! ### Halls and steps -/

/-- A hall that a step may be given to: H19 of grade C has no enabled core and stays at S0 (R15). -/
def State.hallOn (s : State) (h : Nat) : Bool := !(s.otp.grade == 2 && h == 19)

/-- A hall holds a task from the load that places it until every core has left it (R42). -/
def State.holdsTask (s : State) (h : Nat) : Bool := (hallCores h).any fun c => (s.core c).loadId.isSome

/-- A hall with a core that is RUNNING or LANDED (R37, Table 3.10). -/
def State.hallRunning (s : State) (h : Nat) : Bool := (hallCores h).any fun c => (s.core c).runsTask

/-- Range of the fused voltage of a step in mV (Table 21.4). -/
def fusedRange (step : Nat) : Nat × Nat :=
  match step with
  | 0 => (600, 650) | 1 => (630, 700) | 2 => (680, 750) | 3 => (720, 800) | 4 => (770, 850) | 5 => (810, 900)
  | _ => (850, 950)

/-- The voltage fused for a step of a hall (R454). -/
def fusedMv (h step : Nat) : Nat :=
  let r := fusedRange step
  r.1 + Config.fusedMv h step % (r.2 - r.1 + 1)

/-- Give a hall a step: its voltage loop starts from the fused value of the step (R454). -/
def State.setStep (s : State) (h : Nat) (st : BitVec 3) : State :=
  let x := s.hall h
  if x.stepCur = st then s
  else s.setHall h { x with stepCur := st, fused := 0, mv := BitVec.ofNat 16 (fusedMv h st.toNat) }

/-- The step names in CLK_STEP_NEXT0 and CLK_STEP_NEXT1. -/
def State.nextSteps (s : State) : List (BitVec 3) := (List.range 20).map fun h => (s.hall h).stepNext

/-- A step that R40 forbids: 0b111, above the grade's highest, or S0 for a hall that holds a running program. -/
def State.badSteps (s : State) (l : List (BitVec 3)) : Bool :=
  l.zipIdx.any fun p => p.1 == 7 || decide (maxStep s.otp.grade < p.1.toNat) || (p.1 == 0 && s.hallRunning p.2)

/-- A write of CLK_STEP_AT with count n (R39, R40): each condition sets its bit of CLK_ARM_STAT, and the write, that of
the register's own halves included, takes effect only when none fails. -/
def State.armWrite (s : State) (n : Nat) : State × Bool :=
  let now := s.clk.treadCount
  let busy := match s.clk.armAt with | some a => decide (a < now + 2) | none => false
  let late := n != 0 && decide (n < now + 2)
  let bad := n != 0 && s.badSteps s.nextSteps
  let ok := !busy && !late && !bad
  let clk := { s.clk with armBusy := busy, armLate := late, armBad := bad }
  if !ok then ({ s with clk := clk }, false)
  else
    let clk1 := { clk with stepAtLo := BitVec.ofNat 32 n, stepAtHi := BitVec.ofNat 32 (n / 4294967296) }
    if n = 0 then ({ s with clk := { clk1 with armAt := none, armSteps := [] } }, true)
    else ({ s with clk := { clk1 with armAt := some n, armSteps := s.nextSteps } }, true)

/-- Write the steps of the 20 halls into CLK_STEP_NEXT and then the count into CLK_STEP_AT (R38). A refused arm is refused
whole (R40): nothing but CLK_ARM_STAT differs. -/
def State.arm (s : State) (steps : List (BitVec 3)) (n : Nat) : State × Bool :=
  let (s1, ok) := (steps.zipIdx.foldl (fun s p => s.updHall p.2 fun x => { x with stepNext := p.1 }) s).armWrite n
  if ok then (s1, true) else ({ s with clk := s1.clk }, false)

/-- The steps in force once the pending change, if any, has been applied. -/
def State.comingSteps (s : State) : List (BitVec 3) :=
  if s.clk.armAt.isSome then s.clk.armSteps else (List.range 20).map fun h => (s.hall h).stepCur

/-- Arm a step for the halls of a task, joining what is pending or keeping the other halls' steps (R38, R230). -/
def State.armTask (s : State) (halls : List Nat) (st : BitVec 3) (n : Nat) : State × Bool :=
  s.arm (s.comingSteps.zipIdx.map fun p => if halls.contains p.2 then st else p.1) n

def Task.halls (t : Task) : List Nat := distinct (t.cores.map hallOf)

/-- The halls of a task in which no other task has a core. -/
def State.ownHalls (s : State) (t : Task) : List Nat :=
  t.halls.filter fun h => (hallCores h).all fun c => (s.core c).loadId.isNone || (s.core c).loadId == some t.loadId

/-- Cancel the armed step change of a task that ends first, wherever R40 still allows (R42): with a write of 0 where it names
no other hall's change, else by arming the same count again without the task's halls. -/
def State.cancelArm (s : State) (t : Task) : State :=
  match s.clk.armAt with
  | none => s
  | some n =>
    let mine := s.ownHalls t
    let rest := s.clk.armSteps.zipIdx.map fun p => if mine.contains p.2 then (s.hall p.2).stepCur else p.1
    if rest.zipIdx.all fun p => p.1 == (s.hall p.2).stepCur then (s.armWrite 0).1
    else if rest = s.clk.armSteps then s
    else (s.arm rest n).1

/-- R37: RUNNING and LANDED cores of a live task in a hall below the program's minimum step halt with 0x32. -/
def State.stepCheckTask (s : State) (t : Task) : State :=
  t.cores.foldl (fun s c =>
    if (s.core c).runsTask && (s.core c).loadId == some t.loadId &&
        decide ((s.hall (hallOf c)).stepCur.toNat < t.minStep.toNat) then
      s.haltCore c 0x32 (s.core c).pc .none 0
    else s) s

def State.stepCheck (s : State) : State :=
  s.tasks.foldl (fun s t => if t.live then s.stepCheckTask t else s) s

/-- A hall that a teardown raises to S1 for its clear (R402). -/
def State.raising (s : State) (h : Nat) : Bool := s.parts.any fun p => p.2.tdHalls.contains h

/-- ARMED_STEP_CHANGE (R38, R41, R42): at the armed boundary the named steps apply to the halls that hold a task, and to those that
a teardown raises. -/
def xArmedStepChange (s : State) : State :=
  match s.clk.armAt with
  | none => s
  | some n =>
    if s.clk.treadCount < n then s else
    let s1 := { s with clk := { s.clk with armAt := none, armSteps := [] } }
    (s.clk.armSteps.zipIdx.foldl (fun s p =>
      if (s.holdsTask p.2 || s.raising p.2) && s.hallOn p.2 && !s.pwr.emergency then s.setStep p.2 p.1 else s) s1).stepCheck

/-! ### Fault records and crash capture (R233, R445) -/

def FaultEngine.code : FaultEngine → Nat
  | .of .control => 0 | .of .matrix => 1 | .of .vector => 2 | .of .stream => 3 | .of .message => 4 | .none => 15

/-- The 32 bytes of a fault record (Table 10.11). -/
def FaultRec.bytes (r : FaultRec) : List Byte :=
  leBytes 2 r.module.toNat ++ leBytes 1 r.core.toNat ++ leBytes 1 r.reason.toNat ++ leBytes 4 r.address.toNat ++
  leBytes 1 r.engine.code ++ leBytes 1 (b2n r.valid + 2 * b2n r.origin) ++ leBytes 2 0 ++ leBytes 4 r.round.toNat ++
  leBytes 4 r.tread.toNat ++ leBytes 4 r.stamp.toNat ++ leBytes 8 r.aux.toNat

def CoreSt.code : CoreSt → Nat
  | .off => 0 | .idle => 1 | .loaded => 2 | .running => 3 | .landed => 4 | .halted => 5 | .clearing => 6

/-- CORE_STAT (Table 3.12). -/
def State.coreStat (s : State) (c : Nat) : Nat :=
  (s.core c).reason.toNat * 16777216 + (s.coreBanner c).val * 65536 + b2n (isP c) * 32768 +
  b2n (s.enabled c) * 16384 + (s.coreState c).code

/-- CORE_STRM_STAT (Table 7.13). -/
def Core.strmStat (k : Core) : Nat := k.strmHwm * 1024 + k.elems.length

def TraceEntry.bytes (e : TraceEntry) : List Byte :=
  leBytes 4 e.round.toNat ++ leBytes 2 e.tread.toNat ++ leBytes 2 e.cycles.toNat ++ leBytes 4 e.firstPc.toNat ++
  leBytes 4 e.landPc.toNat

def PenAcc.bytes (p : PenAcc) : List Byte := leBytes 8 p.digest.toNat ++ leBytes 6 p.length.toNat ++ leBytes 2 0

/-- A core record of a capture: 4,352 bytes (R445). -/
def State.coreRecord (s : State) (c : Nat) : List Byte :=
  let k := s.core c
  let head := (match k.fault with | some r => r.bytes | none => zeros 32) ++
    (List.range 16).flatMap (fun i => leBytes 4 (tget 0 k.cc i).toNat) ++ leBytes 4 k.vflags.toNat ++
    leBytes 4 k.pc.toNat ++ leBytes 4 (s.coreStat c) ++ leBytes 4 k.strmStat ++
    (List.range 4).flatMap (fun i => leBytes 4 (tget 0 k.lcs i).toNat) ++
    (List.range 4).flatMap (fun i => (tget PenAcc.reset k.pens i).bytes)
  let tr := k.trace.reverse.flatMap TraceEntry.bytes
  head ++ zeros (256 - head.length) ++ tr ++ zeros (4096 - tr.length)

/-- The origin records of a task on the module in ascending stamp order, ties by core index; at most 8 (R239, R380). -/
def State.origins (s : State) (t : Task) : List FaultRec :=
  let l := t.cores.filterMap fun c => match (s.core c).fault with
    | some r => if r.origin then some r else none
    | none => none
  (sortBy (fun a b => decide (a.stamp.toNat < b.stamp.toNat) ||
    (a.stamp == b.stamp && decide (a.core.toNat ≤ b.core.toNat))) l).take 8

/-- A crash capture: module header and core records (R445). -/
def State.capture (s : State) (t : Task) : List Byte :=
  let o := (s.origins t).flatMap FaultRec.bytes
  leBytes 4 t.id.toNat ++ leBytes 2 t.cores.length ++ leBytes 1 (s.origins t).length ++ zeros 57 ++ o ++
  zeros (256 - o.length) ++ (sortBy (fun a b => decide (a ≤ b)) t.cores).flatMap s.coreRecord

/-! ### Aborts -/

/-- ABORT_CORE (R235, R236): the other cores of the task halt with 0x70, and the other members are told. -/
def State.abortCores (s : State) (t : Task) : State :=
  match t.origin with
  | none => s
  | some (reason, addr, stamp) =>
    (s.haltTask t 0x70 .none (abortAux reason addr stamp)).abortOut t reason addr stamp

def xAbortCore (task : BitVec 32) (s : State) : State :=
  match s.findTask task with
  | some t => if t.live then s.abortCores t else s
  | none => s

/-- A member that sees another task epoch halts its cores with 0x73 and aborts the task (R237, R294). -/
def State.epochAbort (s : State) (t : Task) : State := s.abortTask t 0x73 0x73

/-- The reason with which a member halts on an abort message: 0x71; a decision that halts every core of the task with
its own code (R237, R238) keeps that code (log 19), and the failed restore of a swap, a firmware decision with origin
reason 0x62, halts each member with 0x72 (R317). -/
def abortReason (origin : BitVec 8) (addr : BitVec 18) : BitVec 8 :=
  if origin = 0x72 ∨ origin = 0x74 then origin
  else if origin = 0x62 ∧ addr = noAddr then 0x72 else 0x71

/-- ABORT_MODULE (R236, R239). -/
def xAbortModule (task epoch : BitVec 32) (reason : BitVec 8) (addr : BitVec 18) (stamp : BitVec 32) (s : State) : State :=
  match s.findTask task with
  | none => s.discardMgmt
  | some t =>
    if !t.live then s
    else if t.epoch ≠ epoch then s.epochAbort t
    else
      let s1 := s.haltTask t (abortReason reason addr) .none (abortAux reason addr stamp)
      s1.updTask t.loadId fun t => { t with abortSent := true, releaseAt := none }

/-- Streams of a task that aborts: GENERATING ones become READY and PROMPTING ones QUEUED, with their context and
pending tokens unchanged (Table 16.6, R357). -/
def State.abortStreams (s : State) (t : Task) : State :=
  { s with streams := s.streams.map fun p =>
      if t.slots.any (fun q => q.2.toNat % 65536 == p.1 && q.2.toNat / 65536 == p.2.gen.toNat) then
        (p.1, { p.2 with slot := none, placed := 0, st := match p.2.st with
          | .generating => .ready
          | .prompting => .queued
          | x => x })
      else p }

/-- The load report of a load that fails by no check of Table 10.8 (R228). DESIGN CHOICE (log 44): check 0, and no core,
section or item concerned. -/
def noCheck : LoadReport :=
  { check := 0, core := 0xFFFF, section_ := 0xFFFF, item := 0xFFFF, shortfall := 0, coreShort := 0, layer := 0, gref := 0,
    failedMember := 0 }

/-- Event log reference of the newest entry, in the view of the function's banner (R375, R443). -/
def State.newRef (s : State) (f : FnId) (b : Banner) : BitVec 32 :=
  match s.diag.buf.head? with
  | some e => if s.isMgmt f then e.seq else BitVec.ofNat 32 (tget 0 e.views b.val)
  | none => 0

/-- Final replies to commands ended with a status: a load's carries its load report (R228). -/
def State.endAll (s : State) (l : List Accepted) (st : BitVec 16) : State :=
  l.foldl (fun s a => s.finish a.ref st (if a.opcode = 0x0301 then .loadReport none noCheck 0 0 else .none)) s

/-- Commands that wait for a task: those still pending reply TASK_ABORTED (Table 17.10), the aborts OK. -/
def State.faultReplies (s : State) (t : Task) : State :=
  let s1 := s.finishAll t.abortRef stOk .none
  let s2 := s1.finishAll (t.unloadRef ++ (match t.swap with | some w => w.ref.toList | none => []))
    stTaskAborted .none
  let s2 := s2.finishAll t.loadRef.toList stTaskAborted (.loadReport none noCheck 0 0)
  s2.updTask t.loadId fun t => { t with abortRef := [], unloadRef := [], loadRef := none, swap := none }

/-- The record a task fault event carries, and how many origin records the member holds (R380). -/
def State.faultRecord (s : State) (t : Task) : Option FaultRec × Nat :=
  match s.origins t with
  | r :: l => (some r, l.length + 1)
  | [] => ((sortBy (fun a b => decide (a ≤ b)) t.cores).head?.bind fun c => (s.core c).fault, 0)

/-- The message windows of a task's cores are released when it ends (R271). -/
def State.releaseWindows (s : State) (t : Task) : State :=
  { s with windows := s.windows.map fun (p : Nat × List (Nat × Win)) => (p.1, p.2.filter fun w => !t.cores.contains (w.1 % 256)) }

/-- A task whose cores have all halted (R240): the other members are told if they were not yet (R236), crash capture,
clear of every core, FAULTED, and the event. The lead lists up to 8 origin records in ascending stamp order (R239; DESIGN
CHOICE, log 44: since a body of Table 20.5 holds one record, by an entry for each). -/
def State.faultTask (s : State) (t : Task) : State :=
  let (fr, n) := s.faultRecord t
  let cap := s.capture t
  let os := (if s.isLead t then s.origins t else []).drop 1
  let s0 := (match t.origin with | some (reason, addr, stamp) => s.abortOut t reason addr stamp | none => s).cancelArm t
  let s1 := s0.updPart t.banner fun p => { p with crash := some (t.id, cap), capCores := t.cores.length }
  let s2 := t.cores.foldl (fun s c => s.clearCore c) s1
  let s3 := (s2.abortStreams t).updTask t.loadId fun t => { t with
    st := .faulted, releaseAt := none, slots := [], fault := fr }
  let s4 := match fr with
    | some r => (r :: os).foldl (fun (s : State) (x : FaultRec) => s.log 4 2 t.id.toNat (some t.banner) 0 (bodyWords x.bytes))
        (s3.postEvent t.banner (.taskFault t.id t.banner n t.member r))
    | none => s3
  (s4.releaseWindows t).faultReplies t

/-- TASK_FAULT (R240). -/
def xTaskFault (task : BitVec 32) (s : State) : State :=
  match s.findTask task with
  | none => s
  | some t => if t.live && t.cores.all (fun c => (s.core c).st == .halted) then s.faultTask t else s

/-- Abort a task at once for a decision of the host or firmware, its cores halted and its fault taken (R237, R240). -/
def State.killTask (s : State) (t : Task) (reason originReason : BitVec 8) : State :=
  if t.live then
    let s1 := s.abortTask t reason originReason
    match s1.findLoad t.loadId with
    | some t1 => s1.faultTask t1
    | none => s1
  else s

/-! ### The end of a task, landings and releases -/

/-- An entry of the PENNANTS section (R224). -/
def Expected.bytes (e : Expected) : List Byte :=
  leBytes 4 e.round.toNat ++ leBytes 2 e.layer.toNat ++ leBytes 1 e.core.toNat ++ leBytes 1 e.acc.toNat ++ leBytes 8 e.digest.toNat ++ zeros 16

/-- Expected pennants of a closed round without a record (Table 20.3). -/
def State.penMissing (s : State) (t : Task) : State :=
  let miss := t.expected.filter fun e => e.round.toNat == t.round && !e.seen
  match miss with
  | [] => s
  | e :: _ =>
    (s.updPart t.banner fun p => p.updPen t.id fun x => { x with missing := satAdd 65535 x.missing miss.length }).log 4 3 t.id.toNat
      (some t.banner) 0 (bodyWords e.bytes)

/-- A core leaves its task at a normal end: IDLE, scratchpad kept (R241). -/
def Core.leave (k : Core) : Core := { k with st := .idle, loadId := none }

/-- A task ends normally (R241): its cores become IDLE and its grants are released. -/
def State.endTask (s : State) (t : Task) : State :=
  let s1 := t.cores.foldl (fun s c =>
    if (s.core c).loadId = some t.loadId then s.updCore c Core.leave else s) (s.cancelArm t)
  let s2 := (s1.abortStreams t).updTask t.loadId fun t => { t with
    st := .ended, releaseAt := none, slots := [], unloadRef := [], swap := none }
  let s4 := s2.finishAll (match t.swap with | some w => w.ref.toList | none => []) stTaskAborted .none
  (s4.releaseWindows t).finishAll t.unloadRef stOk .none

/-- The earliest release tread: the landing's first tread plus its declared length (R30), later where the arming margin
asks for it: a release is armed as a change is, 2 treads ahead on a module alone and 6 where it must still reach other
members (R39, log 20). -/
def State.releaseTread (s : State) (t : Task) : Nat :=
  let len := match t.kinds[t.kind]? with | some k => k.landing | none => 1
  max (t.landingAt + len) (s.clk.treadCount + if t.members.length ≤ 1 then 2 else 6)

/-- The lead releases a landing whose next kind is decided, once the serving work is done, no swap holds the landing
and SC1 runs (R30, R316, R352, R426). -/
def State.tryRelease (s : State) (t : Task) : State :=
  match t.decided with
  | none => s
  | some next =>
    let swapOn := match t.swap with | some w => w.go | none => false
    if t.st != .landing || t.releaseSent || swapOn || (t.serving.isSome && !t.served) || !s.rst.scRunning.contains 1 then s
    else
      let r := s.releaseTread t
      let next := if t.unload then none else next
      let ep := t.releaseEpoch.getD t.epoch
      (s.sendMembers t (.release t.id t.epoch ep next r)).updTask t.loadId fun t => { t with
        releaseAt := some r, releaseKind := next, releaseEpoch := some ep, releaseSent := true }

/-- The exit outcomes of the module's own cores with its readiness (R238). -/
def State.ownReport (s : State) (t : Task) : MemberReport :=
  { member := t.member, outcomes := t.cores.map fun c => (s.globalAddr c, (s.core c).exitOut.isSome),
    ready := t.serving.isNone || t.served, rangeBase := (s.part t.banner).rangeBase, rangeCount := (s.part t.banner).rangeCount,
    freePages := if t.serving.isSome then (s.freePages t.banner).length else 0,
    nearLost := t.serving.isSome && (s.part t.banner).nearLost }

/-- The lead's comparison of all outcomes (R238): the next kind, or the address that diverged. -/
def decideExits (t : Task) (l : List (BitVec 18 × Bool)) : Except (BitVec 18) (Option Nat) :=
  let s := sortBy (fun (a b : BitVec 18 × Bool) => decide (a.1.toNat ≤ b.1.toNat)) l
  match s with
  | [] => .ok none
  | (a, o) :: rest =>
    match rest.find? (fun p => p.2 != o) with
    | some p => .error p.1
    | none =>
      match t.kinds[t.kind]? with
      | none => .ok none
      | some k => if o then (if k.exitRound then .ok k.next1 else .error a) else .ok k.next0

/-- R345, R353, R359: the lead compares the stream table ranges that the members of a serving task report, each member's last
report with its own, and keeps their free pages and which of them have lost their near tier. A difference is logged when it
begins. -/
def State.rangeCheck (s : State) (t : Task) (l : List MemberReport) : State :=
  let p := s.part t.banner
  let off := if t.serving.isNone then p.rangeOff else l.foldl (fun (o : List Nat) r =>
    if r.rangeBase != p.rangeBase || r.rangeCount != p.rangeCount then insNat r.member o else o.filter (· != r.member)) p.rangeOff
  let differ := !off.isEmpty
  let pages := (l.filter fun r => t.serving.isSome && r.member != t.member).foldl (fun q r => tset q r.member r.freePages) p.memberPages
  let lost := (l.filter fun r => t.serving.isSome && r.nearLost).foldl (fun q r => insNat r.member q) p.lostMembers
  let s1 := s.setPart t.banner { p with rangesDiffer := differ, rangeOff := off, memberPages := pages, lostMembers := lost }
  if differ && !p.rangesDiffer then s1.log 1 0x0B t.banner.val none 0 [p.rangeBase, p.rangeCount] else s1

/-- LANDING_REPORT (R238): every member's report, its own included, then the choice of the release. -/
def xLandingReport (task epoch : BitVec 32) (r : MemberReport) (s : State) : State :=
  match s.findTask task with
  | none => s.discardMgmt
  | some t =>
    if !t.live then s
    else if t.epoch ≠ epoch then s.epochAbort t
    else if t.st != .landing || !s.isLead t || t.decided.isSome then s
    else
      let r := if r.member = t.member then s.ownReport t else r
      let reports := if t.reports.any (fun x => x.member == r.member) then
          updFirst (fun x => x.member == r.member) (fun _ => r) t.reports else t.reports ++ [r]
      let s1 := (s.updTask t.loadId fun t => { t with reports := reports }).rangeCheck t reports
      if !((List.range (max 1 t.members.length)).all fun m => reports.any fun x => x.member == m && (x.ready || m == t.member)) then s1
      else
        match decideExits t (reports.flatMap (·.outcomes)) with
        | .error a =>
          let stamp := BitVec.ofNat 32 s.clk.treadCount
          (s1.haltTask t 0x74 .none (abortAux 0x74 a stamp)).abortOut t 0x74 a stamp
        | .ok next =>
          let t2 := { t with reports := reports, decided := some next }
          (s1.updTask t.loadId fun t => { t with decided := some next }).tryRelease t2

/-- The end of a copied swap when its landing is released (R316): with the epoch increased, the reference names the new
image, streams of its model name it, and the command replies OK. -/
def State.settleSwap (s : State) (t : Task) (applied : Bool) : State :=
  match t.swap with
  | none => s
  | some w =>
    if !w.copied || !applied then s else
    let s1 := s.updTask t.loadId fun t => { t with
      swap := none, grefs := t.grefs.zipIdx.map fun (p : GRef × Nat) => if p.2 = w.gref then { p.1 with slot := w.slot } else p.1 }
    let s2 := { s1 with streams := s1.streams.map fun (p : Nat × StreamEntry) =>
      if p.2.banner = t.banner ∧ p.2.st ≠ StreamSt.free ∧ p.2.model = (s.slot w.slot).model then
        (p.1, { p.2 with image := BitVec.ofNat 3 w.slot }) else p }
    s2.finishAll w.ref.toList stOk .none

/-- A core begins a round (R30, R188): at EXIT's target, with loop levels and return stack cleared, or on. -/
def Core.beginRound (k : Core) : Core :=
  let k1 := match k.exitOut with
    | some a => { k with pc := a, fetchBuf := [], loops := [], lcs := [], retStack := [] }
    | none => k
  { k1 with st := .running, treadSt := .open_, exitOut := none, firstPc := none }

/-- LANDING_RELEASE (R30, R41, R241): at the release tread, once every step change and other shadowed change of that tread
is applied, the next round begins at its tread 0, or the task ends. -/
def xLandingRelease (task : BitVec 32) (s : State) : State :=
  match s.findTask task with
  | none => s
  | some t =>
    match t.releaseAt with
    | none => s
    | some r =>
      if s.clk.treadCount < r || !(t.st == .loaded || t.st == .landing) || s.stepDue || s.confDue then s else
      let s0 := s.settleSwap t (t.releaseEpoch.getD t.epoch != t.epoch)
      let s1 := if t.st == .landing then s0.penMissing t else s0
      match t.releaseKind with
      | none => s1.endTask t
      | some kind =>
        let ep := t.releaseEpoch.getD t.epoch
        let s2 := t.cores.foldl (fun s c =>
          if (s.core c).st = .loaded ∨ (s.core c).st = .landed then s.updCore c Core.beginRound else s) s1
        let s3 := s2.updTask t.loadId fun t => { t with
          st := .running, round := if t.st == .landing then t.round + 1 else 0, kind := kind, tread := 0, epoch := ep,
          releaseAt := none, releaseKind := none, releaseEpoch := none, releaseSent := false, reports := [],
          decided := none, served := false }
        s3

/-- The load report of a successful load: every field is zero (R228). -/
def LoadReport.zero : LoadReport :=
  { check := 0, core := 0, section_ := 0, item := 0, shortfall := 0, coreShort := 0, layer := 0, gref := 0, failedMember := 0 }

/-- A loaded task gets its identifier and epoch, and the load replies OK (R230, R228). -/
def State.giveId (s : State) (t : Task) (id epoch : BitVec 32) : State :=
  let s1 := (s.updTask t.loadId fun t => { t with id := id, epoch := epoch, st := .loaded, loadRef := none }).updPart t.banner
    fun p => { p with penTask := id, pens := tset p.pens id.toNat PenLog.reset }
  s1.finishAll t.loadRef.toList stOk (.loadReport none LoadReport.zero id epoch)

/-- The member's task a release names: the task of that identifier, or for round 0 the first loaded one that has none
yet, which takes the identifier and epoch (R230, log 21). -/
def State.releaseTask (s : State) (task epoch : BitVec 32) : State × Option Task :=
  match s.findTask task with
  | some t => (s, some t)
  | none =>
    match s.tasks.find? (fun t => t.st == .loaded && t.id == 0) with
    | some t =>
      if task = 0 then (s, none) else
      let s1 := s.giveId t task epoch
      (s1, s1.findLoad t.loadId)
    | none => (s, none)

/-- RELEASE_MESSAGE (R30, R32, R237): a member arms r, or halts with 0x31 when r has begun or begins within the next
tread. -/
def xReleaseMessage (task epoch newEpoch : BitVec 32) (kind : Option Nat) (r : Nat) (s : State) : State :=
  match s.releaseTask task epoch with
  | (s1, none) => s1.discardMgmt
  | (s1, some t) =>
    if !t.live then s1
    else if t.epoch ≠ epoch then s1.epochAbort t
    else if r ≤ s1.clk.treadCount + 1 then s1.haltTask t 0x31 .none 0
    else s1.updTask t.loadId fun t => { t with releaseAt := some r, releaseKind := kind, releaseEpoch := some newEpoch }

/-- LANDING_HOLD_LIMIT (R32). -/
def xLandingHoldLimit (task : BitVec 32) (s : State) : State :=
  match s.findTask task with
  | none => s
  | some t =>
    if t.st == .landing && t.releaseAt.isNone && decide (t.landingAt + 1000000 ≤ s.clk.treadCount) then
      s.haltTask t 0x31 .none 0
    else s

/-- A step change of a task is cancelled: the task keeps the step of its halls, and a round 0 that waited for the change
loses its release (R39). -/
def State.dropArm (s : State) (t : Task) : State :=
  (s.cancelArm t).updTask t.loadId fun t =>
    if t.st = .loaded then { t with releaseAt := none }
    else { t with step := match t.halls with | h :: _ => (s.hall h).stepCur | [] => t.step }

/-! ### Requests for a step (R39, R40, R458) -/

/-- A hall of a partition with a hall that a thermal throttle holds (R460). -/
def State.hotHall (s : State) (h : Nat) : Bool :=
  s.pwr.throttle && s.pwr.throttleHalls.any fun x =>
    x == h || ((s.hall x).assigned && (s.hall h).assigned && (s.hall x).banner == (s.hall h).banner)

/-- A task may be asked for a step up or down: never below its minimum, nor above the grade's highest step or the step to
which a throttle or an emergency holds its halls (R458). -/
def State.mayMove (s : State) (t : Task) (up : Bool) : Bool :=
  if up then decide (t.step.toNat < maxStep s.otp.grade) && !(t.halls.any s.hotHall) && !(s.pwr.emergency && t.step != 0)
  else decide (t.minStep.toNat < t.step.toNat)

/-- The step that a request asks of a task: one from the step it has. A second request of the same tread, while the first is
still armed, is counted from the step the task's halls run at, and the lower of the two is asked (Table 21.8). -/
def State.askedStep (s : State) (t : Task) (up : Bool) : BitVec 3 :=
  let one (x : BitVec 3) : BitVec 3 := if up then x + 1 else x - 1
  match s.clk.armAt, t.halls with
  | some n, h :: _ =>
    let now := (s.hall h).stepCur
    if n = s.clk.treadCount + 6 ∧ now ≠ t.step then (if (one now).toNat < t.step.toNat then one now else t.step) else one t.step
  | _, _ => one t.step

/-- A request for a task's step: the lead arms it on every member, another member asks the lead. One that meets an armed
change pending for another tread is not made now; requests of one tread are armed together (R465). -/
def State.askStep (s : State) (t : Task) (up : Bool) : State × Bool :=
  let st := s.askedStep t up
  if !s.isLead t then (s.sendMgmt (BitVec.ofNat 10 t.leadAddr) (.stepRequest ⟨t.id, t.epoch⟩ up), true)
  else if s.clk.armAt.any (fun n => n != s.clk.treadCount + 6) || s.pwr.emergency then (s, false)
  else
    let n := s.clk.treadCount + 6
    let (s1, ok) := s.armTask t.halls st n
    if ok then ((s1.updTask t.loadId fun t => { t with step := st }).sendMembers t (.armNotice t.id t.epoch n st), true) else (s1, false)

/-- ARMED_CHANGE_NOTICE (R39): a member arms the step of its halls for tread n, or cancels it; it reports a refusal to the
lead, and the lead then cancels the change on every module of the task. A member's request for a step comes to the lead the
same way, and the lead arms it on every member (R458). -/
def xArmedChangeNotice (task epoch : BitVec 32) (what : ArmNotice) (step : BitVec 3) (s : State) : State :=
  match s.findTask task with
  | none => s.discardMgmt
  | some t =>
    if !t.live then s
    else if t.epoch ≠ epoch then s.epochAbort t
    else match what with
      | .cancel => s.dropArm t
      | .refused => if s.isLead t then (s.dropArm t).sendMembers t (.armCancel t.id t.epoch) else s
      | .ask up => if s.isLead t && s.mayMove t up then (s.askStep t up).1 else s
      | .arm n =>
        let (s1, ok) := s.armTask t.halls step n
        if ok then s1.updTask t.loadId fun t => { t with step := step }
        else s1.sendMgmt (BitVec.ofNat 10 t.leadAddr) (.armRefused t.id t.epoch)

/-- The lead arms a task's step and chooses the release of round 0 (R230): the tread after the change. A change that is
pending for another task is joined where its count leaves the margin of R39, and otherwise waited for, since the module has
one pending change (R38). -/
def State.startTask (s : State) (t : Task) : State :=
  if t.st != .loaded || t.id == 0 || t.releaseAt.isSome || !s.isLead t then s else
  let least := s.clk.treadCount + 2 + if t.members.length ≤ 1 then 0 else 6
  let n := s.clk.armAt.getD least
  if n < least then s else
  let (s1, ok) := s.armTask t.halls t.step n
  if !ok then s1 else
  let s2 := (s1.sendMembers t (.taskStart t.banner t.id t.epoch t.firstKind (n + 1))).sendMembers t
    (.armNotice t.id t.epoch n t.step)
  s2.updTask t.loadId fun t => { t with releaseAt := some (n + 1), releaseKind := some t.firstKind, releaseEpoch := some t.epoch }

def execArmedStepChange (s : State) : Out := .next (xArmedStepChange s)
def execAbortCore (task : BitVec 32) (s : State) : Out := .next (xAbortCore task s)
def execAbortModule (task epoch : BitVec 32) (reason : BitVec 8) (addr : BitVec 18) (stamp : BitVec 32) (s : State) : Out :=
  .next (xAbortModule task epoch reason addr stamp s)
def execTaskFault (task : BitVec 32) (s : State) : Out := .next (xTaskFault task s)
def execLandingReport (task epoch : BitVec 32) (r : MemberReport) (s : State) : Out := .next (xLandingReport task epoch r s)
def execLandingRelease (task : BitVec 32) (s : State) : Out := .next (xLandingRelease task s)
def execReleaseMessage (task epoch newEpoch : BitVec 32) (kind : Option Nat) (r : Nat) (s : State) : Out :=
  .next (xReleaseMessage task epoch newEpoch kind r s)
def execLandingHoldLimit (task : BitVec 32) (s : State) : Out := .next (xLandingHoldLimit task s)
def execArmedChangeNotice (task epoch : BitVec 32) (what : ArmNotice) (step : BitVec 3) (s : State) : Out :=
  .next (xArmedChangeNotice task epoch what step s)

end Sys2Proof.Machine
end

