-- ==== Sys2Proof/Machine/ResetReq.lean ====
section
/-! DEFINITION. Asking for a reset (R413, R419, R421, R422): what is recorded before it takes effect. -/

namespace Sys2Proof.Machine

/-- Reach order of the classes (Table 19.2): a later one reaches all that an earlier one does. -/
def RstClass.rank : RstClass → Nat
  | .warm => 0 | .clock => 1 | .full => 2 | .cold => 3

def RstClass.join (a b : RstClass) : RstClass := if a.rank ≤ b.rank then b else a

/-- Bits of RST_CAUSE (Table 19.9). -/
abbrev causePor : BitVec 10 := 0x001
abbrev causeBor : BitVec 10 := 0x002
abbrev causePin : BitVec 10 := 0x004
abbrev causeWdt : BitVec 10 := 0x008
abbrev causeWdtSys : BitVec 10 := 0x010
abbrev causeSwr : BitVec 10 := 0x020
abbrev causeDbg : BitVec 10 := 0x040
abbrev causeCkf : BitVec 10 := 0x080
abbrev causeLck : BitVec 10 := 0x100
abbrev causeCmd : BitVec 10 := 0x200

/-- The sources whose cause names a service core (R416, Table 19.9). -/
def namesCore (c : BitVec 10) : Bool := c.getLsbD 3 || c.getLsbD 8

/-- A gallery pulse, a page program or a sector erase is in flight (R421). -/
def State.pulsing (s : State) : Bool := s.gal.pulse || s.flashBusy

/-- A sector erase is suspended within 50 microseconds of a reset (R421). -/
def State.suspendErase (s : State) : State :=
  match s.diag.work.erasing with
  | none => s
  | some (n, t) =>
    let now := s.clk.treadCount
    { s with diag := { s.diag with work := { s.diag.work with erasing := some (n, min t (now + Config.flashTreads now % 51)) } } }

/-- The aborts that precede a clock-class or warm-class reset (R419). -/
def State.resetAborts (s : State) : State :=
  s.tasks.foldl (fun s t =>
    if t.live then s.sendMembers t (.abort t.id t.epoch 0xFF noAddr (BitVec.ofNat 32 s.clk.treadCount)) else s) s

/-- A reset of the full, clock or warm class is asked for: it merges with one that waits, is held while a program
pulse is in flight, and for the clock and warm classes waits for the second boundary after the aborts, which go out once no
pulse is in flight (R419, R421, Table 19.7). While the supply is off a cold reset is in effect, and one of the full class
merges with it: its cause is recorded (R422); the sources of the others have no power. -/
def State.askReset (s : State) (cls : RstClass) (cause : BitVec 10) (sc : BitVec 4) (ckfPll : Bool) : State :=
  if s.rst.off then
    if cls = .full then { s with rst := { s.rst with causes := s.rst.causes ||| cause } } else s
  else
  let held := s.pulsing
  let early := cls.rank ≤ 1
  match s.rst.pend with
  | some p =>
    let cls1 := p.cls.join cls
    let at1 := if cls1.rank ≤ 1 then p.at_ else none
    let p1 := { p with cls := cls1, causes := p.causes ||| cause, sc := if namesCore cause then sc else p.sc, ckfPll := p.ckfPll || ckfPll, held := p.held || held, at_ := at1 }
    { s with rst := { s.rst with pend := some p1 } }
  | none =>
    let s1 := if early && !held then s.resetAborts else s.suspendErase
    let at1 := if early && !held then some (s.clk.treadCount + 2) else none
    let p : PendReset := { cls := cls, causes := cause, sc := sc, ckfPll := ckfPll, borRail := false, held := held, at_ := at1 }
    { s1 with rst := { s1.rst with pend := some p } }

/-- The pulses that held a reset have ended: the aborts of a clock-class or warm-class one go out. -/
def State.heldReset (s : State) : State :=
  match s.rst.pend with
  | none => s
  | some p =>
    if 2 ≤ p.cls.rank || p.at_.isSome || s.flashBusy then s
    else
      let s1 := s.resetAborts
      { s1 with rst := { s1.rst with pend := some { p with at_ := some (s.clk.treadCount + 2) } } }

end Sys2Proof.Machine
end

