-- ==== Sys2Proof/Machine/Frame.lean ====
section
/-! DEFINITION. The frame of a link (R257 to R259, R261, R267): slots, payloads, keys, and what a bank sends in a slot. -/

namespace Sys2Proof.Machine

/-! ### Slots (R257) -/

def isControl (p : Nat) : Bool := p == 0 || p == 113 || p == 226
def isUnscheduled (p : Nat) : Bool := p % 4 == 3
def isScheduled (p : Nat) : Bool := !isControl p && !isUnscheduled p

/-- Scheduled index of a slot: how many scheduled slots lie below it. -/
def schedIndex (p : Nat) : Nat := ((List.range p).filter isScheduled).length

/-- Slot of a scheduled index. -/
def schedSlot (i : Nat) : Nat := ((List.range 339).filter isScheduled).getD i 339

/-- A slot counted over all treads. -/
def slotTime (tread p : Nat) : Nat := tread * 339 + p

/-! ### Payloads -/

/-- Kind field of a header (Table 12.2). -/
def frameCode : FrameKind → Nat
  | .schedHead => 0 | .schedData => 1 | .management => 2 | .bulkHead => 3 | .bulkData => 4 | .status => 5 | .training => 6
  | .reserved => 7

/-- The mesh packet header in a head frame (Tables 11.1 and 12.4): length, part, parts, mcast and mask are 0. -/
def headMesh (h : HeadInfo) (bulk : Bool) : Nat :=
  h.kind.toNat * 2 ^ 124 + (if bulk then 3 else 0) * 2 ^ 122 + h.banner.val * 2 ^ 119 + h.source.toNat * 2 ^ 95 +
  h.sequence.toNat * 2 ^ 79 + h.rcc.toNat * 2 ^ 75 + h.dest.toNat * 2 ^ 44 + h.slot.toNat * 2 ^ 32 + h.address.toNat

/-- A head frame's payload (Table 12.4). -/
def headBytes (h : HeadInfo) (bulk : Bool) : List Byte :=
  leBytes 16 (headMesh h bulk) ++ leBytes 8 h.deadline ++ leBytes 1 (h.flits - 1) ++ leBytes 2 h.destMod.toNat ++
  leBytes 1 (b2n h.twoHops + 2 * b2n h.forwarded) ++ zeros 36

/-- A status frame's payload (Table 12.3). -/
def statusBytes (p : StatusPayload) : List Byte :=
  let naks := p.naks.flatMap fun (e : NakEntry) => leBytes 3 (e.seq.toNat + 65536 * e.cls.val)
  leBytes 8 p.tread ++ leBytes 2 p.slot ++ p.sent.flatMap (fun x => leBytes 2 x.toNat) ++ p.ack.flatMap (fun x => leBytes 2 x.toNat) ++
  leBytes 2 p.bulkCredit ++ leBytes 1 (b2n p.mgmtFree) ++ leBytes 1 (b2n p.rekeyArm + 2 * b2n p.teardown) ++ leBytes 8 p.rekeyAt ++
  leBytes 1 (b2n p.rekeyEpoch) ++ leBytes 1 p.naks.length ++ (naks ++ zeros 24).take 24 ++ zeros 4

/-- Data padded with zeros to a frame's 64 bytes. -/
def padFrame (d : List Byte) : List Byte := (d ++ zeros 64).take 64

/-- The 64 bytes of a payload; `free` are those of a management packet and of a training frame, whose layout the manual does
not give (log 47). -/
def FrameBody.bytes (b : FrameBody) (kind : FrameKind) (free : List Byte) : List Byte :=
  match b with
  | .head h => headBytes h (kind == .bulkHead)
  | .data d => padFrame d
  | .status p => statusBytes p
  | .management _ _ | .training => free

/-- 64 free bytes. -/
def State.freeBytes (s : State) : List Byte := (List.range 64).map fun i => BitVec.ofNat 8 (Config.freeNat s.fresh i)

/-! ### Numbers and keys (R259, R272) -/

/-- Classes of sequence numbers; status frames count as class 3 (R259). -/
def frameClass : FrameKind → Option (Fin 3)
  | .schedHead | .schedData => some 0
  | .management => some 1
  | .bulkHead | .bulkData => some 2
  | _ => none

/-- The epoch bit that frames and LINK_STAT show. -/
def Link.epoch (k : Link) : Bool := k.epochNo % 2 == 1
def Link.rxEpoch (k : Link) : Bool := k.rxEpochNo % 2 == 1

/-- The frame counter of a number in the current epoch; its low 16 bits are the link sequence number (R259). No number sent in
the epoch lies below its base. -/
def Link.counterOf (k : Link) (cls n : Nat) : Nat := n - tget 0 k.epochBase cls

/-- The lowest number of a class that is still to be sent: of a message part sent, or the next. -/
def Link.lowUnsent (k : Link) (cls : Nat) : Nat :=
  let own := (k.txQ.filter fun m => decide (0 < m.placed) && decide ((if m.bulk then 2 else 0) = cls)).map fun m => m.base + m.placed
  let fwd := if cls = 0 then k.blocks.map (·.2.1) else []
  (own ++ fwd).foldl min (tget 0 k.txSeq cls)

/-- Frames of a class sent in the current key epoch. -/
def Link.inEpoch (k : Link) (cls : Nat) : Nat := k.counterOf cls (tget 0 k.txSeq cls)

/-- The next frame of a class: its header, and payload and tag under the key of the epoch (Table 12.1, R259). -/
def Link.frame (k : Link) (cls : Nat) (kind : FrameKind) (body : FrameBody) (free : List Byte) (n : Nat) : TxFrame :=
  let hdr := leBytes 2 (frameCode kind * 8192 + b2n k.epoch * 4096 + n % 4096)
  let key := Config.linkKey (k.secret.getD 0) true k.epochNo
  let iv := BitVec.ofNat 96 (key.2.toNat * 2 ^ 64 + cls * 2 ^ 62 + k.counterOf cls n)
  { kind := kind, seq := n, body := body, bytes := hdr ++ Config.gcmFrame key.1 iv hdr (body.bytes kind free) }

/-- A training frame: in cleartext, with its CRC-64 (Table 12.1). -/
def trainingFrame (free : List Byte) : TxFrame :=
  let b := leBytes 2 (frameCode .training * 8192) ++ free
  { kind := .training, seq := 0, body := .training, bytes := b ++ leBytes 8 (crc64 0 b).toNat }

/-- A frame goes out under its number. -/
def Link.emit (k : Link) (cls : Nat) (kind : FrameKind) (body : FrameBody) (free : List Byte) (n : Nat) : Link :=
  { k with sentHi := tset k.sentHi cls (max (tget 0 k.sentHi cls) (n + 1)), lastTx := some (k.frame cls kind body free n) }

/-- Send the next frame of a class: it takes the next number (R260). -/
def Link.send (k : Link) (cls : Nat) (kind : FrameKind) (body : FrameBody) (free : List Byte) : Link :=
  let n := tget 0 k.txSeq cls
  { (k.emit cls kind body free n) with txSeq := tset k.txSeq cls (n + 1) }

/-- A sender rekeys when a counter reaches 2^31 in the epoch; during an overlap the request waits (R272). -/
def Link.autoRekey (k : Link) (now : Nat) : Link :=
  if k.rekeyAt.isSome || !([0, 1, 2, 3].any fun c => decide (2147483648 ≤ k.inEpoch c)) then k
  else if k.txOverlap.isSome then { k with rekeyAsk := true }
  else { k with rekeyAt := some (now + 16) }

/-- A counter that reaches 2^32 tears the link down (R272). -/
def Link.exhausted (k : Link) : Bool := [0, 1, 2, 3].any fun c => decide (4294967296 ≤ k.inEpoch c)

/-! ### Status frames (R261, R262) -/

/-- The lost frames a status frame reports: those not yet reported first, then the others again. -/
def Link.nakList (k : Link) : List LostFrame :=
  ((k.lost.filter fun x => !x.nakSent) ++ k.lost.filter fun x => x.nakSent).take 8

/-- The payload of a status frame in slot `p`. -/
def Link.status (k : Link) (now p : Nat) (teardown : Bool) : StatusPayload :=
  { tread := if isControl p then now else 0, slot := p,
    sent := [0, 1, 2].map fun c => BitVec.ofNat 16 (tget 0 k.sentHi c + 65535),
    ack := [0, 1, 2].map fun c => BitVec.ofNat 16 (tget 0 k.rxAck c),
    bulkCredit := min 65535 k.bulkFreed, mgmtFree := k.mgmtFree, rekeyArm := k.rekeyAt.isSome, teardown := teardown,
    rekeyAt := k.rekeyAt.getD 0, rekeyEpoch := k.rekeyAt.isSome && !k.epoch,
    naks := k.nakList.map fun (x : LostFrame) => { seq := BitVec.ofNat 16 x.seq, cls := x.cls } }

/-- A status frame goes out: its NAKs count as sent, its credit as returned, and the management buffer, once its packet has
gone on, as free (log 23). -/
def Link.sendStatus (k : Link) (now p : Nat) : Link :=
  let naks := k.nakList
  let k1 := k.send 3 .status (.status (k.status now p false)) []
  { k1 with
    lost := k1.lost.map (fun (x : LostFrame) => if naks.contains x then { x with nakSent := true } else x),
    bulkFreed := k1.bulkFreed - min 65535 k1.bulkFreed, mgmtFree := true }

end Sys2Proof.Machine
end

