-- ==== Sys2Proof/Machine/RefCal.lean ====
section
/-! DEFINITION. Timing reference, time faults and the calendar (R45 to R54). -/

namespace Sys2Proof.Machine

/-! ### The reference (R45 to R48) -/

def srcOf : RefCand → RefSource
  | .l62 => .l62 | .l63 => .l63 | .tref => .tref

/-- Candidates of a CLK_MODE, highest priority first (Table 2.6). -/
def candidates (mode : BitVec 2) : List RefCand :=
  match mode.toNat with
  | 1 => [.tref]
  | 2 => []
  | _ => [.l62, .l63, .tref]

/-- CLK_CAL_STAT (Table 2.17). -/
def Clk.crossStat (c : Clk) : Nat := b2n c.calDone * 128 + b2n c.calFail * 64 + c.kindFail.toNat

def Clk.qual (c : Clk) : RefCand → Bool
  | .l62 => c.qual62 | .l63 => c.qual63 | .tref => c.qualTref

def Clk.setQual (c : Clk) (r : RefCand) (b : Bool) : Clk :=
  match r with
  | .l62 => { c with qual62 := b }
  | .l63 => { c with qual63 := b }
  | .tref => { c with qualTref := b }

/-- The number of a candidate in the presence tables. -/
def candCode : RefCand → Nat
  | .l62 => 0 | .l63 => 1 | .tref => 2

/-- The candidates the module has: those of its CLK_MODE, but for a beat whose link is in QUARANTINE (R284, Table 12.6). -/
def State.candsNow (s : State) : List RefCand :=
  (candidates s.rst.straps.clkMode).filter fun r => match r with
    | .l62 => (s.link 62).st != .quarantine
    | .l63 => (s.link 63).st != .quarantine
    | .tref => true

/-- The highest-priority qualified candidate. -/
def Clk.best (c : Clk) (cs : List RefCand) : Option RefCand := cs.find? c.qual

/-- Priority of a source: the place in the list of candidates. -/
def prio (mode : BitVec 2) (r : RefSource) : Nat := ((candidates mode).map srcOf).idxOf r

/-- The reference in use has been lost. -/
def Clk.sourceLost (c : Clk) : Bool :=
  match c.source with
  | .l62 => !c.qual62 | .l63 => !c.qual63 | .tref => !c.qualTref | .tcxo => false

/-- A switch begins (R47). DESIGN CHOICE: Table 2.14 gives REF_STAT.source no value for the time in which the reference in
use has been lost and the switch runs; the model leaves the lost reference there until the switch ends. Safe for counting:
nothing but REF_STAT reads the field in that time (log 38). -/
def Clk.beginSwitch (c : Clk) (b : RefCand) : Clk :=
  { c with refState := .switching, target := some (srcOf b), switchLeft := 64, targetLost := false, phaseValid := false }

/-- Lock to a source: the holdover timer stops, and REF_PHASE is valid where it is a beat (Tables 2.7, 2.15). DESIGN CHOICE (log 38):
until the first comparison REF_PHASE keeps the phase measured last. -/
def Clk.lock (c : Clk) (x : RefSource) : Clk :=
  { c with refState := .locked, source := x, target := none, holdRun := false, holdTimer := 0,
           phaseValid := x == .l62 || x == .l63 }

/-- The transitions of Table 2.7 that hold of the qualifications as they stand; `cs` are the candidates of the module. -/
def Clk.refStep (c : Clk) (mode : BitVec 2) (cs : List RefCand) : Clk :=
  match c.refState with
  | .acquire =>
    if mode = 2 then { c with refState := .free, source := .tcxo, target := none, holdRun := false, holdTimer := 0 }
    else match c.best cs with
      | some b => c.lock (srcOf b)
      | none => c
  | .locked =>
    if c.sourceLost then
      let c2 := { c with holdRun := true, holdTimer := 1, phaseValid := false }
      match c2.best cs with
      | some b => c2.beginSwitch b
      | none => { c2 with refState := .holdover, source := .tcxo, target := none }
    else match c.best cs with
      | some b => if prio mode (srcOf b) < prio mode c.source then c.beginSwitch b else c
      | none => c
  | .switching => c
  | .holdover =>
    match c.best cs with
    | some b => c.beginSwitch b
    | none => c
  | .free => c

def insertCand (r : RefCand) (l : List RefCand) : List RefCand := if l.contains r then l else r :: l

/-- The end of a tread for R46: the candidates of `cs` whose edge came count on, and the others count as absent. -/
def Clk.countPresence (c : Clk) (cs : List RefCand) : Clk :=
  let here (r : RefCand) : Bool := cs.contains r && c.edges.contains r
  { c with
    edges := [],
    presence := [RefCand.l62, .l63, .tref].map fun r => (candCode r, if here r then min 1000 (tget 0 c.presence (candCode r) + 1) else 0),
    absence := [RefCand.l62, .l63, .tref].map fun r => (candCode r, if here r then 0 else min 2 (tget 0 c.absence (candCode r) + 1)) }

/-- REF_STAT.qual_count (Table 2.14). -/
def Clk.qualCount (c : Clk) (cs : List RefCand) : Nat :=
  match cs.find? (fun r => !c.qual r && tget 0 c.presence (candCode r) != 0) with
  | some r => tget 0 c.presence (candCode r)
  | none => 0

/-- The reference at a tread boundary: the timers of R47 and R48 count, then the transitions. -/
def Clk.refTick (c : Clk) (mode : BitVec 2) (cs : List RefCand) : Clk :=
  let c1 := if c.holdRun then { c with holdTimer := BitVec.ofNat 16 (satAdd 65535 c.holdTimer.toNat 1) } else c
  let c2 := if c1.refState = .switching then { c1 with switchLeft := c1.switchLeft - 1 } else c1
  c2.refStep mode cs

/-- REFERENCE_QUALIFIED (R46, R47): a candidate present for 1,000 consecutive treads; the boundary that ended the last of
them is the one at which the module locks to it or begins a switch (Table 2.8). -/
def xReferenceQualified (r : RefCand) (s : State) : State :=
  if s.candsNow.contains r && decide (1000 ≤ tget 0 s.clk.presence (candCode r)) then
    { s with clk := (s.clk.setQual r true).refStep s.rst.straps.clkMode s.candsNow }
  else s

/-- REFERENCE_LOST (R46, R47): after 2 consecutive treads of absence the candidate loses its qualification. The loss of a
switch's target marks the switch; that of the reference in use starts the holdover timer. -/
def xReferenceLost (r : RefCand) (s : State) : State :=
  if tget 0 s.clk.absence (candCode r) < 2 then s else
  let c := s.clk.setQual r false
  let sw := c.refState == .switching
  let hit := sw && c.target == some (srcOf r)
  let old := sw && c.source == (srcOf r) && !c.holdRun
  let c1 := { c with targetLost := c.targetLost || hit, holdRun := c.holdRun || old,
                     holdTimer := if old then 1 else c.holdTimer }
  { s with clk := c1.refStep s.rst.straps.clkMode s.candsNow }

/-- REFERENCE_SWITCH_END (R47): after 64 treads, LOCKED to the target, or HOLDOVER when it was lost. DESIGN CHOICE: where a
revert's target is lost and the old reference never was, Table 2.7 says that the holdover timer keeps running though
nothing started it; the model starts it then, from 0 (log 38). -/
def xReferenceSwitchEnd (s : State) : State :=
  let c := s.clk
  if c.refState != .switching || c.switchLeft != 0 then s
  else match c.target, c.targetLost with
    | some t, false =>
      { s with clk := c.lock t }
    | _, _ => { s with clk := { c with refState := .holdover, source := .tcxo, target := none, holdRun := true } }

/-! ### Time faults (R49, R50) -/

def TimeCause.code : TimeCause → Nat
  | .count => 0 | .phase => 1 | .holdover => 2

/-- R50: the cores of every task on the module halt with 0x33, the other members are told, the cause is logged, and
the module stays out of its tasks. -/
def State.timeFault (s : State) (cause : TimeCause) : State :=
  let s1 := s.tasks.foldl (fun s t =>
    if t.live then
      (s.haltTask t 0x33 .none 0).abortOut t 0x33 noAddr (BitVec.ofNat 32 s.clk.treadCount)
    else s) s
  { (s1.log 3 0x0B 0x33 none 0 [cause.code]) with clk := { s1.clk with timeOut := true } }

/-- Locked to a beat (R49). -/
def Clk.onBeat (c : Clk) : Bool := c.refState == .locked && (c.source == .l62 || c.source == .l63)

def edgeCand : Edge → RefCand
  | .l62 _ => .l62 | .l63 _ => .l63 | .tref => .tref

/-- The edge is of the beat to which the module is locked. -/
def Clk.ownBeat (c : Clk) (e : Edge) : Bool := c.onBeat && c.source == srcOf (edgeCand e)

/-- BEAT (R46, R49, R50): an edge within tolerance makes its candidate present in this tread. One of the beat in use is
compared with the module's own count and phase (units of 10 ps); the limit is 40 ns. -/
def xBeat (e : Edge) (phase : Int) (s : State) : State :=
  let s0 := { s with clk := { s.clk with edges := insertCand (edgeCand e) s.clk.edges } }
  if !s.clk.ownBeat e then s0 else
  let s1 := { s0 with clk := { s0.clk with phaseValid := true, phasePs := BitVec.ofInt 16 phase } }
  match e with
  | .tref => s0
  | .l62 count | .l63 count =>
    let off : Option TimeCause :=
      if count ≠ s.clk.treadCount then some .count else if 4000 < phase.natAbs then some .phase else none
    let s2 := { s1 with clk := { s1.clk with beatOff := off } }
    match off with
    | some c => s2.timeFault c
    | none => s2

/-- HOLDOVER_LIMIT (R47, R48, R50): a time fault, then a clock-failure reset. -/
def xHoldoverLimit (s : State) : State :=
  if s.clk.holdRun && decide (40000 ≤ s.clk.holdTimer.toNat) then
    (s.timeFault .holdover).askReset .clock causeCkf 0 false
  else s

/-! ### The calendar (R51 to R54) -/

def leapYear (y : Nat) : Bool := (y % 4 == 0 && y % 100 != 0) || y % 400 == 0

def monthDays (y m : Nat) : Nat :=
  match m with
  | 2 => if leapYear y then 29 else 28
  | 4 | 6 | 9 | 11 => 30
  | _ => 31

/-- The ranges of R54. -/
def dateOk (y mo d h mi s : Nat) : Bool :=
  decide (2000 ≤ y) && decide (y ≤ 2399) && decide (1 ≤ mo) && decide (mo ≤ 12) && decide (1 ≤ d) &&
  decide (d ≤ monthDays y mo) && decide (h ≤ 23) && decide (mi ≤ 59) && decide (s ≤ 59)

/-- One second later; the last second is held (Table 2.9). -/
def Clk.nextSecond (c : Clk) : Clk :=
  if c.second < 59 then { c with second := c.second + 1 }
  else if c.minute < 59 then { c with second := 0, minute := c.minute + 1 }
  else if c.hour < 23 then { c with second := 0, minute := 0, hour := c.hour + 1 }
  else if c.day < monthDays c.year c.month then { c with second := 0, minute := 0, hour := 0, day := c.day + 1 }
  else if c.month < 12 then { c with second := 0, minute := 0, hour := 0, day := 1, month := c.month + 1 }
  else if c.year < 2399 then { c with second := 0, minute := 0, hour := 0, day := 1, month := 1, year := c.year + 1 }
  else { c with calSat := true }

/-- CALENDAR_SECOND (R51): 1,000,000 treads counted are one second; reaching the last second's end is logged. -/
def xCalendarSecond (s : State) : State :=
  if s.clk.subsec < 1000000 then s else
  let c := { s.clk with subsec := s.clk.subsec - 1000000 }
  let c1 := c.nextSecond
  let s1 := { s with clk := c1 }
  if c1.calSat && !c.calSat then s1.log 3 0x0B 0 none 0 [c1.year, c1.month, c1.day] else s1

/-- The calendar at a tread boundary: an accepted TIME.SET_CALENDAR takes effect (R52), or one tread is counted. -/
def Clk.calTick (c : Clk) : Clk :=
  match c.calSet with
  | some [y, mo, d, h, mi, se] =>
    { c with year := y, month := mo, day := d, hour := h, minute := mi, second := se, subsec := 0, calValid := true,
             calSat := false, calSet := none }
  | some _ => { c with calSet := none }
  | none => { c with subsec := c.subsec + 1 }

def execReferenceQualified (r : RefCand) (s : State) : Out := .next (xReferenceQualified r s)
def execReferenceLost (r : RefCand) (s : State) : Out := .next (xReferenceLost r s)
def execReferenceSwitchEnd (s : State) : Out := .next (xReferenceSwitchEnd s)
def execHoldoverLimit (s : State) : Out := .next (xHoldoverLimit s)
def execBeat (e : Edge) (phase : Int) (s : State) : Out := .next (xBeat e phase s)
def execCalendarSecond (s : State) : Out := .next (xCalendarSecond s)

end Sys2Proof.Machine
end

