-- ==== Sys2Proof/Machine/Training.lean ====
section
/-! DEFINITION. Links: teardown, training and the states of Table 12.6 (R274 to R279), with the cabling rule and the
manifest's part in IDENTIFY (R276, R281 to R284). -/

namespace Sys2Proof.Machine

/-! ### LINK_STAT and the event log -/

def LinkSt.code : LinkSt → Nat
  | .detect => 0 | .equalise => 1 | .align => 2 | .identify => 3 | .secure => 4 | .time => 5 | .active => 6
  | .quarantine => 7 | .absent => 8 | .off => 9

/-- LINK_STAT (Table 12.9). -/
def Link.stat (k : Link) : Nat :=
  k.st.code * 268435456 + k.cause.toNat * 16777216 + b2n k.epoch * 8388608 + b2n k.overlap * 4194304 +
  b2n k.polFixed * 2097152 + b2n k.laneSwap * 1048576 + k.laneFault.toNat * 65536 + k.failures.toNat * 1024 +
  k.backoff.toNat

/-- LINK_PEER (Table 12.10). -/
def Link.peer (k : Link) : Nat :=
  b2n k.peerValid * 2147483648 + k.peerLink.toNat * 1024 + k.peerRow.toNat * 32 + k.peerCol.toNat

/-- The partition that holds a link in its exclusive set (R390); a link of a partition that is being torn down is unassigned (R402). -/
def State.linkOwner (s : State) (l : Nat) : Option Banner :=
  (s.parts.find? fun p => p.2.valid && !p.2.teardown && p.2.links.getLsbD l).map fun p => Fin.ofNat 8 p.1

/-- Replace a link and log its change of state (Table 20.6, kind 0x05). -/
def State.linkTo (s : State) (l : Nat) (x : Link) : State :=
  let old := s.link l
  (s.setLink l x).logEvent 3 5 l (s.linkOwner l) [old.stat, x.stat, x.peer]

/-- The link carries frames under keys (R259). -/
def Link.up (k : Link) : Bool := k.st == .active || k.st == .quarantine

/-- States of training proper: DETECT to TIME. -/
def LinkSt.training : LinkSt → Bool
  | .detect | .equalise | .align | .identify | .secure | .time => true
  | _ => false

/-! ### Teardown (R278) -/

/-- The protocol state of a link is gone: buffers, credits, leases, sequence state, keys and the session secret. Lane
findings, counters and measurements of the last training stay until the next. -/
def Link.cleared (k : Link) : Link :=
  { k with
    epochNo := 0, secret := none, overlap := false, peerValid := false, peerMaster := false, quarMark := none, txSeq := [], sentHi := [], blocks := [], held := [],
    txQ := [], fwd := [], bulkCred := 0, partnerMgmtFree := false, rekeyAt := none, rekeyAsk := false, txOverlap := none,
    epochBase := [], rxAck := [], rxSeen := [], lost := [], rxMsgs := [], rxLoose := [], rxGone := [], rxRekeyAt := none,
    rxEpochNo := 0, rxOverlapUntil := none, mgmtFree := true, bulkFreed := 0, authTimes := [], lostTimes := [], quiet := 0,
    beatSeen := false }

/-- Global address of the core that a message head names. -/
def recvOf (h : HeadInfo) : BitVec 18 := BitVec.ofNat 18 (h.destMod.toNat * 256 + h.dest.toNat)

/-- Instruction address of a message that a core of the module sent. -/
def State.pcOf (s : State) (h : HeadInfo) : BitVec 32 :=
  let k := s.core (h.source.toNat % 256)
  match k.sent.find? (fun x => x.dest == (recvOf h) && x.seq == h.sequence) with
  | some x => x.pc
  | none =>
    match k.sq.find? fun i => k.elems.any fun e => e.ord == i.tag.ord && e.wait.contains h.sequence with
    | some i => i.tag.pc
    | none => k.pc

/-- A late or sequence notice to the source of a message (R270, R271): the source core halts when it is of this module,
otherwise the notice leaves in the management class. -/
def State.notice (s : State) (h : HeadInfo) (gap : Bool) : State :=
  let seq := h.sequence.setWidth 12
  if h.source.toNat / 256 = s.modAddr then
    let c := h.source.toNat % 256
    if gap then xSeqGapNotice c (s.pcOf h) (recvOf h) seq s else xLateNotice c (s.pcOf h) (recvOf h) seq s
  else
    s.sendMgmt (BitVec.ofNat 10 (h.source.toNat / 256))
      (if gap then .seqGap h.source (recvOf h) seq else .lateNotice h.source (recvOf h) seq)

/-- The scheduled messages that a link bank holds on their way out, those it forwards among them (R270). -/
def Link.heldMsgs (k : Link) : List HeadInfo :=
  ((k.txQ.filter (fun m => !m.bulk)).map (·.head) ++ k.held.filterMap (·.head) ++ k.fwd.filterMap (·.2.2.head)).foldl
    (fun l h => if l.contains h then l else l ++ [h]) []

/-- The link after a teardown: a status frame that says so has gone out of a link that carries frames, its transmitters are
idle for 10 microseconds, every message it held is late, and it is in DETECT with the backoff at 1 ms, or in OFF. -/
def Link.tornDown (k : Link) (cause : BitVec 4) (now : Nat) : Link :=
  let next := (k.lastSlot + 1) % 339
  let bye := k.frame 3 .status (.status (k.status now next true)) [] (tget 0 k.txSeq 3)
  { k.cleared with
    st := if k.enable then .detect else .off, cause := cause, failures := 0, backoff := 1, inBackoff := false,
    lastTx := if k.up then some bye else k.lastTx, late := k.late + k.heldMsgs.length, idleUntil := now + 10, stateAt := now, trainFrom := now }

/-- Tear a link down with a cause (R278): late notices to the sources of the messages it held, then the event log entry and
the new state. -/
def State.teardown (s : State) (l : Nat) (cause : BitVec 4) : State :=
  let k := s.link l
  if k.st = .off then s
  else (k.heldMsgs.foldl (fun s h => s.notice h false) s).linkTo l (k.tornDown cause s.clk.treadCount)

/-- LINK_CTL.retrain (R278). -/
def xLinkCtlRetrain (l : Nat) (s : State) : State := s.teardown l 0xF

/-- LINK_CTL.enable written to 0 (R278). -/
def xLinkCtlDisable (l : Nat) (s : State) : State :=
  (s.updLink l fun k => { k with enable := false, offPend := false }).teardown l 0xF

/-- Position and link index that R282 gives the partner of link l of the module at (r, c). -/
def cabled (r c l : Nat) : Nat × Nat × Nat :=
  if l < 31 then
    let p := if l < c then l else l + 1
    (r, p, rowLink p c)
  else
    let p := if l - 31 < r then l - 31 else l - 30
    (p, c, colLink p r)

/-- Position of the module's own record. -/
def State.ownPosition (s : State) (m : Manifest) : Option Nat :=
  (List.range m.recs.length).find? fun i => match m.recs[i]? with
    | some x => x.serial == s.otp.serial && x.present && x.grade == s.otp.grade
    | none => false

/-- Fabric address of a grid position: row and column (R281). -/
def Manifest.addrAt (m : Manifest) (i : Nat) : BitVec 10 := BitVec.ofNat 10 (i / m.columns * 32 + i % m.columns)

/-- At bring-up the module reads its cached manifest; without one that can be read it has no fabric address (R293). -/
def State.readManifest (s : State) (readable : Bool) : State :=
  match s.settings.manifest with
  | some m => if readable then { s with manifest := some m, fabAddr := (s.ownPosition m).map m.addrAt } else { s with manifest := none, fabAddr := none }
  | none => { s with manifest := none, fabAddr := none }

/-- The link leads to no module of the manifest (R283). -/
def State.noPartner (s : State) (l : Nat) : Bool :=
  match s.fabAddr, s.manifest with
  | some a, some m =>
    if 62 ≤ l then false else
    let (r, c, _) := cabled (a.toNat / 32) (a.toNat % 32) l
    if decide (m.rows ≤ r) || decide (m.columns ≤ c) then true
    else match m.recs[r * m.columns + c]? with
      | some x => !x.present
      | none => true
  | _, _ => false

/-- LINK_CTL.enable written to 1 (R279): no effect on a link that is not in OFF, nor on one that leads to no module of the
manifest, for which firmware does not write it (R283, log 47). -/
def xLinkCtlEnable (l : Nat) (s : State) : State :=
  let k := s.link l
  if k.st = .off ∧ s.noPartner l = false then s.setLink l { k with enable := true, offPend := true } else s

/-- LINK_OFF_EXIT (R279). -/
def xLinkOffExit (l : Nat) (s : State) : State :=
  let k := s.link l
  if k.st = .off ∧ k.offPend = true then
    let now := s.clk.treadCount
    s.linkTo l { k with
      st := .detect, offPend := false, backoff := 1, inBackoff := false, failures := 0, cause := 0, stateAt := now, trainFrom := now }
  else s

/-- A write of LINK_CTL: retrain and enable (R278, R279, FABRIC.LINK_CTL). -/
def State.linkCtl (s : State) (l : Nat) (v : Nat) : State :=
  if !bitOf v 0 then xLinkCtlDisable l s
  else
    let s1 := xLinkCtlEnable l s
    if bitOf v 1 && (s.link l).st != .off then xLinkCtlRetrain l s1 else s1

/-! ### Training -/

/-- The backoff after n consecutive failures, in ms (R275). -/
def backoffMs (n : Nat) : Nat := if n ≤ 10 then 2 ^ (n - 1) else 1000

/-- A training state ends well and the next begins. -/
def Link.enter (k : Link) (st : LinkSt) (now : Nat) : Link := { k with st := st, stateAt := now }

/-- A training state failed: wait a backoff, then DETECT again. -/
def Link.fail (k : Link) (cause : BitVec 4) (now : Nat) : Link :=
  let n := satAdd 63 k.failures.toNat 1
  { k.cleared with
    st := .detect, cause := cause, failures := BitVec.ofNat 6 n, backoff := BitVec.ofNat 10 (backoffMs n), inBackoff := true, stateAt := now }

/-- Links train from bring-up step 7 on, and not in recovery mode (R424, R430). -/
def State.linksOn (s : State) : Bool :=
  !s.rst.off && !s.rst.recovery && (s.rst.step == 15 || (s.rst.step == 7 && s.rst.stepUs.any fun p => p.1 == 7))

/-- DETECT ends (Table 12.6); not while the transmitters are idle after a teardown (R278). -/
def xDetect (l : Nat) (r : DetectResult) (s : State) : State :=
  let k := s.link l
  let now := s.clk.treadCount
  if k.st ≠ .detect ∨ k.inBackoff = true ∨ s.linksOn = false ∨ now < k.idleUntil then s else
  let k1 := { k with polFixed := r.polFixed, laneSwap := r.laneSwap, laneFault := r.openLanes ||| r.shortLanes }
  if !r.present then s.setLink l (k1.fail 1 now)
  else if r.openLanes ≠ 0 then s.setLink l (k1.fail 3 now)
  else if r.shortLanes ≠ 0 then s.setLink l (k1.fail 4 now)
  else s.setLink l (k1.enter .equalise now)

def xEqualise (l : Nat) (s : State) : State :=
  let k := s.link l
  if k.st = .equalise then s.setLink l (k.enter .align s.clk.treadCount) else s

def xAlign (l : Nat) (s : State) : State :=
  let k := s.link l
  if k.st = .align then s.setLink l (k.enter .identify s.clk.treadCount) else s

/-- The partner is the one that R282 or R284 gives for the link. -/
def State.rightPartner (s : State) (l : Nat) (r : IdentityRec) : Bool :=
  match s.fabAddr, s.manifest with
  | some a, some m =>
    if l = 62 then r.isMaster && r.serial == m.masterA
    else if l = 63 then r.isMaster && r.serial == m.masterB
    else
      let (pr, pc, pl) := cabled (a.toNat / 32) (a.toNat % 32) l
      !r.isMaster && r.row.toNat == pr && r.column.toNat == pc && r.link.toNat == pl
  | _, _ => true

/-- The module's manifest digest; all zero without a manifest (R293). -/
def State.manifestDigest (s : State) : BitVec 384 :=
  match s.manifest with
  | some m => Config.sha384 m.bytes
  | none => 0

/-- Configuration digest of a link (R293): protocol revision and partition tag. -/
def State.configDigest (s : State) (l : Nat) : BitVec 384 :=
  let tag := match s.linkOwner l with | some b => (s.part b).tag | none => 0
  Config.sha384 (leBytes 2 1 ++ leBytes 8 tag.toNat)

/-- The mark for quarantine (R276, R293): a module without a manifest quarantines every link with cause 0x9. -/
def State.quarantineCause (s : State) (l : Nat) (r : IdentityRec) : Option (BitVec 4) :=
  if !s.rightPartner l r then some 8
  else if s.manifest.isNone || r.manifest != s.manifestDigest then some 9
  else if r.config != s.configDigest l || r.compat != s.fw.compat then some 0xA
  else none

/-- IDENTIFY (R276): a newer or older version of the same class is accepted, and both are logged. -/
def xIdentify (l : Nat) (r : IdentityRec) (s : State) : State :=
  let k := s.link l
  if k.st ≠ .identify then s else
  let s1 := s.setLink l { k with
    st := .secure, stateAt := s.clk.treadCount, peerValid := true, peerLink := r.link, peerRow := r.row, peerCol := r.column, peerMaster := r.isMaster, quarMark := s.quarantineCause l r }
  if r.compat = s.fw.compat ∧ r.version ≠ s.fw.version then
    s1.logEvent 3 0x0A l (s.linkOwner l) [s.fw.version.toNat, r.version.toNat]
  else s1

/-- Frames may be sent: the grants of R265 and the leases of R266 begin. -/
def Link.opened (k : Link) (st : LinkSt) (cause : BitVec 4) (now : Nat) : Link :=
  { k with
    st := st, cause := cause, failures := 0, bulkCred := 256, partnerMgmtFree := true, mgmtFree := true, bulkFreed := 0,
    mgmtSeen := now, credSeen := now, quiet := 0 }

/-- SECURE (Table 12.6): the certificates' validity periods count when the calendar is valid; the session secret is a
fresh one, and the keys are those of epoch 0. -/
def xSecure (l : Nat) (cert : CertResult) (s : State) : State :=
  let k := s.link l
  let now := s.clk.treadCount
  if k.st ≠ .secure then s
  else if !cert.chainOk || (s.clk.calValid && !cert.periodsOk) then s.setLink l (k.fail 0xB now)
  else
    let k1 := { k with secret := some (Config.linkSecret s.fresh), epochNo := 0, rxEpochNo := 0 }
    let s1 := { s with fresh := s.fresh + 1 }
    match k.quarMark with
    | some c => s1.linkTo l (k1.opened .quarantine c now)
    | none => s1.setLink l (k1.enter .time now)

/-- The link is the auxiliary link of the module's selected reference (R277). -/
def State.refLink (s : State) (l : Nat) : Bool :=
  let sel := match s.clk.target with | some t => t | none => s.clk.source
  (l == 62 && (sel == .l62 || s.clk.source == .l62)) || (l == 63 && (sel == .l63 || s.clk.source == .l63))

/-- A jump of TREAD_COUNT in TIME (R25): what the links count in treads goes on from where it was. -/
def State.jumpTo (s : State) (n : Nat) : State :=
  let move (t : Nat) : Nat := n + t - s.clk.treadCount
  { s with
    clk := { s.clk with treadCount := n }, links := s.links.map fun (p : Nat × Link) => (p.1, { p.2 with
      stateAt := move p.2.stateAt, trainFrom := move p.2.trainFrom, mgmtSeen := move p.2.mgmtSeen, credSeen := move p.2.credSeen,
      idleUntil := move p.2.idleUntil, lastSlot := move (p.2.lastSlot / 339) * 339 + p.2.lastSlot % 339,
      authTimes := p.2.authTimes.map move, lostTimes := p.2.lostTimes.map move }) }

/-- What a disagreement of counts or phases over a link leads to (R294): a module out of line with its own beat raises a time
fault; one in line logs that the masters disagree. -/
def State.timeDispute (s : State) (l : Nat) : State :=
  match s.clk.beatOff with
  | some c => if s.clk.timeOut then s else s.timeFault c
  | none => s.log 3 0x0B 0xC none 0 [l]

/-- Delay and offset of the partner from the two differences measured (R277), in units of 10 ps. DESIGN CHOICE (log 47): A is
the module itself, and half a unit is dropped. -/
def delayOf (own partner : Int) : BitVec 16 := BitVec.ofInt 16 ((own + partner) / 2)
def offsetOf (own partner : Int) : Int := (own - partner) / 2

/-- TIME (R277): agreement, the jump of R25, or QUARANTINE with cause 0xC. A count that is aligned on an auxiliary link
ends the module's exclusion from its tasks (R50). -/
def xTimeLink (l partnerCount : Nat) (own partner : Int) (s : State) : State :=
  let k := s.link l
  if k.st ≠ .time then s else
  let offset := offsetOf own partner
  let k1 := { k with delay := delayOf own partner, offset := BitVec.ofInt 16 offset }
  let aux := l == 62 || l == 63
  let now := s.clk.treadCount
  let rejoin (s : State) : State := if aux then { s with clk := { s.clk with timeOut := false, beatOff := none } } else s
  if partnerCount = now ∧ offset.natAbs ≤ 4000 then rejoin (s.linkTo l (k1.opened .active k1.cause now))
  else if !(s.tasks.any Task.live) && s.refLink l then
    rejoin ((s.jumpTo partnerCount).linkTo l (k1.opened .active k1.cause partnerCount))
  else (s.linkTo l (k1.opened .quarantine 0xC now)).timeDispute l

/-- Cause of a state's timeout (Tables 12.6, 12.7). -/
def timeoutCause : LinkSt → BitVec 4
  | .equalise => 5 | .align => 6 | .identify => 7 | .secure => 0xB | _ => 1

/-- The timeout of a training state, in treads (Table 12.6). -/
def timeoutOf : LinkSt → Nat
  | .equalise => 200000 | .identify => 50000 | .secure => 100000 | _ => 10000

/-- TRAINING_TIMEOUT: TIME goes to QUARANTINE, every other state to a backoff. -/
def xTrainingTimeout (l : Nat) (s : State) : State :=
  let k := s.link l
  let now := s.clk.treadCount
  if !k.st.training || k.inBackoff || decide (now < k.stateAt + timeoutOf k.st) then s
  else if k.st = .time then s.linkTo l (k.opened .quarantine 0xC now)
  else s.setLink l (k.fail (timeoutCause k.st) now)

/-- A link that carries frames and loses the partner's presence: a teardown, and DETECT after the backoff (R274, R278). -/
def State.lostPresence (s : State) (l : Nat) : State :=
  (s.teardown l 2).updLink l fun k => { k with inBackoff := k.st == .detect }

/-- PRESENCE_LOST (R274): from EQUALISE onward, a backoff with cause 0x2. -/
def xPresenceLost (l : Nat) (s : State) : State :=
  let k := s.link l
  if k.up then s.lostPresence l
  else if k.st.training && k.st != .detect then s.setLink l (k.fail 2 s.clk.treadCount)
  else s

def xBackoffExpiry (l : Nat) (s : State) : State :=
  let k := s.link l
  let now := s.clk.treadCount
  if k.inBackoff && decide (k.stateAt + 1000 * k.backoff.toNat ≤ now) then
    s.setLink l { k with inBackoff := false, stateAt := now }
  else s

/-- TRAINING_LIMIT (R275): 10 s of training since the entry into DETECT that began it. -/
def xTrainingLimit (l : Nat) (s : State) : State :=
  let k := s.link l
  let now := s.clk.treadCount
  if k.st.training && s.linksOn && decide (k.trainFrom + 10000000 ≤ now) then s.linkTo l { k.cleared with st := .absent, inBackoff := false, stateAt := now }
  else s

/-- PRESENCE_PROBE (Table 12.6): the backoff restarts at 1 ms, and the 10 s of R275 count anew (log 47). -/
def xPresenceProbe (l : Nat) (found : Bool) (s : State) : State :=
  let k := s.link l
  let now := s.clk.treadCount
  if k.st = .absent ∧ found = true then
    s.setLink l { k with st := .detect, failures := 0, backoff := 1, inBackoff := false, stateAt := now, trainFrom := now }
  else s

/-- FEC_LOCK_LOST (R278): presence or FEC lock lost by a link that carries frames. -/
def xFecLockLost (l : Nat) (presence : Bool) (s : State) : State :=
  if (s.link l).up then (if presence then s.lostPresence l else s.teardown l 0xD) else s

/-- NO_VALID_FRAME (R278): 64 slots without one. -/
def xNoValidFrame (l : Nat) (s : State) : State :=
  if (s.link l).up && decide (64 ≤ (s.link l).quiet) then s.teardown l 0xD else s

/-- A lease of R266 has run out: 100 ms without mgmt_free = 1, or without bulk credit while a bulk message has waited. -/
def Link.leaseOver (k : Link) (now : Nat) : Bool :=
  decide (k.mgmtSeen + 100000 ≤ now) ||
  (k.bulkCred == 0 && decide (k.credSeen + 100000 ≤ now) && k.txQ.any fun m => m.bulk && decide (m.tread + 100000 ≤ now))

/-- LEASE_EXPIRY (R266). -/
def xLeaseExpiry (l : Nat) (s : State) : State :=
  let k := s.link l
  if k.up && k.leaseOver s.clk.treadCount then s.teardown l 0xF else s

def execLinkCtlRetrain (l : LinkId) (s : State) : Out := .next (xLinkCtlRetrain l s)
def execLinkCtlDisable (l : LinkId) (s : State) : Out := .next (xLinkCtlDisable l s)
def execLinkCtlEnable (l : LinkId) (s : State) : Out := .next (xLinkCtlEnable l s)
def execLinkOffExit (l : LinkId) (s : State) : Out := .next (xLinkOffExit l s)
def execDetect (l : LinkId) (r : DetectResult) (s : State) : Out := .next (xDetect l r s)
def execEqualise (l : LinkId) (s : State) : Out := .next (xEqualise l s)
def execAlign (l : LinkId) (s : State) : Out := .next (xAlign l s)
def execIdentify (l : LinkId) (r : IdentityRec) (s : State) : Out := .next (xIdentify l r s)
def execSecure (l : LinkId) (cert : CertResult) (s : State) : Out := .next (xSecure l cert s)
def execTimeLink (l : LinkId) (n : Nat) (own partner : Int) (s : State) : Out := .next (xTimeLink l n own partner s)
def execTrainingTimeout (l : LinkId) (s : State) : Out := .next (xTrainingTimeout l s)
def execPresenceLost (l : LinkId) (s : State) : Out := .next (xPresenceLost l s)
def execBackoffExpiry (l : LinkId) (s : State) : Out := .next (xBackoffExpiry l s)
def execTrainingLimit (l : LinkId) (s : State) : Out := .next (xTrainingLimit l s)
def execPresenceProbe (l : LinkId) (found : Bool) (s : State) : Out := .next (xPresenceProbe l found s)
def execFecLockLost (l : LinkId) (presence : Bool) (s : State) : Out := .next (xFecLockLost l presence s)
def execNoValidFrame (l : LinkId) (s : State) : Out := .next (xNoValidFrame l s)
def execLeaseExpiry (l : LinkId) (s : State) : Out := .next (xLeaseExpiry l s)

end Sys2Proof.Machine
end

