-- ==== Sys2Proof/Machine/Links.lean ====
section
/-! DEFINITION. Frames on the links (R257 to R273): slots and their priority, receipt, status frames, reassembly, two-hop
forwarding, lateness and key epochs. -/

namespace Sys2Proof.Machine

/-! ### Sending -/

/-- Send a frame under a number and put it into the replay buffer (R264). -/
def Link.hold (k : Link) (cls : Fin 3) (kind : FrameKind) (h : Option HeadInfo) (body : FrameBody) (free : List Byte) (n at_ : Nat) : Link :=
  { (k.emit cls.val kind body free n) with
    held := k.held ++ [{ cls := cls, seq := n, replays := 0, nakked := false, unsent := false, head := h,
                         frame := k.frame cls.val kind body free n, sentAt := at_ }] }

/-- Scheduled messages past their deadline leave the replay buffer (R264). -/
def Link.prune (k : Link) (now : Nat) : Link :=
  { k with
    blocks := k.blocks.filter (fun b => decide (now ≤ b.1.deadline)),
    held := k.held.filter fun f => match f.head with
      | some h => decide (now ≤ h.deadline)
      | none => true }

/-- Numbers for a message of `flits` data frames (R267): consecutive ones, taken when its first frame goes out. -/
def Link.takeNumbers (k : Link) (cls : Fin 3) (flits : Nat) : Link :=
  { k with txSeq := tset k.txSeq cls.val (tget 0 k.txSeq cls.val + 1 + flits) }

/-- The message that places a frame at a scheduled index: each starts at its entry's offset in the tread of its entry. -/
def Link.atIndex (k : Link) (now i : Nat) : Option TxMsg :=
  k.txQ.find? fun m => !m.bulk && m.tread == now && decide (m.start + m.placed = i)

/-- A run of scheduled indices that no entry of a running task and no message of the tread fills. -/
def State.freeRun (s : State) (l i n : Nat) : Bool :=
  let now := s.clk.treadCount
  let meets (a len : Nat) : Bool := decide (a < i + n) && decide (i < a + len)
  decide (i + n ≤ 252) &&
  !(s.tasks.any fun t => t.st == .running && t.links.any fun e =>
      e.link == l && e.kind == t.kind && e.tread == t.tread && meets e.offset (e.flits + 1)) &&
  !((s.link l).txQ.any fun m => !m.bulk && m.tread == now && m.start != noEntry && meets m.start (m.head.flits + 1)) &&
  !((s.link l).fwd.any fun f => f.1 == now && meets f.2.1 1)

/-- An answer that has no link schedule entry takes the first free run of indices (log 15). -/
def State.startAnswer (s : State) (l i : Nat) (k : Link) : Option (Link × TxMsg) :=
  match k.txQ.find? (fun m => !m.bulk && m.start == noEntry) with
  | none => none
  | some m =>
    if s.freeRun l i (m.head.flits + 1) then
      let m1 := { m with start := i, tread := s.clk.treadCount }
      some ({ k with txQ := updFirst (fun x => x == m) (fun _ => m1) k.txQ }, m1)
    else none

/-- Place the next frame of a message; its numbers follow one another (R267). A message that has placed all its frames leaves
the queue. -/
def Link.place (k : Link) (m : TxMsg) (at_ : Nat) : Link :=
  let bulk := m.bulk
  let kind : FrameKind := if m.placed = 0 then (if bulk then .bulkHead else .schedHead) else (if bulk then .bulkData else .schedData)
  let body : FrameBody := if m.placed = 0 then .head m.head else .data (padFrame (m.data.drop (64 * (m.placed - 1))))
  let cls : Fin 3 := if bulk then 2 else 0
  let base := if m.placed = 0 then tget 0 k.txSeq cls.val else m.base
  let k0 := if m.placed = 0 then k.takeNumbers cls m.head.flits else k
  let k1 := k0.hold cls kind (if bulk then none else some m.head) body [] (base + m.placed) at_
  if m.head.flits < m.placed + 1 then { k1 with txQ := remFirst (fun x => x == m) k1.txQ }
  else { k1 with txQ := updFirst (fun x => x == m) (fun x => { x with placed := x.placed + 1, base := base }) k1.txQ }

/-- The number of a forwarded message's head frame on this link: its own once a frame of it has gone out, else the next. -/
def Link.fwdBase (k : Link) (h : HeadInfo) : Nat :=
  match k.blocks.find? (fun b => b.1 == h) with
  | some b => b.2.1
  | none => tget 0 k.txSeq 0

/-- The number a held frame has or will go out under. -/
def Link.numOf (k : Link) (f : HeldFrame) : Nat :=
  match f.unsent, f.head with
  | true, some h => k.fwdBase h + f.seq
  | _, _ => f.seq

/-- The frame to replay next: lowest number first, scheduled before management before bulk (R263); no scheduled frame in
QUARANTINE (Table 12.6). -/
def Link.nextReplay (k : Link) : Option HeldFrame :=
  (k.held.filter fun f => f.nakked && !(k.st == .quarantine && f.cls == 0)).foldl (fun best f => match best with
    | none => some f
    | some b => if decide (f.cls.val < b.cls.val) || (f.cls == b.cls && decide (k.numOf f < k.numOf b)) then some f else some b) none

/-- A forwarded frame goes out as a new frame of this link (R269): its message's numbers are taken when its first frame goes,
and it is encrypted under the key of the epoch then. -/
def Link.sendOn (k : Link) (f : HeldFrame) (at_ : Nat) : Link :=
  match f.head with
  | none => k
  | some h =>
    let n := k.fwdBase h
    let k1 := match k.blocks.find? (fun b => b.1 == h) with
      | some b =>
        if h.flits ≤ b.2.2 then { k with blocks := remFirst (fun x => x == b) k.blocks }
        else { k with blocks := updFirst (fun x => x == b) (fun x => (x.1, x.2.1, x.2.2 + 1)) k.blocks }
      | none => { (k.takeNumbers 0 h.flits) with blocks := k.blocks ++ [(h, n, 1)] }
    k1.hold 0 f.frame.kind f.head f.frame.body [] (n + f.seq) at_

/-- Retransmit a frame's original bytes (R259, R262); a forwarded frame that waited for its first slot is sent, not replayed
(R290). -/
def Link.replay (k : Link) (f : HeldFrame) (at_ : Nat) : Link :=
  if f.unsent then ({ k with held := remFirst (fun x => x == f) k.held }).sendOn f at_ else
  let f1 := { f with nakked := false, replays := f.replays + 1, sentAt := at_ }
  { k with held := updFirst (fun x => x == f) (fun _ => f1) k.held, replayed := k.replayed + 1, lastTx := some f.frame }

/-- The first waiting management message whose route is this link (R248, R287). -/
def State.mgmtFor (s : State) (l : Nat) : Option (BitVec 10 × MgmtMsg) :=
  s.mgmtOut.find? fun p => match routeLink s.modAddr p.1.toNat with
    | some (x, _) => x == l
    | none => false

/-- An unscheduled slot (R263). -/
def unscheduledSlot (s : State) (l : Nat) (k : Link) (p : Nat) : State :=
  let room := decide (k.held.length < 1024)
  let now := s.clk.treadCount
  let at_ := slotTime now p
  if k.lost.any (fun x => !x.nakSent) then s.setLink l (k.sendStatus now p)
  else match k.nextReplay with
    | some f => s.setLink l (k.replay f at_)
    | none =>
      match (if k.partnerMgmtFree && room then s.mgmtFor l else none) with
      | some m =>
        { (s.setLink l { ((k.takeNumbers 1 0).hold 1 .management none (.management m.1 m.2) s.freeBytes (tget 0 k.txSeq 1) at_) with
            partnerMgmtFree := false }) with
          mgmtOut := remFirst (fun x => x == m) s.mgmtOut, fresh := s.fresh + 1 }
      | none =>
        match (if decide (0 < k.bulkCred) && room then k.txQ.find? (·.bulk) else none) with
        | some m => s.setLink l { (k.place m at_) with bulkCred := k.bulkCred - 1 }
        | none => s.setLink l (k.sendStatus now p)

/-- The forwarded frame of a slot (R288). -/
def Link.fwdAt (k : Link) (now i : Nat) : Option (Nat × Nat × HeldFrame) := k.fwd.find? fun f => f.1 == now && f.2.1 == i

/-- A forwarded frame goes out in its own slot. -/
def Link.sendFwd (k : Link) (f : Nat × Nat × HeldFrame) (at_ : Nat) : Link :=
  ({ k with fwd := remFirst (fun x => x == f) k.fwd }).sendOn f.2.2 at_

/-- Forwarded frames whose slot has gone wait in unscheduled slots at replay priority (R290). -/
def Link.overdue (k : Link) (at_ : Nat) : Link :=
  let gone (f : Nat × Nat × HeldFrame) : Bool := decide (slotTime f.1 (schedSlot f.2.1) < at_)
  { k with
    fwd := k.fwd.filter fun f => !gone f,
    held := k.held ++ (k.fwd.filter gone).map fun f => { f.2.2 with nakked := true, unsent := true } }

/-- The slot a link begins to send in; one more has passed without a valid frame unless one came (R278). -/
def Link.tick (k : Link) (at_ : Nat) : Link := { k with lastSlot := at_, quiet := k.quiet + 1 }

/-- States in which a link exchanges training frames (Table 12.2). -/
def LinkSt.shakes : LinkSt → Bool
  | .align | .identify | .secure => true
  | _ => false

/-- FRAME_SLOT: what a slot of the link carries (R257, R258, R263): training frames before SECURE completes, status frames in
TIME. -/
def xFrameSlot (l p : Nat) (s : State) : State :=
  let k0 := s.link l
  let now := s.clk.treadCount
  let at_ := slotTime now p
  if k0.st.shakes then
    { (s.setLink l { k0 with lastSlot := at_, lastTx := some (trainingFrame s.freeBytes) }) with fresh := s.fresh + 1 }
  else if k0.st = .time then s.setLink l ((k0.tick at_).sendStatus now p)
  else if !k0.up then s else
  let k := ((k0.prune now).overdue at_).tick at_
  let s1 :=
    if isControl p then s.setLink l (k.sendStatus now p)
    else if isUnscheduled p then unscheduledSlot s l k p
    else if k.st ≠ .active then s.setLink l (k.sendStatus now p)
    else match k.atIndex now (schedIndex p) with
      | some m => s.setLink l (k.place m at_)
      | none =>
        match k.fwdAt now (schedIndex p) with
        | some f => s.setLink l (k.sendFwd f at_)
        | none =>
          match s.startAnswer l (schedIndex p) k with
          | some (k1, m) => s.setLink l (k1.place m at_)
          | none => s.setLink l (k.sendStatus now p)
  if (s1.link l).exhausted then s1.teardown l 0xF else s1.updLink l fun k => k.autoRekey now

/-! ### Receiving -/

/-- The full counter for the low bits of a number: the unique value within half the range of the acknowledgement
(R260); none when that would lie below 0. -/
def rebuild (range ack low : Nat) : Option Nat :=
  let d := (low + range - ack % range) % range
  if d < range / 2 then some (ack + d) else if range ≤ ack + d then some (ack + d - range) else none

/-- The lowest number not yet received, once `seen` above it is taken in. -/
def ackSlide : Nat → Nat → List Nat → Nat × List Nat
  | 0, a, seen => (a, seen)
  | n + 1, a, seen => if seen.contains a then ackSlide n (a + 1) (seen.filter (· != a)) else (a, seen)

/-- Numbers known lost because `upTo` numbers of the class have been sent (R260). -/
def Link.noteLost (k : Link) (cls : Fin 3) (upTo now : Nat) : Link :=
  let ack := tget 0 k.rxAck cls.val
  let seen := tget [] k.rxSeen cls.val
  let miss := ((List.range (upTo - ack)).map (ack + ·)).filter fun n =>
    !seen.contains n && !k.lost.any (fun x => x.cls == cls && x.seq == n)
  { k with
    lost := k.lost ++ miss.map (fun n => { cls := cls, seq := n, nakSent := false, losses := 1 }),
    lostTimes := (miss.map (fun _ => now)) ++ k.lostTimes.filter (fun t => decide (now < t + 1000)) }

/-- Take in a frame of a class, and whether it was known as lost; `none` when it is a duplicate. -/
def Link.takeIn (k : Link) (cls : Fin 3) (n now : Nat) : Option (Link × Bool) :=
  let ack := tget 0 k.rxAck cls.val
  let seen := tget [] k.rxSeen cls.val
  if n < ack || seen.contains n then none
  else
    let k1 := k.noteLost cls n now
    let (a, sn) := ackSlide (seen.length + 1) ack (insNat n seen)
    let k2 : Link := { k1 with
      rxAck := tset k1.rxAck cls.val a, rxSeen := tset k1.rxSeen cls.val sn, lost := k1.lost.filter fun x => !(x.cls == cls && x.seq == n) }
    some (k2, k.lost.any fun x => x.cls == cls && x.seq == n)

/-- A dropped frame that claims a number whose NAK has been sent is that frame's replay, lost again (R262). -/
def Link.lostAgain (k : Link) (cls : Fin 3) (n : Nat) : Link :=
  { k with lost := k.lost.map fun (x : LostFrame) =>
      if x.cls = cls ∧ x.seq = n ∧ x.nakSent = true then { x with nakSent := false, losses := x.losses + 1 } else x }

/-- The receiver holds keys for the epoch (R272). -/
def Link.accepts (k : Link) (epoch : Bool) : Bool := epoch == k.rxEpoch || k.overlap

/-- More failures or losses in 1,000 treads than R273 and R278 allow. -/
def Link.overFailures (k : Link) (now : Nat) : Bool :=
  decide (16 < (k.authTimes.filter fun t => decide (now < t + 1000)).length)
def Link.overLosses (k : Link) (now : Nat) : Bool :=
  decide (1024 < (k.lostTimes.filter fun t => decide (now < t + 1000)).length)

/-- A data frame for the message it belongs to: one of a message already discarded is dropped, and one whose head has not
come waits for it. -/
def Link.putData (k : Link) (x : LooseFrame) : Link :=
  let mine (m : RxMsg) : Bool := m.bulk == x.bulk && decide (m.headSeq < x.seq) && decide (x.seq ≤ m.headSeq + m.head.flits)
  if k.rxMsgs.any mine then
    { k with rxMsgs := updFirst mine (fun (m : RxMsg) =>
        let j := x.seq - m.headSeq
        { m with
          frames := tset m.frames j x.data, fed := if x.fed then j :: m.fed else m.fed, start := match m.start, x.idx with
            | none, some i => some (i - j)
            | y, _ => y }) k.rxMsgs }
  else if k.rxGone.any fun g => g.1 == x.bulk && decide (g.2.1 < x.seq) && decide (x.seq ≤ g.2.2) then
    { k with bulkFreed := k.bulkFreed + b2n x.bulk }
  else { k with rxLoose := k.rxLoose ++ [x] }

/-- A head frame opens its message and takes in the data frames that came before it (R267). -/
def Link.putHead (k : Link) (bulk : Bool) (n : Nat) (fed : Bool) (i : Option Nat) (h : HeadInfo) : Link :=
  let m : RxMsg := { bulk := bulk, headSeq := n, head := h, frames := [], fed := if fed then [0] else [], issued := [], start := i,
                     forwarded := [] }
  let mine (q : LooseFrame) : Bool := q.bulk == bulk && decide (n < q.seq) && decide (q.seq ≤ n + h.flits)
  let early := k.rxLoose.filter mine
  let k1 := { k with rxMsgs := k.rxMsgs ++ [m], rxLoose := k.rxLoose.filter fun q => !mine q }
  early.foldl (fun k q => k.putData q) k1

/-- Data frames in the reassembly buffer of 64 KiB (R265). -/
def Link.buffered (k : Link) : Nat :=
  ((k.rxMsgs.filter fun m => !m.bulk).map fun m => m.frames.length).sum + (k.rxLoose.filter fun x => !x.bulk).length

/-- What is past keeping: loose frames of scheduled messages that must be late, and discarded messages whose numbers are all
acknowledged (log 47). -/
def Link.sweep (k : Link) (now : Nat) : Link :=
  { k with
    rxLoose := k.rxLoose.filter (fun x => x.bulk || decide (now ≤ x.tread + 4)),
    rxGone := k.rxGone.filter fun g => decide (tget 0 k.rxAck (if g.1 then 2 else 0) ≤ g.2.2) }

/-- What an accepted frame brings. -/
def Link.deliver (k : Link) (f : Frame) (n : Nat) (fed : Bool) (now : Nat) : Link :=
  let i := if isScheduled f.slot.val && !fed then some (schedIndex f.slot.val) else none
  let x : LooseFrame := { bulk := f.kind == .bulkData, seq := n, fed := fed, idx := i, tread := now, data := f.data }
  match f.kind, f.head with
  | .schedHead, some h => (k.sweep now).putHead false n fed i h
  | .bulkHead, some h => (k.sweep now).putHead true n fed none h
  | .schedData, _ => (k.sweep now).putData x
  | .bulkData, _ => (k.sweep now).putData { x with idx := none }
  | .management, _ => { k with mgmtFree := false }
  | _, _ => k

/-- After a receipt: the teardowns of R273 and R278. -/
def State.receiptLimits (s : State) (l : Nat) : State :=
  let k := s.link l
  let now := s.clk.treadCount
  if k.overFailures now then s.teardown l 0xE
  else if k.overLosses now then s.teardown l 0xD
  else s

/-- Codewords corrected and lost count whatever state the link trains or works in (R280). -/
def Link.countFec (k : Link) (fixed uncorr : Nat) : Link := { k with fecCorr := k.fecCorr + fixed, fecUncorr := k.fecUncorr + uncorr }

/-- A frame that fails authentication (R273). -/
def Link.authFailed (k : Link) (now : Nat) : Link :=
  { k with authFail := k.authFail + 1, authTimes := now :: k.authTimes.filter fun t => decide (now < t + 1000) }

/-- FRAME_RECEIPT (R258 to R260, R265, R273): FEC, reserved kinds, authentication, duplicates, losses, and delivery; a data
frame for which the reassembly buffer has no room is lost (log 47). Status
frames are the row STATUS_FRAME; training frames carry nothing once SECURE has completed. -/
def xFrameReceipt (l : Nat) (f : Frame) (s : State) : State :=
  let k := s.link l
  if !k.up then (if k.st.training then s.setLink l (k.countFec f.fixed f.uncorr) else s) else
  let now := s.clk.treadCount
  let claimed (k : Link) : Link := match frameClass f.kind with
    | some cls => match rebuild 4096 (tget 0 k.rxAck cls.val) f.seq12.toNat with
      | some n => k.lostAgain cls n
      | none => k
    | none => k
  let k0 := k.countFec f.fixed f.uncorr
  if !f.fecOk then s.setLink l (claimed k0)
  else
    let k1 := k0
    match f.kind, frameClass f.kind with
    | .reserved, _ => s.setLink l { k1 with authFail := k1.authFail + 1 }
    | _, none => s.setLink l k1
    | _, some cls =>
      if !f.authOk || !k1.accepts f.epoch then (s.setLink l (claimed (k1.authFailed now))).receiptLimits l
      else if cls = 0 ∧ k1.st = .quarantine then s.setLink l { k1 with quiet := 0 }
      else
        match (rebuild 4096 (tget 0 k1.rxAck cls.val) f.seq12.toNat).bind
            (fun n => (k1.takeIn cls n now).map fun q => q.1.deliver f n q.2 now) with
        | none => s.setLink l { k1 with dup := k1.dup + 1, quiet := 0 }
        | some k2 =>
          if f.kind = .schedData ∧ 1024 ≤ k1.buffered then s.setLink l { k1 with quiet := 0 }
          else (s.setLink l { k2 with quiet := 0 }).receiptLimits l

/-! ### Status frames (R261 to R266, R272, R277, R278) -/

/-- A message leaves the reassembly buffer unfinished; its frames that still come are dropped. -/
def Link.forget (k : Link) (m : RxMsg) : Link :=
  { k with
    rxMsgs := remFirst (fun x => x == m) k.rxMsgs, rxGone := (m.bulk, m.headSeq, m.headSeq + m.head.flits) :: k.rxGone,
    bulkFreed := k.bulkFreed + (if m.bulk then 1 + m.frames.length else 0) }

/-- A late message at a link bank: discarded there, counted, and its source told (R270). -/
def State.lateAt (s : State) (l : Nat) (h : HeadInfo) : State :=
  (s.updLink l fun k => ((k.rxMsgs.filter fun m => m.head == h).foldl (fun k m => k.forget m) { k with
    late := k.late + 1, txQ := k.txQ.filter (fun m => m.head != h), held := k.held.filter (fun f => f.head != some h),
    fwd := k.fwd.filter (fun f => f.2.2.head != some h), blocks := k.blocks.filter fun b => b.1 != h })).notice h false

/-- Slots in which a NAK may still restate the loss that a replay mends: two wire delays of 300 ns (R262, R270, log 23). -/
def nakGuard : Nat := 204

/-- One NAK entry (R262): the first makes the frame wait for replay, one for a replayed frame makes its message late, unless
it restates the first; a frame that is no longer held is ignored. -/
def State.nak (s : State) (l : Nat) (e : NakEntry) : State :=
  let k := s.link l
  let at_ := max k.lastSlot (slotTime s.clk.treadCount 0)
  match k.held.find? (fun f => f.cls == e.cls && f.seq % 65536 == e.seq.toNat && !f.unsent) with
  | none => s
  | some f =>
    if f.replays = 0 then
      s.setLink l { k with held := updFirst (fun x => x == f) (fun (x : HeldFrame) => { x with nakked := true }) k.held }
    else if f.nakked || decide (at_ < f.sentAt + nakGuard) then s
    else match f.head with
      | some h => s.lateAt l h
      | none => s.setLink l { k with held := remFirst (fun x => x == f) k.held }

/-- Acknowledged frames leave the replay buffer. -/
def Link.acked (k : Link) (acks : List (BitVec 16)) : Link :=
  { k with held := k.held.filter fun f =>
      f.unsent || match acks[f.cls.val]? with
        | some a => decide ((a.toNat + 65536 - f.seq % 65536 - 1) % 65536 ≥ 32768)
        | none => true }

/-- Losses that the partner's last numbers sent reveal. -/
def Link.sentUpTo (k : Link) (sent : List (BitVec 16)) (now : Nat) : Link :=
  [(0 : Fin 3), 1, 2].foldl (fun k c => match sent[c.val]? with
    | some v => match rebuild 65536 (tget 0 k.rxAck c.val) ((v.toNat + 1) % 65536) with
      | some n => k.noteLost c n now
      | none => k
    | none => k) k

/-- What a sound status frame changes on its link (R261 to R266, R272): what it acknowledges leaves the replay buffer, the
losses it reveals are noted, and its credit, its management buffer and its armed epoch are taken over. -/
def Link.takeStatus (k : Link) (p : StatusPayload) (now : Nat) : Link :=
  let k1 := (k.acked p.ack).sentUpTo p.sent now
  { k1 with
    bulkCred := k1.bulkCred + p.bulkCredit, credSeen := if p.bulkCredit = 0 then k1.credSeen else now,
    partnerMgmtFree := p.mgmtFree, mgmtSeen := if p.mgmtFree then now else k1.mgmtSeen, beatSeen := k1.beatSeen || p.slot == 0,
    rxRekeyAt := if p.rekeyArm then some (p.rekeyAt, p.rekeyEpoch) else k1.rxRekeyAt, quiet := 0 }

/-- A slot-0 frame in ACTIVE (R277, R294): the delay is measured anew, and a count or phase that differs is a disagreement. -/
def State.slotZero (s : State) (l : Nat) (rx : StatusRx) (p : StatusPayload) : State :=
  let k := s.link l
  if p.slot ≠ 0 ∨ k.st ≠ .active then s else
  let k1 := match rx.time with
    | some (a, b) => { k with delay := delayOf a b }
    | none => k
  let off := match rx.time with
    | some (a, b) => decide (4000 < (offsetOf a b).natAbs)
    | none => false
  if p.tread ≠ s.clk.treadCount ∨ off = true then (s.linkTo l { k1 with st := .quarantine, cause := 0xC }).timeDispute l
  else s.setLink l k1

/-- STATUS_FRAME. In TIME, status frames travel under the keys already (Table 12.2). -/
def xStatusFrame (l : Nat) (rx : StatusRx) (p : StatusPayload) (s : State) : State :=
  let k := s.link l
  let now := s.clk.treadCount
  let k0 := k.countFec rx.fixed rx.uncorr
  if !(k.up || k.st == .time) then (if k.st.training then s.setLink l k0 else s)
  else if !rx.fecOk then s.setLink l k0
  else if !rx.authOk then (s.setLink l (k0.authFailed now)).receiptLimits l
  else if p.teardown then (s.setLink l k0).teardown l 0xF
  else
    let s1 := p.naks.foldl (fun s e => s.nak l e) (s.setLink l (k0.takeStatus p now))
    (s1.receiptLimits l).slotZero l rx p

/-! ### Reassembly and the way to the mesh (R267, R271) -/

/-- Bank of a link: 16 links each (Table 1.4). -/
def bankOfLink (l : Nat) : Nat := l / 16

/-- Frames of group g of a message of `flits` data frames. -/
def groupFrames (flits g : Nat) : List Nat := ((List.range 8).map (8 * g + 1 + ·)).filter fun j => decide (j ≤ flits)

/-- The packet of a group (R247), with its message's deadline (R213). -/
def groupPacket (m : RxMsg) (g : Nat) (d : List Byte) : Packet :=
  let h := m.head
  let put := h.kind == 3
  { kind := h.kind, banner := h.banner, source := h.source, dest := h.dest.toNat, seq := h.sequence, rcc := h.rcc, part := g,
    parts := ceilDiv h.flits 8 - 1, address := if h.kind = 6 ∨ h.kind = 7 then 0 else h.address + BitVec.ofNat 32 (512 * g),
    payload := if h.kind = 4 ∨ h.kind = 6 ∨ h.kind = 7 then [] else d,
    atom := if put && h.rcc == 1 then some false else if put && h.rcc == 2 then some true else none,
    len := if h.kind = 4 then natAt d 0 4 else 0, back := if h.kind = 4 then BitVec.ofNat 32 (natAt d 4 4) else 0,
    reason := if h.kind = 7 then h.address.setWidth 8 else 0, deadline := if h.kind.toNat ≤ 3 && !m.bulk then h.deadline else 0, fromLink := true,
    cls := if m.bulk then 3 else if m.fed.any (fun j => j == 0 || (groupFrames h.flits g).contains j) then 1 else 0, slot := h.slot }

/-- A message of a bank against its window (R271). Requests and answers carry no number of their own. -/
inductive BankRes where
  | fresh (t : List (Nat × Win))
  | duplicate
  | refused
  deriving DecidableEq, Repr, Inhabited

def bankCheck (t : List (Nat × Win)) (h : HeadInfo) : BankRes :=
  if 4 ≤ h.kind.toNat then .fresh t else
  let key := h.source.toNat * 256 + h.dest.toNat
  match t.find? (fun p => p.1 == key) with
  | some (_, w) =>
    match winCheck w h.sequence.toNat with
    | .fresh w1 => .fresh (updFirst (fun p => p.1 == key) (fun _ => (key, w1)) t)
    | .duplicate => .duplicate
    | .beyond => .refused
  | none =>
    if 4096 ≤ t.length then .refused
    else match winCheck { low := 0, seen := [] } h.sequence.toNat with
      | .fresh w1 => .fresh (t ++ [(key, w1)])
      | _ => .refused

/-- The message of a bank that a head number names: a scheduled one before a bulk one. -/
def Link.msgOf (k : Link) (head : BitVec 16) (ok : RxMsg → Bool) : Option RxMsg :=
  let mine (m : RxMsg) : Bool := m.headSeq % 65536 == head.toNat && ok m
  (k.rxMsgs.find? fun m => !m.bulk && mine m).or (k.rxMsgs.find? fun m => m.bulk && mine m)

/-- A group has gone onto the mesh: its frames leave the buffer, of a bulk message as credit, and a message whose groups have
all gone leaves the bank. -/
def Link.issueGroup (k : Link) (m : RxMsg) (g : Nat) : Link :=
  let js := groupFrames m.head.flits g
  let m1 := { m with issued := g :: m.issued, frames := m.frames.filter fun q => !js.contains q.1 }
  { k with
    bulkFreed := k.bulkFreed + (if m.bulk then js.length + b2n m.issued.isEmpty else 0),
    rxMsgs := if m1.issued.length = ceilDiv m.head.flits 8 then remFirst (fun x => x == m) k.rxMsgs
      else updFirst (fun x => x == m) (fun _ => m1) k.rxMsgs }

/-- MESSAGE_ASSEMBLED: a group whose frames are all there goes onto the mesh; the message's first group passes the
window. -/
def xMessageAssembled (l : Nat) (head : BitVec 16) (g : Nat) (s : State) : State :=
  let k := s.link l
  match k.msgOf head (fun m => m.head.destMod.toNat == s.modAddr) with
  | none => s
  | some m =>
    let js := groupFrames m.head.flits g
    if js.isEmpty || m.issued.contains g || !(js.all fun j => m.frames.any fun q => q.1 == j) ||
        (!m.bulk && decide (m.head.deadline < s.clk.treadCount)) then s else
    let issue (s : State) : State :=
      (s.toMesh (groupPacket m g (js.flatMap fun j => tget [] m.frames j))).updLink l fun k => k.issueGroup m g
    if !m.issued.isEmpty then issue s
    else
      let b := bankOfLink l
      match bankCheck (tget [] s.windows b) m.head with
      | .fresh t => issue { s with windows := tset s.windows b t }
      | .duplicate => s.updLink l fun k => k.forget m
      | .refused => (s.updLink l fun k => k.forget m).notice m.head true

/-- The slot of a forwarded frame is taken (R289, R290): by a frame placed in it, by a message whose frames lie there, or by
another forwarded frame; or it has passed. -/
def Link.fwdTaken (k : Link) (now due i : Nat) : Bool :=
  decide (251 < i) || decide (due < now) || decide (slotTime due (schedSlot i) ≤ k.lastSlot) ||
  (k.txQ.any fun x => !x.bulk && x.tread == due && decide (x.start ≤ i) && decide (i < x.start + 1 + x.head.flits)) ||
  k.fwd.any fun f => f.1 == due && f.2.1 == i

/-- TWO_HOP_FORWARD (R269, R288, R290): in tread deadline − 3 a frame is given its own scheduled index on the second link, and
goes out in that slot; a frame that is too late for it, or whose slot is taken, waits in unscheduled slots at replay
priority. The content is encrypted anew under the second link's key and number when it goes out; the frame's `seq` counts
within its message until then. -/
def xTwoHopForward (l : Nat) (head : BitVec 16) (frame : Nat) (s : State) : State :=
  let k := s.link l
  match k.rxMsgs.find? (fun m => !m.bulk && m.headSeq % 65536 == head.toNat && m.head.twoHops && m.head.destMod.toNat != s.modAddr) with
  | none => s
  | some m =>
    let h := m.head
    let out := colLink (s.modAddr / 32) (h.destMod.toNat / 32)
    let now := s.clk.treadCount
    if h.flits < frame || m.forwarded.contains frame || !(frame == 0 || m.frames.any fun q => q.1 == frame) || decide (now + 3 < h.deadline) then s
    else if (s.link out).st ≠ .active ∨ (s.part h.banner).links.getLsbD out = false then s.lateAt l h
    else
      let o1 := s.link out
      let due := h.deadline - 3
      let h1 := { h with forwarded := true }
      let body : FrameBody := if frame = 0 then .head h1 else .data (tget [] m.frames frame)
      let tx : TxFrame := { kind := if frame = 0 then .schedHead else .schedData, seq := frame, body := body, bytes := [] }
      let hf : HeldFrame :=
        { cls := 0, seq := frame, replays := 0, nakked := false, unsent := true, head := some h1, frame := tx, sentAt := 0 }
      let o2 := match m.start.map (· + frame) with
        | some i =>
          if o1.fwdTaken now due i then { o1 with held := o1.held ++ [{ hf with nakked := true }] }
          else { o1 with fwd := o1.fwd ++ [(due, i, hf)] }
        | none => { o1 with held := o1.held ++ [{ hf with nakked := true }] }
      let m1 := { m with forwarded := frame :: m.forwarded, frames := m.frames.filter fun q => q.1 != frame }
      let done := decide (h.flits < m1.forwarded.length)
      (s.setLink out o2).updLink l fun k => { k with
        rxMsgs := if done then remFirst (fun x => x == m) k.rxMsgs else updFirst (fun x => x == m) (fun _ => m1) k.rxMsgs }

/-- LINK_MESSAGE_LATE (R270): a message whose deadline has passed at a bank that holds it, in reassembly under the number
of its head frame, or on its way out under its source's number. -/
def xLinkMessageLate (l : Nat) (head : BitVec 16) (s : State) : State :=
  let k := s.link l
  let now := s.clk.treadCount
  match k.rxMsgs.find? (fun m => !m.bulk && m.headSeq % 65536 == head.toNat && decide (m.head.deadline < now)) with
  | some m => s.lateAt l m.head
  | none =>
    match k.txQ.find? (fun m => !m.bulk && m.head.sequence == head && decide (m.head.deadline < now)) with
    | some m => s.lateAt l m.head
    | none => s

/-! ### Key epochs (R272) -/

/-- REKEY_ARM: at least 16 treads ahead; a request during an overlap waits until it ends. -/
def xRekeyArm (l at_ : Nat) (s : State) : State :=
  let k := s.link l
  if !k.up || k.rekeyAt.isSome then s
  else if k.txOverlap.isSome then s.setLink l { k with rekeyAsk := true }
  else if at_ < s.clk.treadCount + 16 then s
  else s.setLink l { k with rekeyAt := some at_, rekeyAsk := false }

/-- EPOCH_CHANGE: each direction changes at its armed boundary, after the step changes of the same tread (R41). The frame
counters of the new epoch start so that their low 16 bits are the link sequence numbers (R259). -/
def xEpochChange (l : Nat) (s : State) : State :=
  if s.stepDue then s else
  let k := s.link l
  let now := s.clk.treadCount
  let k1 := match k.rekeyAt with
    | some a => if a ≤ now then { k with
        epochNo := k.epochNo + 1, rekeyAt := none, txOverlap := some (a + 1000), rekeyAsk := false, epochBase := [0, 1, 2, 3].map fun c => (c, k.lowUnsent c / 65536 * 65536) } else k
    | none => k
  let k2 := match k1.rxRekeyAt with
    | some (a, e) =>
      if a ≤ now ∧ e ≠ k1.rxEpoch then { k1 with rxEpochNo := k1.rxEpochNo + 1, overlap := true, rxOverlapUntil := some (a + 1000), rxRekeyAt := none } else k1
    | none => k1
  s.setLink l k2

/-- OLD_KEY_DESTROY: the overlap ends; a request that waited for it is armed 16 treads ahead. -/
def xOldKeyDestroy (l : Nat) (s : State) : State :=
  let k := s.link l
  let now := s.clk.treadCount
  let k1 := match k.rxOverlapUntil with
    | some u => if u ≤ now then { k with overlap := false, rxOverlapUntil := none } else k
    | none => k
  let k2 := match k1.txOverlap with
    | some u =>
      if now < u then k1
      else if k1.rekeyAsk then { k1 with txOverlap := none, rekeyAsk := false, rekeyAt := some (now + 16) }
      else { k1 with txOverlap := none }
    | none => k1
  s.setLink l k2

def execFrameSlot (l : LinkId) (p : Fin 339) (s : State) : Out := .next (xFrameSlot l p s)
def execFrameReceipt (l : LinkId) (f : Frame) (s : State) : Out := .next (xFrameReceipt l f s)
def execStatusFrame (l : LinkId) (rx : StatusRx) (p : StatusPayload) (s : State) : Out := .next (xStatusFrame l rx p s)
def execMessageAssembled (l : LinkId) (head : BitVec 16) (g : Nat) (s : State) : Out := .next (xMessageAssembled l head g s)
def execTwoHopForward (l : LinkId) (head : BitVec 16) (frame : Nat) (s : State) : Out := .next (xTwoHopForward l head frame s)
def execLinkMessageLate (l : LinkId) (head : BitVec 16) (s : State) : Out := .next (xLinkMessageLate l head s)
def execRekeyArm (l : LinkId) (at_ : Nat) (s : State) : Out := .next (xRekeyArm l at_ s)
def execEpochChange (l : LinkId) (s : State) : Out := .next (xEpochChange l s)
def execOldKeyDestroy (l : LinkId) (s : State) : Out := .next (xOldKeyDestroy l s)

end Sys2Proof.Machine
end

