-- ==== Sys2Proof/Machine/Partition.lean ====
section
/-! DEFINITION. Partitions (R389 to R393, R401 to R404) and stream entries returning to FREE (R345, R358). -/

namespace Sys2Proof.Machine

/-! ### Stream entries -/

def streamOf (sid : BitVec 32) : Nat := sid.toNat % 65536
def sidOf (i : Nat) (e : StreamEntry) : BitVec 32 := BitVec.ofNat 32 (e.gen.toNat * 65536 + i)

/-- An entry returns to FREE: its generation is incremented, and it goes to the end of the order of allocation (R345). -/
def State.freeEntry (s : State) (i : Nat) : State :=
  let e := s.stream i
  if e.st = .free then s else
  { (s.setStream i { StreamEntry.reset with gen := e.gen + 1, freedAt := s.freeClock + 1 }) with
    freeClock := s.freeClock + 1,
    heldCmds := s.heldCmds.filter fun h => h.sid != sidOf i e,
    tasks := s.tasks.map fun (t : Task) => { t with slots := t.slots.filter fun q => q.2 != sidOf i e } }

/-- Entries of a banner's range (R344). -/
def Part.inRange (p : Part) (i : Nat) : Bool :=
  decide (p.rangeBase * 4096 ≤ i) && decide (i < (p.rangeBase + p.rangeCount) * 4096)

/-! ### Near-tier ownership and wheels -/

/-- A granule leaves its key: its earlier contents are unreadable and read as unlisted bytes do (R331, R393, log 4). -/
def Granule.rekey (g : Granule) (owner : Option Banner) : Granule :=
  { owner := owner, keyGen := g.keyGen + 1, mem := [], badUnit := [] }

/-- Entries of a stack's coming wheel: the one firmware still has to arm, else the armed one, else the current one. -/
def Stack.comingWheel (t : Stack) : Tbl (Option Banner) := t.wheelWant.getD (if t.armAt.isSome then t.wheelNext else t.wheel)

/-- Firmware arms a new wheel (R328, R38 to R40): for two treads ahead where none is pending; in place of a pending one, at its
count, where that is still two treads off; otherwise once the pending one has been applied. -/
def Stack.armWheel (t : Stack) (now : Nat) (w : Tbl (Option Banner)) : Stack :=
  match t.armAt with
  | none => { t with wheelNext := w, armAt := some (now + 2), atLo := BitVec.ofNat 32 (now + 2), atHi := BitVec.ofNat 32 ((now + 2) / 4294967296) }
  | some a => if a < now + 2 then { t with wheelWant := some w } else { t with wheelNext := w }

/-- Give `n` idle entries of a stack to a banner, lowest first, or take all of its entries. -/
def Stack.giveWheel (t : Stack) (now : Nat) (b : Banner) (n : Nat) : Stack :=
  let w := t.comingWheel
  let idle := ((List.range 16).filter fun k => (tget none w k).isNone).take n
  t.armWheel now (idle.foldl (fun w k => tset w k (some b)) w)

def Stack.takeWheel (t : Stack) (now : Nat) (b : Banner) : Stack :=
  let w := t.comingWheel
  if w.any (fun p => p.2 == some b) then t.armWheel now (w.map fun p => (p.1, if p.2 = some b then none else p.2)) else t

/-! ### PARTITION.CREATE (R391) -/

/-- The parameters of Table 18.2. -/
structure PartReq where
  banner : Banner
  power : Nat
  gallery : Nat
  halls : List Nat
  base : Nat
  count : Nat
  ns : Nat
  links : BitVec 64
  wheels : List Nat
  granules : List Nat
  root : BitVec 384
  deriving DecidableEq, Repr, Inhabited

def partReq (p : List Byte) : PartReq :=
  { banner := Fin.ofNat 8 (natAt p 0 1), power := natAt p 1 1, gallery := natAt p 2 2,
    halls := (List.range 20).filter fun h => bitOf (natAt p 4 3) h, base := natAt p 7 1, count := natAt p 8 1,
    ns := natAt p 10 2, links := BitVec.ofNat 64 (natAt p 16 8), wheels := (List.range 8).map fun n => natAt p (24 + n) 1,
    granules := (List.range 264).filter fun g => bitOf (natAt p 32 33) g, root := BitVec.ofNat 384 (natAt p 80 48) }

def PartReq.stackTbl (r : PartReq) : List Nat := (List.range 8).filter fun n => r.granules.any fun g => g / 33 == n
def PartReq.blocks (r : PartReq) : List Nat := (List.range r.count).map (r.base + ·)
def Part.blocks (p : Part) : List Nat := (List.range p.rangeCount).map (p.rangeBase + ·)

/-- The request names a hall, granule, block or link of the partition. -/
def PartReq.hallMeets (r : PartReq) (p : Part) : Bool := r.halls.any p.halls.contains
def PartReq.otherMeets (r : PartReq) (p : Part) : Bool :=
  r.granules.any p.granules.contains || r.blocks.any p.blocks.contains || r.links &&& p.links != 0

def State.validParts (s : State) : List Part := (s.parts.map (·.2)).filter (·.valid)

/-- Sum over the partitions that exist. -/
def State.partSum (s : State) (f : Part → Nat) : Nat := (s.validParts.map f).sum

/-- Namespace GiB in use, with what is still being erased (R403). -/
def State.nsUsed (s : State) : Nat := s.partSum (·.ns) + ((s.parts.map (·.2)).map (·.nsOld)).sum

/-- The lack that check 5 finds: wheel entries, power, gallery, namespace. -/
def State.createLack (s : State) (r : PartReq) : Option Nat :=
  let wheel (n : Nat) : Nat := s.partSum (fun p => tget 0 p.wheels n) + r.wheels.getD n 0
  match (List.range 8).find? (fun n => decide (16 < wheel n)) with
  | some n => some (wheel n - 16)
  | none =>
    if 100 < s.partSum (·.power) + r.power then some (s.partSum (·.power) + r.power - 100)
    else if 4000 < s.partSum (·.gallery) + r.gallery then some (s.partSum (·.gallery) + r.gallery - 4000)
    else if 2048 < s.nsUsed + r.ns then some (s.nsUsed + r.ns - 2048)
    else none

/-- The checks of R391 in order, with R403. -/
def State.createCheck (s : State) (r : PartReq) : Option (BitVec 16 × Payload) :=
  let td := s.validParts.filter (·.teardown)
  if (s.part r.banner).valid then some (stBusy, .none)
  else if td.any (fun p => r.hallMeets p || r.otherMeets p) then some (stBusy, .none)
  else if r.halls.isEmpty || !(r.halls.all s.hallOn) || s.validParts.any r.hallMeets then some (stNotPermitted, .none)
  else if s.validParts.any r.otherMeets || decide (16 < r.base + r.count) then some (stNotPermitted, .none)
  else if r.count = 0 then some (stBadParam, .none)
  else if (List.range 8).any (fun n => decide (16 < r.wheels.getD n 0) || (r.wheels.getD n 0 != 0) != r.stackTbl.contains n) then
    some (stBadParam, .none)
  else match s.createLack r with
    | some n => some (stNoCapacity, .shortfall n)
    | none => if r.root = 0 then some (stBadParam, .none) else none

/-- Assign the resources of a partition definition: halls, granules with new keys, wheels and links. -/
def State.assign (s : State) (b : Banner) (p : Part) : State :=
  let s1 := p.halls.foldl (fun s h => s.updHall h fun x => { x with assigned := true, banner := b }) s
  let s2 := p.granules.foldl (fun s g => s.setGranule g ((s.granule g).rekey (some b))) s1
  p.wheels.foldl (fun s w => s.setStack w.1 ((s.stack w.1).giveWheel s.clk.treadCount b w.2)) s2

/-- PARTITION.CREATE. -/
def xPartitionCreate (r : CmdRef) (s : State) : State :=
  s.cmd r 0x0201 fun a s =>
    let q := partReq a.params
    match s.createCheck q with
    | some (st, p) => s.finish r st p
    | none =>
      let old := s.part q.banner
      let wheels : Tbl Nat := (q.stackTbl.map fun n => (n, q.wheels.getD n 0))
      let p := { Part.reset with
        saved := true, valid := true, halls := q.halls, links := q.links, gallery := q.gallery, power := q.power, ns := q.ns, erasing := old.erasing, nsOld := old.nsOld, root := q.root, rangeBase := q.base, rangeCount := q.count, granules := q.granules, wheels := wheels }
      ((s.setPart q.banner p).assign q.banner p).finish r stOk .none

/-! ### PARTITION.DESTROY (R402 to R404) -/

/-- The banner's partition is being torn down: commands that name it are refused (Table 18.8). -/
def State.tearing (s : State) (b : Banner) : Bool := (s.part b).valid && (s.part b).teardown

/-- A gallery command in progress on a slot that the banner holds. -/
def State.onSlotOf (s : State) (b : Banner) (r : CmdRef) : Bool :=
  let held (g : GSlot) : Bool := g.banner == b && !g.revoked
  (s.gal.waiting.any fun w => w.1 == r && held (s.slot w.2.1.val)) ||
  s.gal.slots.any fun p => (p.2.commitRef == some r || p.2.eraseRef == some r) && held p.2

/-- A command of a banner: one of its owner that addresses it, or one on a gallery slot that it holds. DESIGN CHOICE (log 26): the
manual does not say which commands of the management attachment are a banner's. -/
def State.cmdOf (s : State) (b : Banner) (a : Accepted) : Bool :=
  match opInfo a.opcode.toNat with
  | some (.owner, _) => a.banner == b
  | _ => s.onSlotOf b a.ref

/-- Step 1: commands of the banner that replied PENDING, other than the destroy itself, reply TASK_ABORTED; what a flash operation on a
slot has begun goes on. -/
def State.endCommands (s : State) (b : Banner) (but : CmdRef) : State :=
  let l := s.accepted.filter fun a => a.begun && s.cmdOf b a && a.ref != but
  let refs := l.map (·.ref)
  { (s.endAll l stTaskAborted) with
    heldCmds := s.heldCmds.filter fun h => match h.ref with | some r => !refs.contains r | none => true,
    gal := { s.gal with waiting := s.gal.waiting.filter fun w => !refs.contains w.1 },
    far := { s.far with waiting := s.far.waiting.filter fun w => !refs.contains w.1 } }

/-- Hardware clear of a hall, at S1 or above (R82). -/
def State.clearHall (s : State) (h : Nat) : State := (hallCores h).foldl (fun s c => s.clearCore c) s

/-- A hall is at S1 or above, or has no core to clear. -/
def State.mayClear (s : State) (h : Nat) : Bool := !s.hallOn h || (s.hall h).stepCur != 0

/-- Arm S1 for the halls of a teardown that are below it (R38, R402); an arm that R40 refuses is made again at the next boundary. -/
def State.raiseHalls (s : State) (b : Nat) : State :=
  if (s.part b).tdHalls.isEmpty then s else (s.armTask (s.part b).tdHalls 1 (s.clk.treadCount + 2)).1

/-- Steps 3 to 6 of R402, which can be repeated without harm (R404). -/
def State.teardownScrub (s : State) (b : Banner) : State :=
  let p := s.part b
  let now := s.clk.treadCount
  let s1 := { s with sec := { s.sec with
    keys := s.sec.keys.filter fun k => k.2.banner != b, sessions := s.sec.sessions.filter fun k => k.2.rootDigest != p.root } }
  let s2 := p.granules.foldl (fun s g => s.setGranule g ((s.granule g).rekey (some b))) s1
  let links := (List.range 64).filter fun l => p.links.getLsbD l
  let s3 := links.foldl (fun s l => s.teardown l 0xF) s2
  let s4 := ((p.halls.filter s.mayClear).foldl (fun s h => s.clearHall h) s3).updPart b fun q => { q with
    tdHalls := p.halls.filter fun h => !s.mayClear h }
  let s5 := ((s4.streams.map (·.1)).filter p.inRange).foldl (fun s i => s.freeEntry i) s4
  let objs := s5.far.objs.filter fun o => o.banner != b
  let s6 := { s5 with
    far := { s5.far with objs := objs }, stackTbl := s5.stackTbl.map fun (x : Nat × Stack) => (x.1, x.2.takeWheel now b), stores := s5.stores.filter fun m => m.2.banner != b }
  let slots := (List.range 8).filter fun i => (s6.slot i).st != .empty && (s6.slot i).banner == b && !(s6.slot i).revoked
  slots.foldl (fun s i =>
    let g := s.slot i
    if p.tdErase then s.setSlot i { g with st := .erasing } else s.setSlot i { g with banner := 0, revoked := true }) s6

/-- Step 7: the resources are free, the intent is cleared and the destroy replies OK. -/
def State.teardownEnd (s : State) (b : Banner) : State :=
  let p := s.part b
  let s1 := p.halls.foldl (fun s h => s.updHall h fun x => { x with assigned := false, banner := 0 }) s
  let s2 := p.granules.foldl (fun s g => s.setGranule g ((s.granule g).rekey none)) s1
  let s3 := s2.setPart b { Part.reset with erasing := p.erasing || decide (0 < p.ns), nsOld := p.nsOld + p.ns }
  match p.tdRef with
  | some r => s3.finish r stOk .none
  | none => s3

/-- The teardown is complete but for its zero-fill and its slot erases. -/
def State.teardownTry (s : State) (b : Banner) : State :=
  let p := s.part b
  let busy := p.tdErase && (List.range 8).any fun i => (s.slot i).st == .erasing && (s.slot i).banner == b
  if p.valid && p.teardown && !p.tdZero && p.tdHalls.isEmpty && !busy then s.teardownEnd b else s

/-- At a boundary: halls that have been raised are cleared, and the teardown ends when nothing is left to do (R402). -/
def State.teardownTread (s : State) (b : Banner) : State :=
  let l := (s.part b).tdHalls
  if l.isEmpty then s else
  let s1 := ((l.filter s.mayClear).foldl (fun s h => s.clearHall h) s).updPart b fun p => { p with tdHalls := l.filter fun h => !s.mayClear h }
  if s1.clk.armAt.isNone then (s1.raiseHalls b).teardownTry b else s1.teardownTry b

/-- PARTITION.DESTROY: it replies PENDING once it starts. -/
def xPartitionDestroy (r : CmdRef) (s : State) : State :=
  s.cmd r 0x0202 fun a s =>
    let b : Banner := Fin.ofNat 8 (natAt a.params 0 1)
    let p := s.part b
    if !p.valid then s.finish r stBanner .none
    else if p.teardown then s.finish r stBusy .none
    else
      let s1 := ((s.pendOn r).endCommands b r).updPart b fun p => { p with
        teardown := true, tdRef := some r, tdZero := bitOf (natAt a.params 1 1) 0 && !p.granules.isEmpty, tdErase := bitOf (natAt a.params 1 1) 1 }
      let s2 := (s1.tasks.filter fun t => t.banner == b).foldl (fun s t => s.killTask t 0x72 0x72) s1
      let s3 := (s2.teardownScrub b).updPart b fun p => { p with crash := none, capCores := 0, penTask := 0, pens := [], signKeys := [] }
      (({ s3 with tasks := s3.tasks.filter fun t => t.banner != b }).raiseHalls b).teardownTry b

/-- ZERO_FILL_DONE (R402). -/
def xZeroFillDone (b : Banner) (s : State) : State :=
  if (s.part b).teardown && (s.part b).tdZero then (s.updPart b fun p => { p with tdZero := false }).teardownTry b else s

/-- NAMESPACE_ERASE_DONE (R403): the space is free; its records went with the teardown (log 27). -/
def xNamespaceEraseDone (b : Banner) (s : State) : State :=
  let p := s.part b
  if !p.erasing then s else s.setPart b { p with erasing := false, nsOld := 0 }

/-! ### The other PARTITION commands (R392) -/

def State.taskLoaded (s : State) (b : Banner) : Bool := s.tasks.any fun t => t.live && t.banner == b

/-- PARTITION.ASSIGN_HOST. -/
def xPartitionAssignHost (r : CmdRef) (owner : FnId) (s : State) : State :=
  s.cmd r 0x0203 fun a s =>
    let p := s.part a.banner
    if !p.valid then s.finish r stNotPermitted .none
    else if p.teardown then s.finish r stBusy .none
    else (s.setPart a.banner { p with owner := some owner }).finish r stOk .none

/-- PARTITION.SET_TAG: every link of the partition retrains. -/
def xPartitionSetTag (r : CmdRef) (tag : BitVec 64) (s : State) : State :=
  s.cmd r 0x0205 fun a s =>
    let p := s.part a.banner
    if !p.valid then s.finish r stBanner .none
    else if p.teardown || s.taskLoaded a.banner then s.finish r stBusy .none
    else
      let s1 := s.setPart a.banner { p with tag := tag }
      (((List.range 64).filter fun l => p.links.getLsbD l).foldl (fun s l => s.teardown l 0xF) s1).finish r stOk .none

/-- Bits of a list of small numbers. -/
def maskOf (l : List Nat) : Nat := (l.map fun i => 2 ^ i).sum

/-- PARTITION.QUERY: every partition for the management attachment, a tenant's own otherwise. -/
def xPartitionQuery (r : CmdRef) (s : State) : State :=
  s.cmd r 0x0204 fun _ s =>
    let seen := s.parts.filter fun p => p.2.valid && (s.isMgmt r.fn || p.2.owner == some r.fn)
    s.finish r stOk (.partitions (seen.map fun p =>
      (p.1, BitVec.ofNat 20 (maskOf p.2.halls), p.2.links, p.2.gallery, p.2.power)))

/-- PROGRAM.SET_KEY (R401). -/
def xProgramSetKey (r : CmdRef) (position : Fin 4) (id : BitVec 32) (key : BitVec 768) (s : State) : State :=
  s.cmd r 0x0305 fun a s =>
    let p := s.part a.banner
    if !p.valid || p.teardown then s.finish r stBanner .none
    else
      let old := p.signKeys.find? fun k => k.1 == position.val
      let used := match old with
        | some (_, i, k) => decide ((i, k) ≠ (id, key)) && s.tasks.any fun t => t.live && t.banner == a.banner && t.keyId == i
        | none => false
      if used then s.finish r stBusy .none
      else
        let keys := if key = 0 then tdel p.signKeys position.val else tset p.signKeys position.val (id, key)
        (s.setPart a.banner { p with signKeys := keys }).finish r stOk .none

def execPartitionCreate (r : CmdRef) (s : State) : Out := .next (xPartitionCreate r s)
def execPartitionDestroy (r : CmdRef) (s : State) : Out := .next (xPartitionDestroy r s)
def execPartitionAssignHost (r : CmdRef) (owner : FnId) (s : State) : Out := .next (xPartitionAssignHost r owner s)
def execPartitionSetTag (r : CmdRef) (tag : BitVec 64) (s : State) : Out := .next (xPartitionSetTag r tag s)
def execPartitionQuery (r : CmdRef) (s : State) : Out := .next (xPartitionQuery r s)
def execProgramSetKey (r : CmdRef) (p : Fin 4) (id : BitVec 32) (key : BitVec 768) (s : State) : Out :=
  .next (xProgramSetKey r p id key s)
def execZeroFillDone (b : Banner) (s : State) : Out := .next (xZeroFillDone b s)
def execNamespaceEraseDone (b : Banner) (s : State) : Out := .next (xNamespaceEraseDone b s)

end Sys2Proof.Machine
end

