-- ==== Sys2Proof/Machine/Security.lean ====
section
/-! DEFINITION. Keys, SPDM and the life cycle (R385, R386, R396 to R401, R407 to R411). -/

namespace Sys2Proof.Machine

/-! ### Class A keys -/

/-- The number by which calendar seconds are ordered. -/
def secondOrd (y mo d h mi se : Nat) : Nat := ((((y * 16 + mo) * 32 + d) * 32 + h) * 64 + mi) * 64 + se

/-- An expiry in the stamp layout of Table 14.2. -/
def expiryOrd (e : BitVec 64) : Nat :=
  let v := e.toNat
  secondOrd (fieldOf v 15 0) (fieldOf v 23 16) (fieldOf v 31 24) (fieldOf v 39 32) (fieldOf v 47 40) (fieldOf v 55 48)

def Clk.secondNow (c : Clk) : Nat := secondOrd c.year c.month c.day c.hour c.minute c.second

/-- The slot that holds a key of a banner and use. -/
def State.keySlot (s : State) (b : Banner) (gallery : Bool) (id : BitVec 32) : Option (Nat × KeySlot) :=
  s.sec.keys.find? fun k => k.2.banner == b && k.2.gallery == gallery && k.2.keyId == id

/-- The far-tier key with this id is held (R334, R400). -/
def State.farKeyHeld (s : State) (b : Banner) (id : BitVec 32) : Bool :=
  match s.keySlot b false id with
  | some (_, k) => s.keyLive k
  | none => false

/-- Authenticated metadata of a record (R334). -/
def FarObj.meta (o : FarObj) (index seq : Nat) : List Nat :=
  [o.banner.val, b2n o.stream, o.owner.toNat, index, seq, o.keyId.toNat]

/-- The class A key a record group names, as its slot holds it (R334). -/
def State.farKey (s : State) (o : FarObj) : BitVec 256 :=
  match s.keySlot o.banner false o.keyId with
  | some (_, k) => k.key
  | none => 0

/-- Seal data as the record with a given index and sequence number (R334). -/
def State.seal (s : State) (o : FarObj) (index seq : Nat) (d : List Byte) : FarRec :=
  { index := index, seq := seq, nonce := Config.farNonce seq, data := d,
    tag := Config.gcmTag (s.farKey o) (Config.farNonce seq) (o.meta index seq) d }

/-- The tag of a record verifies under the key held for its key id; no other key is tried (R334). -/
def State.recOk (s : State) (o : FarObj) (r : FarRec) : Bool :=
  Config.gcmTag (s.farKey o) r.nonce (o.meta r.index r.seq) r.data == r.tag

/-- The namespace's write key (R400). -/
def State.writeKeyOf (s : State) (b : Banner) : Option (BitVec 32) :=
  (s.sec.keys.find? fun k => k.2.banner == b && !k.2.gallery && k.2.wr && s.keyLive k.2).map (·.2.keyId)

/-- Records that name a far-tier key. -/
def State.farRecords (s : State) (b : Banner) (id : BitVec 32) : Nat :=
  ((s.far.objs.filter fun o => o.banner == b && o.keyId == id).map fun o => o.recs.length + b2n o.complete).sum

/-- A loaded task references an image under a gallery key (R400). -/
def State.galKeyUsed (s : State) (b : Banner) (id : BitVec 32) : Bool :=
  s.tasks.any fun t => t.live && t.grefs.any fun g =>
    (s.slot g.slot).banner == b && natAt (s.slot g.slot).header 32 4 == id.toNat

def State.bannerSlots (s : State) (b : Banner) : Nat := (s.sec.keys.filter fun k => k.2.banner == b).length

/-- Free slots of a banner: at most 16 of the 64 (R398). -/
def State.freeSlots (s : State) (b : Banner) : Nat := min (16 - s.bannerSlots b) (64 - s.sec.keys.length)

def State.setKeys (s : State) (f : Tbl KeySlot → Tbl KeySlot) : State := { s with sec := { s.sec with keys := f s.sec.keys } }

/-- Discard a key: BUSY, KEY_FAIL when it is not held, or OK (R400). -/
def State.discardKey (s : State) (b : Banner) (gallery : Bool) (id : BitVec 32) (force : Bool) : State × BitVec 16 :=
  match s.keySlot b gallery id with
  | none => (s, stKeyFail)
  | some (i, _) =>
    if gallery && s.galKeyUsed b id then (s, stBusy)
    else if !gallery && !force && s.farRecords b id != 0 then (s, stBusy)
    else (s.setKeys fun k => tdel k i, stOk)

/-- The payload of Table 18.6. -/
structure KeyMsg where
  op : Nat
  banner : Nat
  use : Nat
  force : Bool
  id : BitVec 32
  expiry : BitVec 64
  key : BitVec 256
  bad : Bool        -- a byte that must be zero is not
  deriving DecidableEq, Repr, Inhabited

def keyMsg (p : List Byte) : KeyMsg :=
  { op := natAt p 0 1, banner := natAt p 1 1, use := natAt p 2 1, force := bitOf (natAt p 3 1) 0,
    id := BitVec.ofNat 32 (natAt p 4 4), expiry := BitVec.ofNat 64 (natAt p 8 8), key := BitVec.ofNat 256 (natAt p 16 32),
    bad := decide (2 ≤ natAt p 3 1) || !allZero (bytesAt p 48 16) || p.length != 64 ||
      (natAt p 0 1 != 1 && !allZero (bytesAt p 16 32)) }

/-- The session may speak for the banner (R399). -/
def State.sessionFor (s : State) (session : Nat) (b : Nat) : Bool :=
  match s.sec.sessions.find? (fun x => x.1 == session) with
  | some (_, p) => p.mutualAuth && (s.part b).valid && !(s.part b).teardown && (s.part b).root == p.rootDigest
  | none => false

/-- The response: status and the banner's free slot count (R399, log 25). -/
def State.keyReply (s : State) (b : Nat) (st : BitVec 16) : State :=
  { s with sec := { s.sec with spdmOut := (leBytes 2 st.toNat ++ leBytes 2 (s.freeSlots (Fin.ofNat 8 b))) :: s.sec.spdmOut } }

/-- A message of Table 18.6 with the op of its row; no response is made outside a session. -/
def State.keyMessage (s : State) (session op : Nat) (payload : List Byte) (act : KeyMsg → Banner → State × BitVec 16) : State :=
  if !(s.sec.sessions.any fun x => x.1 == session) then s else
  let m := keyMsg payload
  if m.op ≠ op ∨ 8 ≤ m.banner ∨ m.use = 0 ∨ 3 ≤ m.use ∨ m.bad = true then s.keyReply (m.banner % 8) stBadParam
  else if !s.sessionFor session m.banner then s.keyReply m.banner stBanner
  else
    let (s1, st) := act m (Fin.ofNat 8 m.banner)
    s1.keyReply m.banner st

/-- The gallery and far-tier read paths are gated off by the state bit of RETURNED (R410). -/
def State.readsGated (s : State) : Bool := s.sec.lcBits.getLsbD 2

/-- A rebuilt entry, whose context length no PARKED stream has, takes its other fields from its park-complete record once a key is
held that opens it (R420). -/
def State.restoreStream (s : State) (o : FarObj) : State :=
  let i := streamOf o.owner
  let e := s.stream i
  match o.entry with
  | none => s
  | some f =>
    if o.last.all (s.recOk o) && e.st == .parked && e.context == 0 && e.banner == o.banner && sidOf i e == o.owner then
      s.setStream i { e with toStreamFields := { f with gen := e.gen, st := .parked, banner := e.banner, slot := none, parkRun := false, resumeRun := false } }
    else s

/-- The entries whose park-complete records a far-tier key opens (R420). -/
def State.restoreStreams (s : State) (b : Banner) (id : BitVec 32) : State :=
  (s.far.objs.filter fun o => o.stream && o.complete && o.banner == b && o.keyId == id).foldl (fun s o => s.restoreStream o) s

/-- KEY_DELIVER (R399, R400); the entries that a cold start rebuilt from records under the key get their fields back (R420). -/
def xKeyDeliver (session : Nat) (payload : List Byte) (s : State) : State :=
  s.keyMessage session 1 payload fun m b =>
    let gallery := m.use == 2
    if m.id = 0 ∨ (m.expiry ≠ 0 ∧ s.clk.calValid = false) then (s, stBadParam)
    else match s.keySlot b gallery m.id with
      | some (_, k) => (s, if k.key = m.key then stOk else stNotPermitted)
      | none =>
        if s.freeSlots b = 0 then (s, stNoCapacity)
        else
          let i := ((List.range 64).find? fun i => !(s.sec.keys.any fun k => k.1 == i)).getD 0
          let s1 := s.setKeys fun t => tset t i
            { banner := b, gallery := gallery, keyId := m.id, key := m.key, wr := false, expiry := m.expiry }
          (if gallery then s1 else s1.restoreStreams b m.id, stOk)

/-- KEY_DISCARD in a session. -/
def xKeyDiscard (session : Nat) (payload : List Byte) (s : State) : State :=
  s.keyMessage session 2 payload fun m b => s.discardKey b (m.use == 2) m.id m.force

/-- SET_WRITE_KEY (R400): the one far-tier key under which new records are written. -/
def xSetWriteKey (session : Nat) (payload : List Byte) (s : State) : State :=
  s.keyMessage session 3 payload fun m b =>
    if m.use ≠ 1 then (s, stBadParam)
    else match s.keySlot b false m.id with
      | none => (s, stKeyFail)
      | some (i, k) =>
        if !s.keyLive k then (s, stKeyFail) else
        (s.setKeys fun t => t.map fun (k : Nat × KeySlot) =>
          if k.2.banner = b ∧ k.2.gallery = false then (k.1, { k.2 with wr := k.1 == i }) else k, stOk)

/-- KEY_EXPIRY (R400): a held key is discarded at the calendar second it names. -/
def xKeyExpiry (slot : Nat) (s : State) : State :=
  match s.sec.keys.find? (fun k => k.1 == slot) with
  | none => s
  | some (_, k) =>
    if k.expiry != 0 && s.clk.calValid && decide (expiryOrd k.expiry ≤ s.clk.secondNow) then
      (s.setKeys fun t => tdel t slot).logEvent 5 0x0C 0 (some k.banner) [k.keyId.toNat]
    else s

/-- SECURITY.KEY_STATUS: use, key id, and the far-tier records that name it (R398). -/
def xSecurityKeyStatus (r : CmdRef) (s : State) : State :=
  s.cmd r 0x0801 fun a s =>
    s.finish r stOk (.keys ((s.sec.keys.filter fun k => k.2.banner == a.banner).map fun k =>
      (k.2.gallery, k.2.keyId, if k.2.gallery then 0 else s.farRecords a.banner k.2.keyId)))

/-- SECURITY.KEY_DISCARD. -/
def xSecurityKeyDiscard (r : CmdRef) (gallery : Bool) (id : BitVec 32) (force : Bool) (s : State) : State :=
  s.cmd r 0x0802 fun a s =>
    let (s1, st) := s.discardKey a.banner gallery id force
    s1.finish r st .none

/-! ### SPDM responses (R386, Table 18.4) -/

def protCtl (x : Sec) : Nat := b2n x.jtagLimit + 2 * b2n x.bannerWr + 4 * b2n x.tenantFilter + 8 * b2n x.testOpen

/-- The six measurements of Table 18.4. -/
def State.measurements (s : State) : List Byte :=
  let dig (i v : Nat) : List Byte := leBytes 48 (Config.fwDigest i v).toNat
  dig 1 0 ++ dig 2 s.sec.encSecver.toNat ++ leBytes 4 s.sec.encSecver.toNat ++
  dig 3 s.fw.secver.toNat ++ leBytes 1 (b2n s.fw.activeB) ++ leBytes 4 s.fw.secver.toNat ++
  s.settings.optA.getD [] ++ s.settings.optB.getD [] ++ leBytes 1 (protCtl s.sec) ++ leBytes 1 (b2n s.sec.lock) ++
  leBytes 1 s.sec.lcBits.toNat ++ leBytes 1 (s.sec.intent.toNat + 16 * s.sec.confirm.toNat)

/-- An SPDM response; none without the identity key (log 25). -/
def State.spdm (s : State) (b : List Byte) : State :=
  if s.sec.identityKey then { s with sec := { s.sec with spdmOut := b :: s.sec.spdmOut } } else s

def xGetCertificate (s : State) : State := s.spdm (Config.certChain s.otp.serial)
def xChallenge (nonce : BitVec 256) (s : State) : State :=
  s.spdm (Config.identitySign s.otp.serial (leBytes 32 nonce.toNat ++ s.sec.measured))
def xGetMeasurements (s : State) : State := s.spdm s.sec.measured

/-- KEY_EXCHANGE: a secured session with the requester. -/
def xKeyExchange (p : SpdmPeer) (s : State) : State :=
  if s.sec.identityKey then { s with sec := { s.sec with sessions := tset s.sec.sessions p.session p } } else s

/-- An image for the inactive firmware slot: its digest and its security version must pass (R396). -/
def State.stage (s : State) (img : FwImage) : State × BitVec 16 :=
  if !img.digestOk then (s, stSignatureFail)
  else if img.secver.toNat < s.sec.rollback.toNat then (s, stNotPermitted)
  else ({ s with fw := { s.fw with staged := some img } }, stOk)

/-- PLDM_FIRMWARE_UPDATE (R385). -/
def xPldmFirmwareUpdate (img : FwImage) (s : State) : State := (s.stage img).1

/-- SECURITY.CERT_READ. -/
def xSecurityCertRead (r : CmdRef) (s : State) : State :=
  s.cmd r 0x0804 fun _ s =>
    s.finish r stOk (.bytes (if s.sec.identityKey then Config.certChain s.otp.serial else []))

/-! ### The life cycle (R407 to R409) -/

/-- Transitions of Table 18.12, and whether a token is needed. -/
def lcTransition (fromSt target : Nat) : Option Bool :=
  match fromSt, target with
  | 0, 1 => some true
  | 1, 2 => some false
  | 1, 3 => some true
  | 2, 3 => some true
  | 2, 4 => some true
  | 3, 4 => some true
  | _, _ => none

def setBit4 (b : BitVec 4) (i : Nat) : BitVec 4 := b ||| (1#4 <<< i)

/-- Every partition definition, key and root goes (Table 18.12, entering RETURNED or RETIRED): of class B (Table 18.5) the granule and
stack reserve keys and the secrets of the links. -/
def State.destroyTenants (s : State) : State :=
  let s1 := (s.tasks.filter Task.live).foldl (fun s t => s.killTask t 0x72 0x72) s
  let s2 := (List.range 64).foldl (fun s l => if (s.link l).up || (s.link l).secret.isSome then s.teardown l 0xF else s) s1
  let s3 := (s2.streams.map (·.1)).foldl (fun s i => s.freeEntry i) s2
  { s3 with
    sec := { s3.sec with keys := [], sessions := [] },
    granules := s3.granules.map fun (g : Nat × Granule) => (g.1, g.2.rekey none),
    halls := s3.halls.map fun (h : Nat × Hall) => (h.1, { h.2 with assigned := false, banner := 0 }),
    stackTbl := (List.range 8).map fun n => (n, { s3.stack n with wheel := [], wheelNext := [], wheelWant := none, armAt := none, reserve := (s3.stack n).reserve.rekey none }),
    parts := [], stores := [], settings := { s3.settings with parts := none, capModule := 2400 }, pwr := { s3.pwr with capModule := 2400 } }

/-- Step 2: destroy the secrets of the target (Table 18.12). -/
def State.destroySecrets (s : State) (target : Nat) : State :=
  if target = 1 then { s with sec := { s.sec with testSecrets := false } }
  else if target = 2 then { s with sec := { s.sec with factoryKey := false } }
  else
    let s1 := s.destroyTenants
    if target = 4 then { s1 with sec := { s1.sec with identityKey := false, testSecrets := false, factoryKey := false } } else s1

/-- One step of a transition in the event log (Table 20.6, kind 0x06). -/
def State.lcLog (s : State) (target step : Nat) : State :=
  s.log 6 6 target none 0 [step, s.sec.intent.toNat + 16 * s.sec.confirm.toNat]

/-- Steps 2 to 4 of R409. -/
def State.lcFinish (s : State) (target : Nat) : State :=
  let i := target - 1
  let s1 := (s.destroySecrets target).lcLog target 2
  let s2 := ({ s1 with sec := { s1.sec with
    lcCells := s1.sec.lcCells.program i, identityKey := s1.sec.identityKey || target == 1 } }).lcLog target 3
  ({ s2 with sec := { s2.sec with confirm := setBit4 s2.sec.confirm i } }).lcLog target 4

/-- A transition whose intent bit has no confirm bit is completed at boot (R409). -/
def State.lcResume (s : State) : State :=
  match (List.range 4).find? (fun i => s.sec.intent.getLsbD i && !s.sec.confirm.getLsbD i) with
  | none => { s with sec := { s.sec with resumed := false } }
  | some i =>
    let s1 := s.lcFinish (i + 1)
    { s1 with sec := { s1.sec with resumed := true } }

/-- SECURITY.LIFECYCLE in query mode (R408). -/
def xSecurityLifecycleQuery (r : CmdRef) (s : State) : State :=
  s.cmd r 0x0803 fun _ s =>
    let n := Config.enclaveRandom s.fresh
    ({ s with sec := { s.sec with nonce := some n } }).tick.finish r stOk (.nonce n)

/-- SECURITY.LIFECYCLE: a transition, with its four steps. -/
def xSecurityLifecycle (r : CmdRef) (target : Fin 5) (nonce : BitVec 128) (token : List Byte) (s : State) : State :=
  s.cmd r 0x0803 fun _ s =>
    match lcTransition (lcOf s.sec.lcBits) target.val with
    | none => s.finish r stLifecycle .none
    | some tok =>
      if s.sec.nonce ≠ some nonce then s.finish r stSignatureFail .none
      else if tok && !Config.tokenValid s.otp.serial target.val nonce token then s.finish r stSignatureFail .none
      else
        let s1 := ({ s with sec := { s.sec with intent := setBit4 s.sec.intent (target.val - 1) } }).lcLog target.val 1
        (s1.lcFinish target.val).finish r stOk .none

def execKeyDeliver (n : Nat) (p : List Byte) (s : State) : Out := .next (xKeyDeliver n p s)
def execKeyDiscard (n : Nat) (p : List Byte) (s : State) : Out := .next (xKeyDiscard n p s)
def execSetWriteKey (n : Nat) (p : List Byte) (s : State) : Out := .next (xSetWriteKey n p s)
def execKeyExpiry (slot : Fin 64) (s : State) : Out := .next (xKeyExpiry slot.val s)
def execGetCertificate (s : State) : Out := .next (xGetCertificate s)
def execChallenge (n : BitVec 256) (s : State) : Out := .next (xChallenge n s)
def execGetMeasurements (s : State) : Out := .next (xGetMeasurements s)
def execKeyExchange (p : SpdmPeer) (s : State) : Out := .next (xKeyExchange p s)
def execPldmFirmwareUpdate (img : FwImage) (s : State) : Out := .next (xPldmFirmwareUpdate img s)
def execSecurityKeyStatus (r : CmdRef) (s : State) : Out := .next (xSecurityKeyStatus r s)
def execSecurityKeyDiscard (r : CmdRef) (g : Bool) (id : BitVec 32) (force : Bool) (s : State) : Out :=
  .next (xSecurityKeyDiscard r g id force s)
def execSecurityLifecycleQuery (r : CmdRef) (s : State) : Out := .next (xSecurityLifecycleQuery r s)
def execSecurityLifecycle (r : CmdRef) (t : Fin 5) (n : BitVec 128) (tok : List Byte) (s : State) : Out :=
  .next (xSecurityLifecycle r t n tok s)
def execSecurityCertRead (r : CmdRef) (s : State) : Out := .next (xSecurityCertRead r s)

end Sys2Proof.Machine
end

