-- ==== Sys2Proof/Machine/BlockReset.lean ====
section
/-! DEFINITION. Block resets (R416, R425, R426, Table 19.3). -/

namespace Sys2Proof.Machine

/-- Abort the tasks that satisfy a test, with origin reason 0xFF (R425). -/
def State.abortWhere (s : State) (p : Task → Bool) : State :=
  (s.tasks.filter fun t => t.live && p t).foldl (fun s t => s.abortTask t 0x70 0xFF) s

/-- BLOCK_RESET_HALL: a hall, or one core of it. The tasks on it end, posted near-tier writes are completed, then the
cores are cleared; they are CLEARING until the block is back in service. -/
def xBlockResetHall (core : Option CoreId) (h : HallId) (s : State) : State :=
  let cores := match core with | some c => [c.val] | none => hallCores h.val
  if !(cores.any s.enabled) then s else
  let s1 := (s.tasks.filter fun t => t.live && t.cores.any cores.contains).foldl (fun s t => s.killTask t 0x70 0xFF) s
  let s2 := cores.foldl (fun s c => (s.clearCore c).updCore c fun k => if s.enabled c then { k with st := .clearing } else k) s1
  let s3 := { s2 with windows := s2.windows.map fun (p : Nat × List (Nat × Win)) => (p.1, p.2.filter fun w => !cores.contains (w.1 % 256)) }
  match core with
  | some c => { s3 with rst := { s3.rst with blockCore := insNat c.val s3.rst.blockCore } }
  | none => { s3 with rst := { s3.rst with blockHall := insNat h.val s3.rst.blockHall } }

/-- BLOCK_RESET_LINK. -/
def xBlockResetLink (l : Nat) (s : State) : State :=
  let s1 := s.teardown l 0xF
  { s1 with rst := { s1.rst with blockLink := insNat l s1.rst.blockLink } }

/-- A task uses a stack when its banner holds granules there. -/
def State.usesStack (s : State) (n : Nat) (t : Task) : Bool := (s.part t.banner).granules.any fun g => g / 33 == n

/-- Complete every issued near-tier write. -/
def State.drainAll (s : State) : State := (s.cores.map (·.1)).foldl (fun s c => s.drainNear c) s

/-- BLOCK_RESET_NEAR: every task using the stack aborts, its write buffer is drained, and the stack is in self-refresh. -/
def xBlockResetNear (n : Nat) (s : State) : State :=
  let s0 := s.abortWhere (s.usesStack n)
  let s1 := (s0.cores.map (·.1)).foldl (fun s c => s.drainNear c (· == n)) s0
  let s2 := s1.setStack n { s1.stack n with selfRefresh := true, resetBusy := true }
  { s2 with rst := { s2.rst with blockNear := insNat n s2.rst.blockNear } }

/-- Parks and resumes in progress start again (Table 19.3). -/
def State.restartPaging (s : State) : State :=
  { s with streams := s.streams.map fun (p : Nat × StreamEntry) => (p.1, { p.2 with parking := [], resuming := [] }) }

/-- BLOCK_RESET_FAR: the journal is kept and replayed. -/
def xBlockResetFar (s : State) : State :=
  let s1 := s.restartPaging
  { s1 with far := { s1.far with ready := false }, rst := { s1.rst with blockFar := true } }

/-- BLOCK_RESET_STRM: the table's contents are kept. -/
def xBlockResetStrm (s : State) : State := { s with rst := { s.rst with blockStrm := true } }

/-- BLOCK_RESET_MESH: every packet is gone, and every task on the module aborts. -/
def xBlockResetMesh (s : State) : State :=
  let s1 := s.abortWhere fun _ => true
  { s1 with mesh := [], rst := { s1.rst with blockMesh := true } }

/-- Service core that executes an opcode (R17, Table 1.5), firmware staging among SC4's; PARTITION and SECURITY commands are the
enclave's (6). A reset of SC0 ends every command without a reply (R418, R426). -/
def opCore (op : Nat) : Nat :=
  match op / 256 with
  | 1 => 4 | 3 => 4 | 4 => 4 | 5 => 1 | 6 => 2 | 7 => 3 | 9 => 5 | 10 => 3 | _ => 6

/-- Commands that a service core executes end with INTERNAL, with the reference of an event log entry (Table 19.3). DESIGN
CHOICE (log 31): one entry for each, of the command's banner, so that a tenant's reference is a view number (R443). -/
def State.endInternal (s : State) (n : Nat) : State :=
  let l := s.accepted.filter fun a => a.begun && opCore a.opcode.toNat == n
  let refs := l.map (·.ref)
  let s2 := { s with
    heldCmds := s.heldCmds.filter fun h => match h.ref with | some r => !refs.contains r | none => true,
    gal := { s.gal with waiting := s.gal.waiting.filter fun w => !refs.contains w.1 } }
  l.foldl (fun s a =>
    let s1 := s.log n 0x0B a.opcode.toNat (some a.banner) stInternal []
    let ref := s1.newRef a.ref.fn a.banner
    s1.finish a.ref stInternal (if a.opcode = 0x0301 then .loadReport (some ref) noCheck 0 0 else .logRef ref)) s2

/-- Reference selection starts again in ACQUIRE, with the TCXO carrying the count under the holdover timer (R426): from LOCKED and from
the switch to a better reference the timer begins, in HOLDOVER and in the switch out of it it runs on (R48). -/
def Clk.reacquire (c : Clk) : Clk :=
  let locked := c.refState == .locked || c.refState == .switching || c.holdRun
  { c with refState := .acquire, source := .tcxo, target := none, switchLeft := 0, targetLost := false, phaseValid := false, holdRun := locked }

/-- BLOCK_RESET_SC (R425, R426): SC5 loses the log entries that its control SRAM buffers (DEDUCED, log 31). -/
def xBlockResetSc (n : Nat) (s : State) : State :=
  let s0 := if n = 5 then { s with diag := s.diag.afterReset false } else s
  let s1 := s0.endInternal n
  let s2 := { s1 with rst := { s1.rst with
    scRunning := s1.rst.scRunning.filter (· != n), blockSc := insNat n s1.rst.blockSc } }
  match n with
  | 0 => [0, 1, 2, 3, 4].foldl (fun s f => s.stopFn f) s2
  | 2 => s2.restartPaging
  | 3 => { s2 with clk := s2.clk.reacquire }
  | _ => s2

/-- WDT_SERVICE_CORE (R416): the core is reset alone, and the third time within 60 s the module too, by a warm reset. -/
def xWdtServiceCore (n : Nat) (s : State) : State :=
  let now := s.rst.ticks
  let l := now :: (tget [] s.rst.wdtTimes n).filter fun t => decide (now < t + 60000000)
  let s1 := xBlockResetSc n { s with rst := { s.rst with wdtTimes := tset s.rst.wdtTimes n l } }
  if 3 ≤ l.length then s1.askReset .warm causeWdt (BitVec.ofNat 4 n) false else s1

/-- Landings that wait for SC1 proceed (R426). -/
def State.retryReleases (s : State) : State := s.tasks.foldl (fun s t => s.tryRelease t) s

/-- The clear of a core has ended. -/
def State.endClear (s : State) (c : Nat) : State := if (s.core c).st = .clearing then s.updCore c fun k => { k with st := .idle } else s

/-- BLOCK_BACK_IN_SERVICE (R425): the block's bit clears. -/
def xBlockBackInService (b : Block) (s : State) : State :=
  let r := s.rst
  match b with
  | .hall h => { ((hallCores h.val).foldl State.endClear s) with rst := { r with blockHall := r.blockHall.filter (· != h.val) } }
  | .core c => { (s.endClear c.val) with rst := { r with blockCore := r.blockCore.filter (· != c.val) } }
  | .link l => { s with rst := { r with blockLink := r.blockLink.filter (· != l.val) } }
  | .near n =>
    if !r.blockNear.contains n.val then s else
    let s1 := s.setStack n.val { s.stack n.val with selfRefresh := false, resetBusy := false }
    { s1 with rst := { r with blockNear := r.blockNear.filter (· != n.val) } }
  | .far =>
    if r.blockFar then { s with far := { s.far with ready := true }, rst := { r with blockFar := false } } else s
  | .strm => { s with rst := { r with blockStrm := false } }
  | .mesh => { s with rst := { r with blockMesh := false } }
  | .sc n =>
    if !r.blockSc.contains n.val then s else
    let s1 := { s with rst := { r with blockSc := r.blockSc.filter (· != n.val), scRunning := insNat n.val r.scRunning } }
    if n.val = 1 then s1.retryReleases else s1

def execBlockResetHall (core : Option CoreId) (h : HallId) (s : State) : Out := .next (xBlockResetHall core h s)
def execBlockResetLink (l : LinkId) (s : State) : Out := .next (xBlockResetLink l s)
def execBlockResetNear (n : StackId) (s : State) : Out := .next (xBlockResetNear n s)
def execBlockResetFar (s : State) : Out := .next (xBlockResetFar s)
def execBlockResetStrm (s : State) : Out := .next (xBlockResetStrm s)
def execBlockResetMesh (s : State) : Out := .next (xBlockResetMesh s)
def execBlockResetSc (n : ScId) (s : State) : Out := .next (xBlockResetSc n s)
def execWdtServiceCore (n : ScId) (s : State) : Out := .next (xWdtServiceCore n s)
def execBlockBackInService (b : Block) (s : State) : Out := .next (xBlockBackInService b s)

end Sys2Proof.Machine
end

