-- ==== Sys2Proof/Machine/Reset.lean ====
section
/-! DEFINITION. Resets of the module (R413 to R424) and supply loss (R337, R415, R451): what each class reaches. -/

namespace Sys2Proof.Machine

/-! ### Reach (R417, R418, Table 19.2) -/

/-- Slots are kept, with no command attached and the suspect flag at its reset value (R418, Table 14.8); one that is OPEN or
VERIFYING becomes INVALID at the bring-up (R305). -/
def GSlot.afterReset (g : GSlot) : GSlot := { g with commitRef := none, eraseRef := none, suspect := false }

/-- The gallery controller: registers at reset, slots, cycles and worn extents kept (R309). -/
def Gal.afterReset (g : Gal) : Gal :=
  { g with slots := g.slots.map (fun (p : Nat × GSlot) => (p.1, p.2.afterReset)), pulses := [], ce := 0, ue := 0, waiting := [], dirRead := false }

/-- Stream table after a reset (R420): a PARKED entry gives back the pages that a resume in progress had taken. A stream that becomes
FAULTED here is reported at the next landing (R359). -/
def StreamEntry.afterReset (cls : RstClass) (e : StreamEntry) : StreamEntry :=
  let e1 := { e with parking := [], parkRun := false, resuming := [], resumeRun := false, slot := none, placed := 0 }
  let keep (st : StreamSt) : StreamEntry :=
    if cls == .full || cls == .cold then { e1 with st := .faulted, lost := some (0, 0) } else { e1 with st := st }
  match e.st with
  | .free | .faulted => e1
  | .parked =>
    let e2 := { e1 with pages := [], listPage := none }
    if cls == .full || cls == .cold then { e2 with pending := 0, buffer := [], bufPages := [] } else e2
  | .generating => keep .ready
  | .prompting => keep .queued
  | x => keep x

/-- A stack whose controller is reset: contents in self-refresh, wheel kept where partitions are (R417). -/
def Stack.afterReset (cls : RstClass) (t : Stack) : Stack :=
  match cls with
  | .warm | .clock => { Stack.reset with selfRefresh := true, wheel := t.comingWheel, reserve := t.reserve }
  | _ => { Stack.reset with reserve := { Granule.reset with keyGen := t.reserve.keyGen + 1 } }

/-- Near-tier contents that are lost or cannot be decrypted (R393, Table 15.1). -/
def State.loseNear (s : State) : State :=
  { s with
    granules := s.granules.map fun (g : Nat × Granule) => (g.1, g.2.rekey none),
    stores := s.stores.map fun (m : BitVec 32 × MemStore) => (m.1, { m.2 with near := false, attached := none, pages := [] }) }

/-- What the near tier held of a partition is lost: its crash capture, its pennant records and its streams' KV (R359). -/
def Part.loseNear (p : Part) : Part := { p.dropPens with crash := none, capCores := 0, nearLost := p.valid }

/-- Partition definitions are then in the persistent settings only, and the PART registers at their reset values, until the
enclave recreates the partitions (R393, R417). -/
def State.loseParts (s : State) : State :=
  let kept := s.parts.map fun (p : Nat × Part) => (p.1, p.2.loseNear)
  { s with parts := [], settings := { s.settings with parts := some (s.settings.parts.getD kept) } }

/-- Every queue is disabled with cause 3; a reset that reaches PCIe also ends the attachment (R417, R418). DESIGN CHOICE (log 18):
after a POR the registers have their reset values, as in the first one. The sideband's queue has no registers. -/
def HostFn.afterReset (pcie por : Bool) (f : Nat) (h : HostFn) : HostFn :=
  let q (x : Queue) : Queue :=
    let y := if pcie then Queue.reset else x
    if por || f == 4 then { y with enable := false, cache := [], pending := 0 }
    else { y with enable := false, err := true, cause := 3, cache := [], pending := 0 }
  let h1 := { h with queues := (List.range (if f = 4 then 1 else 16)).map fun i => (i, q (tget Queue.reset h.queues i)), held := [], rcBase := h.rcBase.filter fun p => match p.1 with | .cmdEvLost _ => true | _ => false }
  if pcie then { h1 with present := false, rate := 0, width := 0, eventQ := none, eventSeq := 0, evLost := 0, rcBase := [], msix := [], pba := [] } else h1

/-- What every reset of the module clears of a partition: commands and loads in progress, and SC5's power loop. -/
def Part.afterReset (p : Part) : Part :=
  { p with
    tdRef := none, tdHalls := [], earlyLoads := [], lateLoads := [], overMs := 0, underMs := 0, promptHold := false, powerW := 0, budgetW := 0, overNow := false, downSteps := 0, stepAt := 0 }

/-- A hall's registers: those that assign it are the partitions', its steps are the CLK block's and its voltage and power the PWR
block's (R417, Table 2.10). -/
def Hall.afterReset (cls : RstClass) (n : Nat) (h : Hall) : Hall :=
  let low := { h with stepCur := 0, stepNext := 0, fused := 0, mv := BitVec.ofNat 16 (fusedMv n 0) }
  match cls with
  | .warm => h
  | .clock => low
  | .full => { low with assigned := false, banner := 0 }
  | .cold => Hall.reset

/-- Every link is torn down (R278, R418): one that carried frames has said so, and its transmitters are idle for 10 microseconds;
its registers are at their reset values. The log entries of R278 go with the buffer of SC5. -/
def Link.afterReset (k : Link) (now next : Nat) : Link :=
  { Link.reset with lastTx := (k.tornDown 0xF now).lastTx, idleUntil := next + 10 }

/-- The blocks that every reset of the module reaches: control cores, halls, mesh, links, controllers. -/
def State.reachAll (s : State) (cls : RstClass) (por : Bool) : State :=
  let s1 := match cls with
    | .cold => s
    | _ => s.drainAll
  { s1 with
    halls := s1.halls.map fun (h : Nat × Hall) => (h.1, h.2.afterReset cls h.1),
    cores := [], mesh := [],
    links := if cls = .cold then [] else (s1.links.filter fun k => k.2.up).map fun (k : Nat × Link) =>
      (k.1, k.2.afterReset s1.clk.treadCount (if cls = .warm then s1.clk.treadCount else 0)), windows := [], mgmtOut := [], mgmtUnknown := 0, manifest := none, fabAddr := none,
    fwWords := [],
    meshBad := 0, gal := { s1.gal.afterReset with suspend := cls != .cold && s1.gal.suspend },
    stackTbl := s1.stackTbl.map (fun (t : Nat × Stack) => (t.1, t.2.afterReset cls)),
    far := { s1.far with ready := false, holdupLow := false, holdupMs := 0, waiting := [], parkWait := [], retry := 0, ue := 0, slowed := false, surveyed := false },
    streams := if cls = .cold then [] else s1.streams.map fun (p : Nat × StreamEntry) => (p.1, p.2.afterReset cls),
    heldCmds := [], parkHigh := 4, parkLow := 1, strmLead := 0, strmLeadAddr := 0, tasks := [], accepted := [],
    fns := (List.range 5).map fun f => (f, (s1.fn f).afterReset (cls == .cold || cls == .full) por f),
    parts := s1.parts.map (fun (p : Nat × Part) => (p.1, p.2.afterReset)),
    sec := { s1.sec with nonce := none, spdmOut := [] },
    diag := s1.diag.afterReset (cls != .warm),
    pensIn := [], pensTread := 0, shutdown := false }

/-- The CLK block (R417): reached by the clock class and above; otherwise SC3 selects its reference again (R426). A module that a
time fault keeps out of its tasks stays out over the reset that follows it (R50). -/
def Clk.afterReset (c : Clk) (cls : RstClass) (mode : BitVec 2) : Clk :=
  match cls with
  | .warm => c.reacquire
  | .clock => { Clk.reset with clkModeErr := mode == 3, timeOut := c.timeOut }
  | _ => { Clk.reset with clkModeErr := mode == 3 }

/-- The SEC block and the enclave (R417): OTP is kept, keys and sessions are gone, the isolation registers are at
their reset values. -/
def Sec.afterReset (x : Sec) : Sec :=
  { x with
    resumed := false, testOpen := false, tenantFilter := true, bannerWr := true, jtagLimit := true, lock := false, keys := [], nonce := none, sessions := [], spdmOut := [], encSecver := 0, measured := [] }

/-- The PWR block when the supply has been off: registers at reset; the hold after a thermal trip stays (R463). -/
def Pwr.afterOff (p : Pwr) : Pwr := { Pwr.reset with thermHold := p.thermHold }

/-- Times of the PWR block that were taken on a TREAD_COUNT that starts again: those that run begin anew. -/
def Pwr.restamp (p : Pwr) (now : Nat) : Pwr :=
  { p with tMaxAt := 0, coolFrom := p.coolFrom.map fun _ => 0, smbUntil := p.smbUntil - now }

/-- Everything a class reaches. -/
def State.reach (s : State) (cls : RstClass) (por : Bool) : State :=
  let s1 := s.reachAll cls por
  let s2 := { s1 with
    clk := s1.clk.afterReset cls s1.rst.straps.clkMode, pwr := if cls = .warm then s1.pwr else s1.pwr.restamp s1.clk.treadCount }
  match cls with
  | .cold => { s2.loseNear.loseParts with sec := s2.sec.afterReset, pwr := s2.pwr.afterOff, fw := { s2.fw with compat := 0, version := 0, secver := 0 } }
  | .full => { s2.loseNear.loseParts with sec := s2.sec.afterReset, fw := { s2.fw with compat := 0, version := 0, secver := 0 } }
  | _ => s2

/-! ### Causes, counting and the class of the bring-up (R419 to R424) -/

/-- What a reset records. -/
structure Why where
  cls : RstClass
  causes : BitVec 10
  sc : BitVec 4
  ckfPll : Bool
  borRail : Bool
  held : Bool
  deriving DecidableEq, Repr, Inhabited

/-- A bring-up is in progress (R422). -/
def Rst.busy (r : Rst) : Bool := !r.isReady && r.step != 15 && !r.off

/-- RST block after a reset: causes, the repeated-reset count (R423), recovery mode (R424; after a BOR the straps are sampled
later) and the first step. A reset that the enclave does not feel keeps what it counts (R416). DEDUCED (log 31): a reset
during bring-up keeps the causes of the one it interrupts beside its own. -/
def Rst.after (r : Rst) (w : Why) : Rst :=
  let por := w.causes.getLsbD 0
  let again := r.busy && !por
  let n := if por then 0 else r.count.toNat + 1
  let hit := decide (8 ≤ n) && decide (r.windowTreads ≤ 10000000)
  let rec_ := hit || (!w.causes.getLsbD 1 && decide (2 ≤ r.straps.bootSrc.toNat))
  let merged := if again then r.cls.join w.cls else w.cls
  let cls := if rec_ || r.recovery then merged.join .full else merged
  { Rst.reset with
    causes := if again then r.causes ||| w.causes else w.causes,
    ckfPll := w.ckfPll || (again && r.ckfPll), borRail := w.borRail || (again && r.borRail), inBringup := again,
    held := w.held || (again && r.held), sc := if namesCore w.causes || !again then w.sc else r.sc,
    windowTreads := if r.count = 0 ∨ por = true ∨ hit = true then 0 else r.windowTreads,
    ticks := if 2 ≤ w.cls.rank then 0 else r.ticks, wdtTimes := if 2 ≤ w.cls.rank then [] else r.wdtTimes,
    count := if hit then 0 else BitVec.ofNat 4 (min 15 n), recovery := rec_, step := if cls = .cold then 0 else 1, cls := cls,
    straps := r.straps, off := r.off, trapped := r.trapped }

/-- A reset takes effect. -/
def State.resetNow (s : State) (w : Why) : State :=
  let s1 := s.reach w.cls (w.causes.getLsbD 0)
  { s1 with rst := s1.rst.after w }

/-- A reset of the cold class at once: one that waits merges with it (R422). -/
def State.coldNow (s : State) (cause : BitVec 10) (rail : Bool) : State :=
  match s.rst.pend with
  | none => s.resetNow { cls := .cold, causes := cause, sc := 0, ckfPll := false, borRail := rail, held := false }
  | some p => s.resetNow { cls := .cold, causes := cause ||| p.causes, sc := p.sc, ckfPll := p.ckfPll, borRail := rail, held := p.held }

/-! ### Supply loss (R337, R415, R421, R451) -/

/-- On hold-up: the journal goes to the SLC area at 12 GB/s, with its commit record where the hold-up as last measured lasts, buffered
log entries to the configuration flash, and pulses end (R337, R421, R442). A journal that is in the SLC area with its commit record and not replayed yet
stays there. -/
def State.holdUp (s : State) : State :=
  { s with
    far := { s.far with commit := s.far.commit || decide (s.far.journal ≤ s.far.supplyMs * 12000000) },
    diag := { s.diag with flash := s.diag.buf.foldr ringPut s.diag.flash, buf := [] } }

/-- The supply goes: a cold reset, and the module stays off until its input is back (R415). -/
def State.brownOut (s : State) (rail : Bool) : State :=
  let s1 := s.holdUp.coldNow causeBor rail
  { s1 with rst := { s1.rst with off := true }, pwr := { s1.pwr with pwrOk := false } }

/-- The log entry of a trip. DESIGN CHOICE (log 45): Table 20.6 names no kind for it; an entry of kind 0x0B, of subject 0x20, with
cause and sensor in its body. -/
def State.tripLog (s : State) (cause : BitVec 4) (sensor : BitVec 16) : State := s.log 5 0x0B 0x20 none 0 [cause.toNat, sensor.toNat]

/-- A trip (R451): its cause is recorded and logged, and the input switch stays open. -/
def State.trip (s : State) (cause : BitVec 4) (sensor : BitVec 16) (thermal : Bool) : State :=
  if s.rst.off then s else
  let s1 := { s with
    pwr := { s.pwr with thermHold := s.pwr.thermHold || thermal },
    settings := { s.settings with tripCause := cause, tripSensor := sensor } }
  let s2 := (s1.tripLog cause sensor).brownOut false
  { s2 with rst := { s2.rst with trapped := true }, pwr := { s2.pwr with thermN := true } }

/-- Start again as after POR, with the straps sampled (R415, R427). -/
def State.restart (s : State) (st : Straps) : State :=
  { s with
    rst := { s.rst with off := false, trapped := false, straps := st, recovery := s.rst.recovery || decide (2 ≤ st.bootSrc.toNat), step := 0, cls := .cold },
    clk := { s.clk with clkModeErr := st.clkMode == 3 }, pwr := { s.pwr with thermN := false } }

/-! ### The sources (Table 19.1) -/

/-- POR. -/
def xPor (st : Straps) (s : State) : State :=
  let s1 := { s with rst := { s.rst with straps := st, off := false, trapped := false } }
  let s2 := s1.coldNow causePor false
  { s2 with pwr := { s2.pwr with thermN := false } }

/-- BOR: it cannot be held off. -/
def xBor (rail : Bool) (s : State) : State := if s.rst.off then s else s.brownOut rail

/-- PIN (R414): between 90 and 110 ns the outcome is open, and whole either way. -/
def xPin (lowNs : Nat) (s : State) : State :=
  if lowNs < 90 then s
  else if 110 ≤ lowNs then s.askReset .full causePin 0 false
  else
    let s1 := s.tick
    if s.freshVal % 2 = 0 then s1 else s1.askReset .full causePin 0 false

def xDbg (s : State) : State := s.askReset .full causeDbg 0 false
def xWdtSystem (s : State) : State := s.askReset .full causeWdtSys 0 false
def xCkf (pll : Bool) (s : State) : State := s.askReset .clock causeCkf 0 pll
def xSwr (s : State) : State := s.askReset .warm causeSwr 0 false
def xLck (n : Nat) (s : State) : State := s.askReset .warm causeLck (BitVec.ofNat 4 n) false
def xCmdReset (s : State) : State := s.askReset .warm causeCmd 0 false

/-- RESET_TAKES_EFFECT (R419, R421): pulses and flash operations in flight have ended, and a clock-class or warm-class reset has reached the
second boundary after its aborts. -/
def xResetTakesEffect (s : State) : State :=
  match s.rst.pend with
  | none => s
  | some p =>
    let due := match p.at_ with | some t => decide (t ≤ s.clk.treadCount) | none => decide (2 ≤ p.cls.rank)
    if !due || s.pulsing then s
    else s.resetNow { cls := p.cls, causes := p.causes, sc := p.sc, ckfPll := p.ckfPll, borRail := p.borRail, held := p.held }

/-- RST_COUNT_EXPIRY (R423): 10 s without a further reset, which 10 s of READY imply. -/
def xRstCountExpiry (s : State) : State :=
  if s.rst.sinceTreads < 10000000 then s else { s with rst := { s.rst with count := 0, windowTreads := 0 } }

/-- INPUT_RESTORED (R415, R451). -/
def xInputRestored (st : Straps) (s : State) : State :=
  if s.rst.off && !s.rst.trapped then s.restart st else s

/-- TRIP_RESTART (R451). -/
def xTripRestart (st : Straps) (s : State) : State := if s.rst.off && s.rst.trapped then s.restart st else s

/-- INPUT_OVERVOLTAGE (Table 21.2): the switch opens, and the module goes on as for a BOR. -/
def xInputOvervoltage (s : State) : State :=
  if s.rst.off then s else
  let s1 := { s with settings := { s.settings with tripCause := 6, tripSensor := 0 } }
  (s1.tripLog 6 0).brownOut false

/-- INPUT_OVERCURRENT and RAIL_FAULT (R451, R453). -/
def xInputOvercurrent (s : State) : State := s.trip 5 0 false
def xRailFault (s : State) : State := s.trip 7 0 false

def execPor (st : Straps) (s : State) : Out := .next (xPor st s)
def execBor (rail : Bool) (s : State) : Out := .next (xBor rail s)
def execPin (n : Nat) (s : State) : Out := .next (xPin n s)
def execDbg (s : State) : Out := .next (xDbg s)
def execWdtSystem (s : State) : Out := .next (xWdtSystem s)
def execCkf (pll : Bool) (s : State) : Out := .next (xCkf pll s)
def execSwr (s : State) : Out := .next (xSwr s)
def execLck (n : ScId) (s : State) : Out := .next (xLck n s)
def execCmdReset (s : State) : Out := .next (xCmdReset s)
def execResetTakesEffect (s : State) : Out := .next (xResetTakesEffect s)
def execRstCountExpiry (s : State) : Out := .next (xRstCountExpiry s)
def execInputRestored (st : Straps) (s : State) : Out := .next (xInputRestored st s)
def execTripRestart (st : Straps) (s : State) : Out := .next (xTripRestart st s)
def execInputOvervoltage (s : State) : Out := .next (xInputOvervoltage s)
def execInputOvercurrent (s : State) : Out := .next (xInputOvercurrent s)
def execRailFault (s : State) : Out := .next (xRailFault s)

end Sys2Proof.Machine
end

