-- ==== Sys2Proof/Machine/Bringup.lean ====
section
/-! DEFINITION. Bring-up (R427 to R432, Table 19.6) and the option block (Table 19.5). -/

namespace Sys2Proof.Machine

/-! ### Steps -/

/-- A step ends: its duration is recorded and the next one begins. -/
def State.stepEnd (s : State) (n us next : Nat) : State :=
  { s with rst := { s.rst with
      stepUs := tset s.rst.stepUs n (BitVec.ofNat 32 us), step := BitVec.ofNat 4 next } }

def State.atStep (s : State) (n : Nat) : Bool := s.rst.step.toNat == n && !s.rst.off && !s.rst.isReady

/-- RAILS, step 0; PWR_OK is released at its end (R468). A rail that does not regulate within 25 ms holds the module off until
the POR that tries again (R431). -/
def xRails (us : Nat) (s : State) : State :=
  if !s.atStep 0 then s
  else if 25000 < us then { s with rst := { s.rst with off := true } }
  else
    let s1 := { s with pwr := { s.pwr with pwrOk := true } }
    s1.stepEnd 0 us 1

/-! ### The option block (R429) -/

/-- Regions of a copy: offset and size. -/
def optRegions (c : List Byte) : List (Nat × Nat) :=
  [(natAt c 32 4, natAt c 36 4), (natAt c 40 4, natAt c 44 4), (natAt c 48 4, natAt c 52 4), (natAt c 56 4, 8388608),
   (natAt c 60 4, natAt c 64 4)]

/-- Regions are aligned, within 128 MiB, and overlap neither each other nor the first 64 KiB. -/
def regionsOk (l : List (Nat × Nat)) : Bool :=
  let apart (a b : Nat × Nat) : Bool := decide (a.1 + a.2 ≤ b.1) || decide (b.1 + b.2 ≤ a.1)
  l.all (fun r => r.1 % 65536 == 0 && decide (65536 ≤ r.1) && decide (r.1 + r.2 ≤ 134217728) && r.2 != 0) &&
  l.zipIdx.all (fun p => l.zipIdx.all fun q => p.2 == q.2 || apart p.1 q.1)

/-- PCIe byte of a port: bifurcation and a rate code of CMD_LINK. -/
def pcieOk (v : Nat) : Bool := decide (v < 16) && decide (1 ≤ fieldOf v 3 1) && decide (fieldOf v 3 1 ≤ 6)

/-- A valid copy (R429). -/
def optValid (c : List Byte) : Bool :=
  natAt c 0 4 == 0x54504F4B && natAt c 4 2 == 1 && (crc32 (c.take 4092)).toNat == natAt c 4092 4 &&
  natAt c 6 2 == 0 && natAt c 14 2 == 0 && allZero (bytesAt c 24 8) && allZero (bytesAt c 68 4024) &&
  pcieOk (natAt c 12 1) && pcieOk (natAt c 13 1) &&
  decide (100 ≤ natAt c 18 2) && decide (natAt c 18 2 ≤ 5000) && decide (500 ≤ natAt c 20 2) && decide (natAt c 20 2 ≤ 10000) &&
  decide (natAt c 22 1 ≤ 1) && decide (natAt c 23 1 ≤ 1) &&
  decide (4194304 ≤ natAt c 52 4) && decide (131072 ≤ natAt c 64 4) && regionsOk (optRegions c)

def optOf (c : List Byte) (a b : Nat) : Opt :=
  { regions := optRegions c, seqA := a, seqB := b, pcie0 := BitVec.ofNat 8 (natAt c 12 1), pcie1 := BitVec.ofNat 8 (natAt c 13 1),
    smbus := BitVec.ofNat 8 (natAt c 16 1), mctpEid := BitVec.ofNat 8 (natAt c 17 1), wdtSc := natAt c 18 2,
    wdtSys := natAt c 20 2, linksDefer := natAt c 22 1 == 1, fwSelB := natAt c 23 1 == 1 }

/-- Step after the option reader: with host push the ROM waits for the host (R428). -/
def State.afterOptions (s : State) : Nat := if s.rst.straps.bootSrc = 1 then 14 else 2

/-- OPTION_READER, step 1. The operands are the two copies as the flash holds them where the model has not met them before; from then on
it knows what the flash holds. -/
def xOptionReader (x y : List Byte) (us : Nat) (s0 : State) : State :=
  if !s0.atStep 1 then s0 else
  let a := s0.settings.optA.getD x
  let b := s0.settings.optB.getD y
  let s := { s0 with settings := { s0.settings with optA := some a, optB := some b } }
  let sa := natAt a 8 4
  let sb := natAt b 8 4
  let useB := optValid b && (!optValid a || decide (sa < sb))
  let s1 :=
    if optValid a || optValid b then
      let o := optOf (if useB then b else a) sa sb
      { s with opt := o, fw := { s.fw with nextB := o.fwSelB }, rst := { s.rst with optCopy := useB, optDefault := false } }
    else
      ({ s with opt := Opt.reset, fw := { s.fw with nextB := false }, rst := { s.rst with optCopy := false, optDefault := true } }).log
        8 0x0A 0 none 0 []
  s1.stepEnd 1 us s1.afterOptions

/-! ### The boot chain (R396, Table 18.3) -/

def State.running (s : State) (img : FwImage) (slotB : Bool) : State :=
  { s with fw := { s.fw with
      compat := img.compat, version := img.version, secver := img.secver, activeB := slotB, staged := if slotB = s.fw.activeB then s.fw.staged else none } }

/-- The image in a slot: what was staged into the inactive one, else what the boot finds there. -/
def State.slotImage (s : State) (img : FwImage) (slotB : Bool) : FwImage := if slotB = s.fw.activeB then img else s.fw.staged.getD img

/-- Boot failed: recovery mode (R424). -/
def State.enterRecovery (s : State) : State := { s with rst := { s.rst with recovery := true } }

/-- Cold and full classes run the whole chain; the others verify the Toruc image again. -/
def State.fullBoot (s : State) : Bool := decide (2 ≤ s.rst.cls.rank)

/-- Steps 3 and 4 of Table 18.3, after the life-cycle resume: the measurements are recorded, then PROT_CTL is written for the state:
isolation stays in force in every state (R395, R409). A PROT_CTL that is still locked stays as it is. -/
def State.bootSec (s : State) (enc : EnclaveImage) : State :=
  if s.fullBoot then
    let s1 := s.lcResume
    let s2 := { s1 with sec := { s1.sec with encSecver := enc.secver } }
    let s3 := { s2 with sec := { s2.sec with measured := s2.measurements } }
    if s3.sec.lock then s3
    else { s3 with sec := { s3.sec with tenantFilter := true, bannerWr := true, jtagLimit := true, testOpen := false } }
  else s

/-- The enclave firmware verifies and is not older than the rollback counter (R396). -/
def State.enclaveOk (s : State) (enc : EnclaveImage) : Bool := enc.ok && decide (s.sec.rollback.toNat ≤ enc.secver.toNat)

/-- ENCLAVE_BOOT, step 2: the active slot, then the other, then recovery mode. -/
def xEnclaveBoot (enc : EnclaveImage) (activeOk otherOk : Bool) (img : FwImage) (us : Nat) (s : State) : State :=
  if !s.atStep 2 then s else
  let fresh (b : Bool) : Bool := decide (s.sec.rollback.toNat ≤ (s.slotImage img b).secver.toNat)
  let first := activeOk && fresh s.fw.nextB
  let slotB := if first then s.fw.nextB else !s.fw.nextB
  let s1 :=
    if s.fullBoot && !s.enclaveOk enc then s.enterRecovery
    else if first || (otherOk && fresh slotB) then (s.running (s.slotImage img slotB) slotB).bootSec enc
    else (s.bootSec enc).enterRecovery
  s1.stepEnd 2 us 3

/-- HOST_PUSH (R428): the write of 1 to the last word of the push window. Both images, whose bytes the window holds, are verified and
never written to the flash; the operands are what their verification finds. -/
def xHostPush (enc : PushedEnclave) (imageOk : Bool) (img : FwImage) (s : State) : State :=
  if !s.atStep 14 then s else
  let s1 :=
    if !s.enclaveOk enc.toEnclaveImage then s.enterRecovery
    else if imageOk && !decide (img.secver.toNat < s.sec.rollback.toNat) then (s.running img s.fw.nextB).bootSec enc.toEnclaveImage
    else (s.bootSec enc.toEnclaveImage).enterRecovery
  { s1 with rst := { s1.rst with window := [] } }.stepEnd 2 enc.us 3

/-- PROT_LOCK_WRITE (R395): boot code sets the lock before the service cores are released. -/
def xProtLockWrite (v : Word) (s : State) : State :=
  if s.rst.scRunning.isEmpty && v.getLsbD 0 then { s with sec := { s.sec with lock := true } } else s

/-- Complete the teardowns that a reset interrupted, from step 3 (R404); one whose slots are still being erased ends with them. The
granules need no zero-fill, since nothing under their old keys can be read (log 4). -/
def State.completeTeardowns (s : State) : State :=
  (s.parts.filter fun p => p.2.valid && p.2.teardown).foldl (fun s p =>
    let b : Banner := Fin.ofNat 8 p.1
    ((s.teardownScrub b).updPart b fun p => { p with tdZero := false, tdHalls := [] }).teardownTry b) s

/-- Partition definitions come back from the persistent settings (R393). -/
def State.readParts (s : State) : State :=
  { s with parts := s.settings.parts.getD s.parts, settings := { s.settings with parts := none } }

/-- SC5 takes the module cap from the settings and the last trip from the event log, after the supply was off (R451, R455). -/
def State.readPower (s : State) : State :=
  if s.rst.cls == .cold then
    { s with pwr := { s.pwr with
      capModule := s.settings.capModule, capEff := s.settings.capModule, tripCause := s.settings.tripCause, tripSensor := s.settings.tripSensor } }
  else s

/-- Recreate every saved partition with new granule keys; a reset that keeps the enclave keeps them (R393). Wheel entries that a reset
during bring-up kept are given anew, not twice. -/
def State.recreate (s : State) : State :=
  if s.fullBoot then
    (s.parts.filter fun p => p.2.valid && p.2.saved).foldl (fun s p =>
      let b : Banner := Fin.ofNat 8 p.1
      { s with stackTbl := s.stackTbl.map fun (x : Nat × Stack) => (x.1, x.2.takeWheel s.clk.treadCount b) }.assign b p.2) s
  else s

/-- A committed slot whose header CRC does not match, or of whose record either copy cannot be read (Table 14.3). -/
def GSlot.headerDamaged (g : GSlot) : Bool := (crc32 (g.header.take 508)).toNat != natAt g.header 508 4
def GSlot.damaged (g : GSlot) : Bool := !g.badCopies.isEmpty || g.headerDamaged

/-- SC4 reads the directory at bring-up: slots that a reset found OPEN or VERIFYING and damaged VALID ones become INVALID, and an
event log entry names each (R305, R309). -/
def State.readDirectory (s : State) (bad : List (SlotId × Fin 2)) : State :=
  s.gal.slots.foldl (fun s p =>
    let g : GSlot := { p.2 with badCopies := (bad.filter fun (x : SlotId × Fin 2) => x.1.val == p.1).map fun x => x.2.val }
    if g.st == .open_ || g.st == .verifying || (g.st == .valid && g.damaged) then
      (s.setSlot p.1 { g with st := .invalid, pendHdr := [] }).logEvent 4 7 p.1 (some g.banner) [0, 0, 0]
    else s.setSlot p.1 g) { s with gal := { s.gal with dirRead := true } }

/-- SERVICE_CORES, step 3: the cores are held until PROT_LOCK is set (R395); recovery mode stops here (R424). The step goes on while a
teardown still erases slots, since it is completed before any partition is recreated (R404). -/
def xServiceCores (x : CoresUp) (s : State) : State :=
  if !s.atStep 3 || !s.sec.lock then s
  else if s.rst.recovery then
    (({ s with rst := { s.rst with scRunning := [0, 5] } }).readPower).stepEnd 3 x.us 15
  else
    let s1 := ({ s with rst := { s.rst with scRunning := [0, 1, 2, 3, 4, 5] } }).readPower.readParts
    let s2 := ((s1.readManifest x.manifestOk).readDirectory x.badCopies).completeTeardowns
    if s2.parts.any (fun p => p.2.valid && p.2.teardown) then s2
    else s2.recreate.stepEnd 3 x.us (if s.rst.cls = .warm then 5 else 4)

/-! ### Calibration and the tiers -/

/-- Cap of a crossing kind (Table 2.5). -/
def crossCap (i : Nat) : Nat := match i with | 0 => 8 | 1 => 8 | 2 => 6 | 3 => 24 | 4 => 10 | _ => 10

/-- CROSSING_CALIBRATION, step 4 (R43, R44). -/
def xCrossingCalibration (worst : List (BitVec 8)) (us : Nat) (s : State) : State :=
  if !s.atStep 4 then s else
  let w : Tbl (BitVec 8) := (List.range 6).map fun i => (i, worst.getD i 0)
  let fixed : Tbl (BitVec 8) := w.map fun p => (p.1, p.2 + 2)
  let bad := (List.range 6).filter fun i => decide (crossCap i < (worst.getD i 0).toNat + 2)
  let clk := { s.clk with
    crossWorst := w, crossFixed := fixed, calDone := true, calFail := !bad.isEmpty, kindFail := BitVec.ofNat 6 (maskOf bad) }
  let s1 := { s with clk := clk }
  let s2 := if bad.isEmpty then s1 else s1.log 3 9 0 none 0 (clk.crossStat :: (fixed.map fun p => p.2.toNat))
  s2.stepEnd 4 us 5

/-- NEAR_TIER_BRINGUP, step 5: an untrained stack is left offline (R431). -/
def xNearTierBringup (trained : BitVec 8) (us : Nat) (s : State) : State :=
  if !s.atStep 5 then s else
  let s1 := (List.range 8).foldl (fun s n =>
    s.setStack n { s.stack n with trained := trained.getLsbD n, selfRefresh := false }) s
  s1.stepEnd 5 us 6

/-- Entries rebuilt from the park-complete records after a cold start, from their metadata alone (R420); none while far-tier reads
are gated off (R410). -/
def State.rebuildStreams (s : State) : State :=
  if s.readsGated then s else
  (s.far.objs.filter fun o => o.stream && o.complete).foldl (fun s o =>
    s.setStream (streamOf o.owner) { StreamEntry.reset with
      gen := BitVec.ofNat 16 (o.owner.toNat / 65536), st := .parked, banner := o.banner, location := BitVec.ofNat 32 o.index }) s

/-- FAR_TIER_BRINGUP, step 6, whose bound is 800 ms (R431): the journal is replayed when its commit record exists, partial park records are
discarded, the hold-up is measured, and the stream table is rebuilt after a cold start (R337 to R339). -/
def xFarTierBringup (holdupMs : BitVec 16) (ready : Bool) (us : Nat) (s : State) : State :=
  if !s.atStep 6 then s else
  let low := decide (holdupMs.toNat < 40)
  let cold := s.rst.cls == .cold
  let bad := cold && !s.far.commit && s.far.journal != 0
  let gone (o : FarObj) : Bool := bad && (o.recs.any (fun r => s.far.jrn.contains r.seq) || (o.complete && s.far.jrn.contains o.doneSeq))
  let far := { s.far with
    ready := ready && decide (us ≤ 800000), holdupMs := holdupMs, holdupLow := low, surveyed := true, supplyMs := holdupMs.toNat, commit := false, journal := if cold then 0 else s.far.journal, jrn := if cold then [] else s.far.jrn, objs := s.far.objs.filter fun o => (o.complete || !o.stream) && !gone o }
  let s0 := { s with far := far }
  let s1 := if bad then s0.log 2 0x0B 0 none 0 [s.far.journal] else s0
  let s2 := if low then s1.log 2 0x0B 0 none 0 [holdupMs.toNat] else s1
  let s3 := if cold then s2.rebuildStreams else s2
  s3.stepEnd 6 us 7

/-- FAR_TIER_READY (R431), once step 6 is over. -/
def xFarTierReady (s : State) : State :=
  if (s.rst.isReady || s.atStep 7) && !s.rst.blockFar then { s with far := { s.far with ready := true } } else s

/-! ### Links and READY -/

/-- Links held in OFF at bring-up: by the option block, or without a partner (R279, R283). -/
def xLinksBringup (us : Nat) (s : State) : State :=
  if !s.atStep 7 then s else
  let now := s.clk.treadCount
  let s1 := (List.range 64).foldl (fun s l =>
    if s.opt.linksDefer || s.noPartner l then s.setLink l { s.link l with st := .off, enable := false }
    else s.setLink l { s.link l with stateAt := now, trainFrom := now }) s
  s1.stepEnd 7 us 7

/-- RST_CAUSE (Table 19.9). -/
def Rst.causeWord (r : Rst) : Nat :=
  b2n r.ckfPll * 8388608 + b2n r.borRail * 4194304 + b2n r.inBringup * 2097152 + b2n r.held * 1048576 +
  r.sc.toNat * 65536 + r.causes.toNat

/-- RST_COUNT. -/
def Rst.countWord (r : Rst) : Nat := min 65535 (r.windowTreads / 1000) * 65536 + r.count.toNat

/-- RST_STAT. -/
def Rst.statWord (r : Rst) : Nat :=
  b2n r.isReady * 2147483648 + b2n r.recovery * 1073741824 + b2n r.optDefault * 536870912 + b2n r.optCopy * 268435456 +
  r.step.toNat

/-- READY (R432): SC0 fetches, the reset entry is written, and the rollback counter follows both images (R396). The entry holds
the words of Table 20.6 and after them every step duration (R432; DESIGN CHOICE, log 48: in units of 0.1 ms, 2 bytes each, so that
the body holds all of them). -/
def xReady (s : State) : State :=
  if !s.atStep 7 || !(s.rst.stepUs.any fun p => p.1 == 7) then s else
  let r := { s.rst with isReady := true, step := 15 }
  let low := BitVec.ofNat 32 (max s.sec.rollback.toNat (max s.fw.secver.toNat s.sec.encSecver.toNat))
  let s1 := { s with rst := r, sec := { s.sec with rollback := low } }
  let us := (List.range 8).map fun i => (tget 0 r.stepUs i).toNat
  s1.logEvent 5 1 0 none ([r.causeWord, r.countWord, r.statWord, us.sum / 1000] ++
    (List.range 4).map fun i => min 65535 (us.getD (2 * i) 0 / 100) + 65536 * min 65535 (us.getD (2 * i + 1) 0 / 100))

/-- PCIE_LINK_UP (R366, Table 17.1): width and highest rate from the option block; for a host push port 0 comes up as x16
(R428). -/
def xPcieLinkUp (port : Fin 2) (rate : BitVec 3) (wide : Bool) (s : State) : State :=
  if s.rst.off then s else
  let o := if port.val = 0 then s.opt.pcie0 else s.opt.pcie1
  let split := o.getLsbD 0 && !(port.val == 0 && s.rst.step == 14)
  let top := fieldOf o.toNat 3 1
  let rt := if top < rate.toNat then BitVec.ofNat 3 top else rate
  let w : BitVec 5 := if split || !wide then 8 else 16
  let up (s : State) (f : Nat) : State := s.setFn f { s.fn f with present := true, rate := rt, width := w }
  let s1 := up s (2 * port.val)
  if split then up s1 (2 * port.val + 1) else s1

def execRails (us : Nat) (s : State) : Out := .next (xRails us s)
def execOptionReader (a b : List Byte) (us : Nat) (s : State) : Out := .next (xOptionReader a b us s)
def execEnclaveBoot (e : EnclaveImage) (a o : Bool) (img : FwImage) (us : Nat) (s : State) : Out := .next (xEnclaveBoot e a o img us s)
def execHostPush (e : PushedEnclave) (i : Bool) (img : FwImage) (s : State) : Out := .next (xHostPush e i img s)
def execProtLockWrite (v : Word) (s : State) : Out := .next (xProtLockWrite v s)
def execServiceCores (x : CoresUp) (s : State) : Out := .next (xServiceCores x s)
def execCrossingCalibration (w : List (BitVec 8)) (us : Nat) (s : State) : Out := .next (xCrossingCalibration w us s)
def execNearTierBringup (t : BitVec 8) (us : Nat) (s : State) : Out := .next (xNearTierBringup t us s)
def execFarTierBringup (h : BitVec 16) (r : Bool) (us : Nat) (s : State) : Out := .next (xFarTierBringup h r us s)
def execFarTierReady (s : State) : Out := .next (xFarTierReady s)
def execLinksBringup (us : Nat) (s : State) : Out := .next (xLinksBringup us s)
def execReady (s : State) : Out := .next (xReady s)
def execPcieLinkUp (p : Fin 2) (r : BitVec 3) (w : Bool) (s : State) : Out := .next (xPcieLinkUp p r w s)

end Sys2Proof.Machine
end

