-- ==== Sys2Proof/Machine/Background.lean ====
section
/-! DEFINITION. Work in the background: bandwidth wheels (R328), patrol scrub (R332), the journal (R336), pennant
records (R438 to R440) and the event log's flash ring (R441, R442). -/

namespace Sys2Proof.Machine

/-! ### Bandwidth wheels (R328, with R38 to R41) -/

/-- A write of a wheel's arm count: refused when it comes within two treads of the pending count or names a count less
than two treads ahead; 0 cancels. -/
def Stack.armWrite (t : Stack) (now n : Nat) : Stack :=
  let busy := match t.armAt with | some a => decide (a < now + 2) | none => false
  let late := n != 0 && decide (n < now + 2)
  if busy || late then t else
  { t with atLo := BitVec.ofNat 32 n, atHi := BitVec.ofNat 32 (n / 4294967296), armAt := if n = 0 then none else some n }

/-- NEAR_WHEEL_AT_HI_WRITE: the write of the high half arms. -/
def xNearWheelAtHiWrite (n : Nat) (v : Word) (s : State) : State :=
  let t := s.stack n
  s.setStack n (t.armWrite s.clk.treadCount (v.toNat * 4294967296 + t.atLo.toNat))

/-- ARMED_WHEEL_CHANGE: at the armed tread the wheel is replaced, after the step changes of the same tread (R41). -/
def xArmedWheelChange (n : Nat) (s : State) : State :=
  if s.stepDue then s else
  let t := s.stack n
  match t.armAt with
  | some a =>
    if s.clk.treadCount < a then s else
    let t1 := { t with wheel := t.wheelNext, armAt := none }
    s.setStack n (match t.wheelWant with
      | some w => { t1 with wheelWant := none }.armWheel s.clk.treadCount w
      | none => t1)
  | none => s

/-! ### Patrol scrub (R332) -/

/-- Stack address of a granule's unit, divided by 64. -/
def unitAddr (g u : Nat) : Nat := g % 33 * 16777216 + u

/-- One unit with bad check bits met by the patrol. -/
def State.patrolUnit (s : State) (g : Nat) (p : Nat × Bool) : State :=
  let t := s.stack (stackOf g)
  if p.2 then
    let s1 := s.setStack (stackOf g) { t with ue := t.ue + 1, ueAddr := BitVec.ofNat 32 (unitAddr g p.1) }
    s1.logEvent 2 7 (stackOf g) (s.granule g).owner [unitAddr g p.1, 0, 1]
  else
    let gr := s.granule g
    (s.setStack (stackOf g) { t with ce := t.ce + 1 }).setGranule g { gr with badUnit := tdel gr.badUnit p.1 }

/-- The same in the stack reserve, which begins after the 33 granules (R321). -/
def State.patrolReserve (s : State) (n : Nat) (p : Nat × Bool) : State :=
  let t := s.stack n
  let a := 33 * 16777216 + p.1
  if p.2 then (s.setStack n { t with ue := t.ue + 1, ueAddr := BitVec.ofNat 32 a }).logEvent 2 7 n none [a, 0, 1]
  else s.setStack n { t with ce := t.ce + 1, reserve := { t.reserve with badUnit := tdel t.reserve.badUnit p.1 } }

/-- PATROL_SCRUB: one pass over a stack; an uncorrectable unit keeps its check bits. -/
def xPatrolScrub (n : Nat) (s : State) : State :=
  if !(s.stack n).trained then s else
  let s1 := ((List.range 33).map (33 * n + ·)).foldl (fun s g =>
    (s.granule g).badUnit.foldl (fun s p => s.patrolUnit g p) s) s
  (s.stack n).reserve.badUnit.foldl (fun s p => s.patrolReserve n p) s1

/-! ### Pennant records (R438, R440) -/

/-- The first mismatch, with the valid bit in byte 15 (Table 20.8). -/
def penFirstOf (r : List Byte) : List Byte := r.take 15 ++ [1] ++ r.drop 16

/-- The expected entry with a record's key. -/
def Expected.meets (r : List Byte) (e : Expected) : Bool :=
  natAt r 4 4 == e.round.toNat && natAt r 8 2 == e.layer.toNat && natAt r 12 1 == e.core.toNat && natAt r 13 1 == e.acc.toNat

/-- Put a record into the store of its task: 32,768 records, the oldest overwritten. -/
def PenLog.put (x : PenLog) (r : List Byte) : PenLog :=
  if x.store.length < 32768 then { x with store := x.store ++ [r] }
  else { x with store := x.store.drop 1 ++ [r], base := x.base + 1, beyond := satAdd 65535 x.beyond 1 }

/-- Compare a record with the task's expected pennants (Table 20.3). -/
def State.penMatch (s : State) (t : Task) (r : List Byte) : State :=
  let upd (s : State) (f : PenLog → PenLog) : State := s.updPart t.banner fun p => p.updPen t.id f
  match t.expected.find? (Expected.meets r) with
  | none => upd s fun x => { x with unexpected := satAdd 65535 x.unexpected 1 }
  | some e =>
    let s1 := s.updTask t.loadId fun t => { t with expected := updFirst (Expected.meets r) (fun e => { e with seen := true }) t.expected }
    if natAt r 24 8 = e.digest.toNat then upd s1 fun x => { x with matched := (x.matched + 1) % 4294967296 }
    else
      (upd s1 fun x => { x with mismatched := (x.mismatched + 1) % 4294967296, first := x.first.or (some (penFirstOf r)) }).logEvent
        4 3 t.id.toNat (some t.banner) (bodyWords r)

/-- PENNANT_RECORD: SC4 takes a record that has reached the control complex; at most 64 in one tread. -/
def xPennantRecord (i : Nat) (s : State) : State :=
  match s.pensIn[i]? with
  | none => s
  | some r =>
    let s1 := { s with pensIn := s.pensIn.eraseIdx i }
    match s.findTask (BitVec.ofNat 32 (natAt r 0 4)) with
    | none => s1
    | some t =>
      let upd (s : State) (f : PenLog → PenLog) : State := s.updPart t.banner fun p => p.updPen t.id f
      if 64 ≤ s.pensTread then upd s1 fun x => { x with lost := satAdd 65535 x.lost 1 }
      else
        let s2 := upd { s1 with pensTread := s.pensTread + 1 } fun x => x.put r
        if t.hasExpected then s2.penMatch t r else s2

/-! ### The event log's ring (R441, R442) -/

/-- EVENT_LOG_FLUSH: the oldest buffered entry is written, by one page program. Before the head enters a 64 KiB sector that sector is
erased, and with it the oldest 1,024 entries of a full ring; the entry is written once that has ended. Nothing begins while
a reset is pending (R421). -/
def xEventLogFlush (s : State) : State :=
  match s.diag.buf.getLast? with
  | none => s
  | some e =>
    let now := s.clk.treadCount
    let w := s.diag.work
    let sector := e.seq.toNat / 1024 % 128
    if s.rst.pend.isSome || s.flashBusy then s
    else if e.seq.toNat % 1024 = 0 && w.ready != some sector then
      { s with diag := { s.diag with
        flash := s.diag.flash.take 130048, work := { w with erasing := some (sector, now + Config.flashTreads now), ready := some sector } } }
    else
      { s with diag := { s.diag with
        buf := s.diag.buf.dropLast, flash := e :: s.diag.flash,
        work := { progUntil := now + Config.flashTreads now % 2001, erasing := none, ready := none } } }

def execNearWheelAtHiWrite (n : StackId) (v : Word) (s : State) : Out := .next (xNearWheelAtHiWrite n.val v s)
def execArmedWheelChange (n : StackId) (s : State) : Out := .next (xArmedWheelChange n.val s)
def execPatrolScrub (n : StackId) (s : State) : Out := .next (xPatrolScrub n.val s)
def execPennantRecord (i : Nat) (s : State) : Out := .next (xPennantRecord i s)
def execEventLogFlush (s : State) : Out := .next (xEventLogFlush s)

end Sys2Proof.Machine
end

