-- ==== Sys2Proof/Machine/Boundary.lean ====
section
/-! DEFINITION. The tread boundary (R24 to R31, R37, R41, R42, R160, R212, R213, R235). -/

namespace Sys2Proof.Machine

/-- A check that failed at a boundary: reason, instruction address, engine, auxiliary word. -/
structure Finding where
  reason : BitVec 8
  pc     : BitVec 32
  engine : FaultEngine
  aux    : BitVec 64
  deriving DecidableEq, Repr, Inhabited

/-- The end of a transfer that is not the local one. -/
def StreamInstr.farKind (i : StreamInstr) : EndKind := if i.dst.kind = .loc then i.src.kind else i.dst.kind

/-- Lowest-numbered element of an instruction that has not completed. -/
def Core.lowestElem (k : Core) (i : StreamInstr) : Nat :=
  (k.elems.filter fun e => e.ord == i.tag.ord).foldl (fun n e => min n e.elem) i.next

/-- R160: a transfer whose due boundary is this one and that has an incomplete element; `len` is the round's length. -/
def Core.lateTransfer (k : Core) (now len : Nat) : Option Finding :=
  (k.sq.find? fun i => i.due != 0 && decide (i.issueAt + i.due ≤ now) && decide (i.tag.tread + i.due < len)).map fun i =>
    { reason := 0x44, pc := i.tag.pc, engine := .of .stream,
      aux := BitVec.ofNat 64 (k.lowestElem i + endCode i.farKind * 16777216 + k.elems.length * 4294967296) }

/-- Expectations checked at the boundary that ends tread t of the round (R212); at a landing, the later ones as well. -/
def Core.dueExpects (k : Core) (t : Nat) (last : Bool) : List Expect :=
  k.expects.filter fun x => x.tread == t || (last && decide (t < x.tread))

/-- R212: the earliest expectation whose counter is short. -/
def Core.countShort (k : Core) (t : Nat) (last : Bool) : Option Finding :=
  ((k.dueExpects t last).find? fun x => decide ((tget 0 k.cc x.cc.toNat).toNat < x.count.toNat)).map fun x =>
    { reason := 0x41, pc := x.tag.pc, engine := .of .message,
      aux := BitVec.ofNat 64 (x.cc.toNat + (tget 0 k.cc x.cc.toNat).toNat * 4294967296) }

/-- Messages of this core on the mesh that have not been usable by their deadline (R213). -/
def State.lateOf (s : State) (c now : Nat) : List Packet :=
  s.mesh.filter fun p => p.source == s.globalAddr c && p.deadline != 0 && decide (p.deadline ≤ now)

/-- The instruction that sent a message: its issue order and address. -/
def Core.sentBy (k : Core) (dest : BitVec 18) (seq : BitVec 16) : Nat × BitVec 32 :=
  match k.sent.find? (fun x => x.dest == dest && x.seq == seq) with
  | some x => (x.ord, x.pc)
  | none => (k.ord, k.pc)

/-- R213 for the mesh, for a reduction whose root has not combined it by its deadline (log 22), and for an instruction
that has not begun by then: each with the issue order of its instruction. -/
def State.lateAll (s : State) (c now : Nat) : List (Nat × Finding) :=
  let k := s.core c
  let one (pc : BitVec 32) (e : FaultEngine) (aux : Nat) : Finding := { reason := 0x40, pc := pc, engine := e, aux := BitVec.ofNat 64 aux }
  ((s.lateOf c now).map fun p =>
    let dest := s.globalAddr p.dest
    let m := k.sentBy dest p.seq
    (m.1, one m.2 (k.sender m.2) (dest.toNat + p.seq.toNat % 4096 * 1048576))) ++
  ((k.reds.filter fun r => decide (r.issued + (if r.remote then 4 else 2) ≤ now)).map fun r =>
    (r.ord, one r.pc (.of .message) (s.globalAddr c).toNat)) ++
  ((k.xwait.filter fun x => x.op != 0x84 && decide (x.issued + x.lag s c ≤ now)).map fun x =>
    (x.tag.ord, one x.tag.pc (.of .message) ((x.first s c).toNat + (k.nextSeq (x.first s c)).toNat % 4096 * 1048576)))

/-- The earliest issued of the instructions whose messages are late at a boundary is named (R191). -/
def State.msgLate (s : State) (c now : Nat) : Option Finding :=
  ((s.lateAll c now).foldl (fun (b : Option (Nat × Finding)) x =>
    match b with
    | some y => if x.1 < y.1 then some x else some y
    | none => some x) none).map (·.2)

/-- R27, R28, R186: the core has closed its tread, or waits in UNTIL for a later one. -/
def Core.closed (k : Core) : Bool :=
  match k.treadSt with
  | .open_ => false
  | _ => true

/-- R31: round-closing LAND issued, every transfer accepted, no message in flight on the mesh or the links. -/
def State.quiescent (s : State) (c : Nat) : Bool :=
  let k := s.core c
  k.treadSt == .landed && k.sq.isEmpty && k.xq.isEmpty && k.xwait.isEmpty &&
  !(s.mesh.any fun p => p.source == s.globalAddr c && (p.kind == 0 || p.kind == 1 || p.kind == 2)) &&
  !(s.links.any fun l => (l.2.txQ.any fun m => m.head.source == s.globalAddr c && !m.head.forwarded) ||
      l.2.held.any fun h => h.head.any fun m => m.source == s.globalAddr c && !m.forwarded)

/-- Every check of the boundary that ends tread `t.tread` on a running core; the lowest code is reported (R232). -/
def State.boundaryCheck (s : State) (t : Task) (len c : Nat) : Option Finding :=
  let k := s.core c
  let now := s.clk.treadCount
  let last := decide (len ≤ t.tread + 1)
  let own (r : BitVec 8) : Finding := { reason := r, pc := k.pc, engine := .none, aux := 0 }
  let l := [if k.closed then none else some (own 0x30),
    if last && !s.quiescent c then some (own 0x31) else none,
    if (s.hall (hallOf c)).stepCur.toNat < t.minStep.toNat then some (own 0x32) else none,
    s.msgLate c now, k.countShort t.tread last, k.lateTransfer now len]
  l.foldl (fun best f => match best, f with
    | some b, some f => if f.reason.toNat < b.reason.toNat then some f else some b
    | none, f => f
    | b, none => b) none

/-- Expectations that were met complete and signal; waiting X. instructions may begin. -/
def State.meetExpects (s : State) (c t : Nat) (last : Bool) : State :=
  let due := (s.core c).dueExpects t last
  let s1 := s.updCore c fun k => { k with expects := k.expects.filter fun x => !due.contains x }
  let s2 := due.foldl (fun s x => s.signal c x.tag .message) s1
  if due.isEmpty then s2 else xKick c 4 s2

/-- A core that goes on: the next tread of the round opens, UNTIL completes at its tread, or the core is LANDED. -/
def State.openTread (s : State) (c next : Nat) (last : Bool) : State :=
  let k := s.core c
  if k.st ≠ .running then s
  else if last then s.setCore c { k with st := .landed }
  else match k.treadSt with
    | .untilT n t =>
      let k1 := { (k.pushTrace (traceOf s { k with pc := t.pc } (s.taskOf c))) with firstPc := none }
      if n = next then (s.setCore c { k1 with treadSt := .open_ }).tick.signal c t .control
      else (s.setCore c k1).tick
    | _ => s.setCore c { k with treadSt := .open_, firstPc := none }

/-- One core at the boundary. -/
def State.endTreadCore (s : State) (t : Task) (len c : Nat) : State :=
  let k := s.core c
  if k.st = .running then
    match s.boundaryCheck t len c with
    | some f => s.haltCore c f.reason f.pc f.engine f.aux
    | none => s.meetExpects c t.tread (decide (len ≤ t.tread + 1))
  else s

/-- One task at the boundary: the checks of its cores, then the next tread or the landing. A task at a landing keeps the
check of its step (R37). -/
def State.endTreadTask (s : State) (t : Task) : State :=
  if t.st = .landing then s.stepCheckTask t else
  if t.st != .running then s else
  let len := match t.kinds[t.kind]? with | some r => r.length | none => 1
  let last := decide (len ≤ t.tread + 1)
  let s1 := t.cores.foldl (fun s c => s.endTreadCore t len c) s
  let s2 := t.cores.foldl (fun s c => s.openTread c (t.tread + 1) last) s1
  if last then
    let s3 := s2.updTask t.loadId fun t => { t with st := .landing, landingAt := s.clk.treadCount + 1, usedNow := 0 }
    if s3.isLead t then s3
    else s3.sendMgmt (BitVec.ofNat 10 t.leadAddr) (.landingReport t.id t.epoch (s3.ownReport t))
  else s2.updTask t.loadId fun t => { t with tread := t.tread + 1, usedNow := 0 }

/-- Packets of other modules' messages that are late on the mesh: the source of each message is told (R213, R270). -/
def State.lateNotices (s : State) : State :=
  let late := s.mesh.filter fun p =>
    p.source.toNat / 256 != s.modAddr && p.deadline != 0 && decide (p.deadline ≤ s.clk.treadCount)
  (distinct (late.map fun p => p.source.toNat * 16777216 + p.seq.toNat * 256 + p.dest)).foldl (fun s x =>
    s.sendMgmt (BitVec.ofNat 10 (x / 4294967296))
      (.lateNotice (BitVec.ofNat 18 (x / 16777216)) (s.globalAddr (x % 256)) (BitVec.ofNat 12 (x / 256)))) s

/-- Discard what is late on the mesh; forget messages whose deadlines have long passed. -/
def State.dropLate (s : State) : State :=
  let now := s.clk.treadCount
  { s with
    mesh := s.mesh.filter fun p => p.deadline == 0 || decide (now < p.deadline),
    cores := s.cores.map fun p => (p.1, { p.2 with sent := p.2.sent.filter fun x => decide (now ≤ x.deadline + 8) }) }

/-- R235: an origin of tread t has halted the other cores by the boundary that ends tread t + 1. -/
def State.overdueAborts (s : State) : State :=
  s.tasks.foldl (fun s t =>
    match t.origin with
    | some (_, _, stamp) =>
      if t.live && (BitVec.ofNat 32 s.clk.treadCount - stamp != 0) && !(t.abortSent && t.cores.all fun c => (s.core c).st == .halted) then
        s.abortCores t
      else s
    | none => s) s

/-- The per-tread counters of a stack (Table 15.4). -/
def Stack.endTread (t : Stack) (second : Bool) : Stack :=
  { t with ceShown := if second then t.ce else t.ceShown, lastUnits := t.unitsNow, lastRead := [], hwm := [0, 1, 2, 3].map fun f => (f, max (tget 0 t.hwm f) t.unitsNow), unitsNow := 0, bankUnits := [], pcUnits := [] }

/-- R42: a hall that holds no task runs at TREAD_CTL.step_sel, unless an emergency, a thermal hold or a throttle keeps
it (R460, R461, R463); H19 of grade C stays at S0. -/
def State.idleSteps (s : State) : State :=
  (List.range 20).foldl (fun s h =>
    if s.pwr.emergency || s.holdsTask h || s.raising h || !s.hallOn h then s
    else s.setStep h (if s.pwr.thermHold || s.hotHall h then 0 else s.clk.stepSel)) s

/-- TREAD_BOUNDARY: the tick of the module (R26). At a multiple of 512 the scrubber's reserved cycle follows (R66). -/
def xTreadBoundary (s : State) : State :=
  if s.rst.off then s else
  let td := ([0, 1, 2, 3, 4, 5, 6, 7] : List Banner).foldl (fun s b => s.teardownTread b) s.heldReset
  let s0 := td.tasks.foldl (fun s t => s.swapTread t) td
  let s1 := s0.tasks.foldl (fun s t => s.endTreadTask t) s0
  let s2 := s1.overdueAborts.lateNotices.dropLate
  let clk := { (((s2.clk.countPresence s2.candsNow).refTick s2.rst.straps.clkMode s2.candsNow).calTick) with
    treadCount := s2.clk.treadCount + 1 }
  let s3 := { s2 with
    clk := clk, stackTbl := s2.stackTbl.map fun (p : Nat × Stack) => (p.1, p.2.endTread (clk.treadCount % 1000000 == 0)), gal := { s2.gal with pulses := [] }, pensTread := 0 }
  let rst := { s3.rst with
    windowTreads := if s3.rst.count = 0 then 0 else s3.rst.windowTreads + 1, sinceTreads := s3.rst.sinceTreads + 1, ticks := s3.rst.ticks + 1 }
  let s4 := ({ s3 with rst := rst }).idleSteps
  let s5 : State := s4.tasks.foldl (fun s t => s.startTask t) s4
  if s5.clk.treadCount % 512 = 0 then s5.scrubAll else s5

end Sys2Proof.Machine
end

