-- ==== Sys2Proof/Machine/Gallery.lean ====
section
/-! DEFINITION. The weight gallery: slots and programming (R298 to R310) and swaps (R314 to R318). -/

namespace Sys2Proof.Machine

/-! ### Extents (R298, R300) -/

/-- Free extents that are not worn, least-worn first. -/
def State.freeExtents (s : State) : List Nat :=
  let used := s.gal.slots.flatMap (·.2.extents)
  let free := (List.range 384).filter fun e => !used.contains e && !s.gal.worn.contains e
  sortBy (fun a b => decide (tget 0 s.gal.cycles a ≤ tget 0 s.gal.cycles b)) free

/-- A loaded task references the slot, or a swap names it (Tables 14.3, 14.4). -/
def State.slotUsed (s : State) (i : Nat) : Bool :=
  s.tasks.any fun t => t.live && (t.grefs.any (fun g => g.slot == i) ||
    match t.swap with | some w => w.slot == i || w.oldSlot == i | none => false)

/-! ### Opening and writing (R305, R306) -/

/-- GALLERY.OPEN. -/
def xGalleryOpen (r : CmdRef) (i : Nat) (length : Nat) (keyId : BitVec 32) (s : State) : State :=
  s.cmd r 0x0401 fun a s =>
    if s.tearing a.banner then s.finish r stBanner .none
    else if (s.slot i).st != .empty then s.finish r stBusy .none
    else
      let need := ceilDiv length extentBytes
      let free := s.freeExtents
      if free.length < need then s.finish r stNoCapacity (.shortfall (need - free.length))
      else (s.setSlot i { GSlot.reset with
        st := .open_, banner := a.banner, keyId := keyId, length := length, extents := free.take need }).finish r stOk .none

/-- Program bytes of a body, by pulses on the channels of their units: unit u of an extent lies on channel u mod 32 (R298,
R308). Every extent touched for the first time since the slot was opened takes one cycle (R300). -/
def State.program (s : State) (i o : Nat) (d : List Byte) : State :=
  let g := s.slot i
  let units := if d.isEmpty then [] else unitsOf o d.length
  let chans := (distinct (units.map fun u => u % 16384 % 32)).take 8
  let ext := if d.isEmpty then [] else (List.range ((o + d.length - 1) / extentBytes + 1 - o / extentBytes)).map (o / extentBytes + ·)
  let new := ext.filter fun e => !g.progUnits.contains e
  let s1 := s.setSlot i { g with
    body := memWrite g.body o d, progUnits := new ++ g.progUnits, badUnit := g.badUnit.filter fun p => !(progUnitsOf o d.length).contains p.1 }
  { s1 with gal := { s1.gal with
    pulses := (s1.gal.pulses ++ chans.map some).take 8, cycles := new.foldl (fun t e => tupd 0 t (g.extents.getD e 0) (· + 1)) s1.gal.cycles } }

/-- Why a slot refuses a GALLERY.WRITE of n bytes at o (R306). -/
def GSlot.writeBad (g : GSlot) (o n : Nat) : Option (BitVec 16) :=
  if g.st != .open_ then some stBusy
  else if extentBytes < n then some stBadParam
  else if o % 512 != 0 || n % 512 != 0 || decide ((g.length + 511) / 512 * 512 < o + n) then some stNotPermitted
  else none

/-- The checks and effect of a GALLERY.WRITE whose data has arrived. -/
def State.galWrite (s : State) (r : CmdRef) (i o : Nat) (d : List Byte) : State :=
  match (s.slot i).writeBad o d.length with
  | some st => s.finish r st .none
  | none => (s.program i o d).finish r stOk .none

/-- No pulse may start: programming is suspended (R462) or a reset is pending (R309). -/
def State.noPulse (s : State) : Bool := s.gal.suspend || s.rst.pend.isSome

/-- GALLERY.WRITE; it waits while no pulse may start. -/
def xGalleryWrite (r : CmdRef) (i o : Nat) (d : Option (List Byte)) (s : State) : State :=
  s.cmd r 0x0402 fun _ s =>
    match d with
    | none => (s.pendOn r).finish r stBadAddress .none
    | some d =>
      match (s.slot i).writeBad o d.length with
      | some st => s.finish r st .none
      | none =>
      if s.noPulse then { s with gal := { s.gal with waiting := s.gal.waiting ++ [(r, Fin.ofNat 8 i, o, d)] } }
      else (s.pendOn r).galWrite r i o d

/-- Writes that waited go on, in order. -/
def State.galResume (s : State) : State :=
  if s.noPulse then s else
  s.gal.waiting.foldl (fun s w => s.galWrite w.1 w.2.1.val w.2.2.1 w.2.2.2) { s with gal := { s.gal with waiting := [] } }

/-! ### Commit (R307) -/

/-- What R307 checks of a header before any digest is computed. -/
def headerBad (g : GSlot) (h : List Byte) : Bool :=
  let n := natAt h 6 2
  let g1 := { g with header := h }
  h.length != 512 || natAt h 0 4 != 0x4C41474B || natAt h 4 2 != 1 || n == 0 || decide (1024 < n) || natAt h 8 8 != g.length ||
  !allZero (bytesAt h 104 404) || decide (g.length < 64 * n) ||
  (List.range n).any fun l => g1.layerOff l % 4096 != 0 || g1.layerLen l == 0 || decide (g1.layerOff l < 64 * n) ||
    decide (g.length < g1.layerOff l + g1.layerLen l)

/-- GALLERY.COMMIT. -/
def xGalleryCommit (r : CmdRef) (i : Nat) (h : List Byte) (s : State) : State :=
  s.cmd r 0x0403 fun _ s =>
    let g := s.slot i
    if g.st != .open_ then s.finish r stBusy .none
    else if headerBad g h then s.finish r stNotPermitted .none
    else if !s.imageHeld { g with header := h } then s.finish r stKeyFail .none
    else s.setSlot i { g with st := .verifying, pendHdr := h, commitRef := some r }

/-- COMMIT_VERIFY_DONE: VALID with the header programmed by one pulse, or OPEN with DIGEST_FAIL. A commit that a reset interrupted
is no longer in progress (R309), and nothing is read while the state bit gates the reads (R410). -/
def xCommitVerifyDone (i : Nat) (s : State) : State :=
  let g := s.slot i
  if g.st != .verifying || g.commitRef.isNone || s.noPulse || s.readsGated then s else
  let s := s.galCount g 0 g.length
  let g1 := { g with header := g.pendHdr }
  let refs := g.commitRef.toList
  match s.imageBad g1 with
  | some l =>
    (s.setSlot i { g with st := .open_, pendHdr := [], commitRef := none }).finishAll refs stDigestFail (.count l)
  | none =>
    let s1 := s.setSlot i { g1 with
      st := .valid, keyId := BitVec.ofNat 32 (natAt g.pendHdr 32 4), pendHdr := [], commitRef := none }
    ({ s1 with gal := { s1.gal with pulses := (none :: s1.gal.pulses).take 8 } }).finishAll refs stOk (.digest (headerDigest g.pendHdr))

/-! ### Erase and grant (R300, R305) -/

/-- GALLERY.ERASE. -/
def xGalleryErase (r : CmdRef) (i : Nat) (s : State) : State :=
  s.cmd r 0x0404 fun _ s =>
    let g := s.slot i
    let ok := g.st == .open_ || g.st == .invalid || (g.st == .valid && !s.slotUsed i)
    if ok then s.setSlot i { g with st := .erasing, eraseRef := some r } else s.finish r stBusy .none

/-- ERASE_DONE: extents are released, those at 100,000 cycles as worn, and the slot is EMPTY. -/
def xEraseDone (i : Nat) (s : State) : State :=
  let g := s.slot i
  if g.st != .erasing then s else
  let worn := g.extents.filter fun e => decide (100000 ≤ tget 0 s.gal.cycles e)
  let s1 := s.setSlot i GSlot.reset
  let s2 := { s1 with gal := { s1.gal with worn := s1.gal.worn ++ worn } }
  (s2.finishAll g.eraseRef.toList stOk .none).teardownTry g.banner

/-- GALLERY.GRANT. -/
def xGalleryGrant (r : CmdRef) (i : Nat) (owner : Banner) (s : State) : State :=
  s.cmd r 0x0405 fun _ s =>
    let g := s.slot i
    if s.tearing owner then s.finish r stBanner .none
    else if g.st == .valid && !s.slotUsed i then (s.setSlot i { g with banner := owner, revoked := false }).finish r stOk .none
    else s.finish r stBusy .none

/-- The slot is visible to a function (R305). -/
def State.seesSlot (s : State) (f : FnId) (g : GSlot) : Bool := s.isMgmt f || (g.st != .empty && !g.revoked && s.owns f g.banner)

/-- GALLERY.STATUS: header digest and layer table of a VALID slot, and the cycles of its extents. -/
def xGalleryStatus (r : CmdRef) (i : Nat) (s : State) : State :=
  s.cmd r 0x0407 fun _ s =>
    let g := s.slot i
    if !s.seesSlot r.fn g then s.finish r stBanner .none
    else
      let head := if g.st == .valid then leBytes 48 (headerDigest g.header).toNat ++ memRead g.body 0 g.tableEnd else []
      s.finish r stOk (.slot g.st head (g.extents.map fun e => tget 0 s.gal.cycles e))

/-- BACKGROUND_VERIFY (R310): the pass finds `corrected` program units with their wrong bits, and `ue` that cannot be
corrected, beside those known to be bad; every unit met is counted. -/
def xBackgroundVerify (i : Nat) (corrected : List (Nat × Nat)) (ue : List Nat) (s : State) : State :=
  let g := s.slot i
  if g.st != .valid || s.readsGated then s else
  let found := ue.foldl (fun t u => tset t u 9) (corrected.foldl (fun t p => tset t p.1 (min 8 p.2)) g.badUnit)
  let g1 := { g with badUnit := found }
  let (nc, nu) := g1.readUnits 0 g.length
  let weak := found.any fun p => decide (4 < p.2) && decide (p.1 * 512 < g.length)
  let s1 := (s.setSlot i g1).galCount g1 0 g.length
  if weak || (s.imageBad g1).isSome then
    (s1.setSlot i { g1 with suspect := true }).logEvent 4 7 i (some g.banner) [nu.headD 0 * 512, nc, nu.length]
  else s1

/-! ### Swaps (R314 to R318) -/

/-- A stream of the old model is in a slot (R314, R315). -/
def State.oldInSlot (s : State) (b : Banner) (old : Nat) : Bool :=
  s.streams.any fun p => p.2.banner == b && p.2.model == (s.slot old).model && p.2.slot.isSome

/-- Checks 3 to 6 of R315, with the epoch limit of R295. -/
def State.swapCheck (s : State) (t : Task) (gref : Nat) (replace : Bool) (i : Nat) : Option (BitVec 16) :=
  match t.grefs[gref]? with
  | none => some stBadParam
  | some r =>
    let g := s.slot i
    let o := s.slot r.slot
    if !g.grantedTo t.banner then some stNotPermitted
    else if g.layers != o.layers || (List.range g.layers).any (fun l => g.layerLen l != o.layerLen l) then some stNotPermitted
    else if replace == (g.model == o.model) || (replace && s.oldInSlot t.banner r.slot) then some stBusy
    else if !s.imageHeld g then some stKeyFail
    else if t.epoch == 0xFFFFFFFF then some stNotPermitted
    else none

/-- The lead cancels a swap on every member, naming the first that failed (R315). -/
def State.swapCancelAll (s : State) (t : Task) (member : Nat) : State :=
  match t.swap with
  | none => s
  | some w =>
    let s1 := s.sendMembers t (.swapCancel ⟨⟨t.id, t.epoch⟩, w.swapId⟩ member)
    (s1.updTask t.loadId fun t => { t with swap := none }).finishAll w.ref.toList stSwapIncomplete (.swapFail member 0)

/-- What the lead does with a member's answer; one that names another swap is none of this one. -/
def State.swapAnswer (s : State) (l n : Nat) (member : Nat) (status : BitVec 16) : State :=
  match s.findLoad l with
  | none => s
  | some t =>
    match t.swap with
    | none => s
    | some w =>
      if w.go || w.swapId != n then s
      else if status != 0 then s.swapCancelAll t member
      else
        let ready := if w.ready.contains member then w.ready else w.ready ++ [member]
        let go := (List.range (max 1 t.members.length)).all ready.contains
        let s1 := s.updTask l fun t => { t with swap := some { w with ready := ready, go := go } }
        if go then s1.sendMembers t (.swapGo ⟨t.id, t.epoch⟩) else s1

/-- GALLERY.SWAP: the member's checks, then ready to the lead. -/
def xGallerySwap (r : CmdRef) (swapId : Nat) (task : BitVec 32) (gref : Nat) (replace : Bool) (i : Nat) (s : State) : State :=
  s.cmd r 0x0406 fun a s =>
    match s.findTask task with
    | none => s.finish r stBadParam .none
    | some t =>
      if t.banner != a.banner then s.finish r stBanner .none
      else if !t.live then s.finish r stBadParam .none
      else if t.swap.isSome then s.finish r stBusy .none
      else
        let lead := BitVec.ofNat 10 t.leadAddr
        match s.swapCheck t gref replace i with
        | some st =>
          let s1 := s.finish r st .none
          if s.isLead t then s1.sendMembers t (.swapCancel ⟨⟨t.id, t.epoch⟩, swapId⟩ t.member)
          else s1.sendMgmt lead (.swapReady ⟨⟨t.id, t.epoch⟩, swapId⟩ t.member st)
        | none =>
          match (if s.isLead t then none else t.swapEarly.find? fun p => p.1 == swapId) with
          | some p => (s.updTask t.loadId fun t => { t with swapEarly := [] }).finish r stSwapIncomplete (.swapFail p.2.1 0)
          | none =>
          let old := match t.grefs[gref]? with | some g => g.slot | none => 0
          let w : Swap :=
            { swapId := swapId, ref := some r, gref := gref, slot := i, oldSlot := old, replace := replace, ready := [],
              go := false, applying := false, read := 0, copied := false, result := .ok, reports := [], startAt := s.clk.treadCount }
          let s1 := s.updTask t.loadId fun t => { t with swap := some w, swapEarly := [] }
          if s.isLead t then
            t.swapEarly.foldl (fun s p => s.swapAnswer t.loadId p.1 p.2.1 p.2.2) (s1.swapAnswer t.loadId swapId t.member 0)
          else s1.sendMgmt lead (.swapReady ⟨⟨t.id, t.epoch⟩, swapId⟩ t.member 0)

/-- SWAP_READY: a member's answer at the lead, kept until the lead's own command has come; at another member a refusal
is the lead's cancellation, kept until the member's own command has come. -/
def xSwapReady (ref : SwapRef) (member : Nat) (status : BitVec 16) (s : State) : State :=
  match s.findTask ref.task with
  | none => s.discardMgmt
  | some t =>
    if !t.live then s
    else if t.epoch ≠ ref.epoch then s.epochAbort t
    else if s.isLead t then
      if t.swap.any (fun w => w.swapId == ref.swapId) then s.swapAnswer t.loadId ref.swapId member status
      else s.updTask t.loadId fun t => { t with swapEarly := t.swapEarly ++ [(ref.swapId, member, status)] }
    else if status = 0 then s
    else match t.swap with
      | some w =>
        if w.swapId == ref.swapId && !w.applying then
          (s.updTask t.loadId fun t => { t with swap := none }).finishAll w.ref.toList stSwapIncomplete (.swapFail member 0)
        else s
      | none => s.updTask t.loadId fun t => { t with swapEarly := [(ref.swapId, member, status)] }

/-- SWAP_READY_TIMEOUT: 10 s after the lead's own command. -/
def xSwapReadyTimeout (task : BitVec 32) (s : State) : State :=
  match s.findTask task with
  | none => s
  | some t =>
    match t.swap with
    | none => s
    | some w =>
      if !s.isLead t || w.go || decide (s.clk.treadCount < w.startAt + 10000000) then s
      else s.swapCancelAll t (((List.range t.members.length).find? fun m => !w.ready.contains m).getD 0)

/-- SWAP_APPLY: at a landing whose release has not been chosen, with every member ready, the copy begins. -/
def xSwapApply (ref : TaskRef) (s : State) : State :=
  match s.findTask ref.task with
  | none => s.discardMgmt
  | some t =>
    if t.live && t.epoch != ref.epoch then s.epochAbort t else
    match t.swap with
    | none => s
    | some w =>
      if t.st != .landing || t.releaseAt.isSome || w.applying || (s.isLead t && !w.go) ||
          (w.replace && s.oldInSlot t.banner w.oldSlot) then s
      else s.updTask t.loadId fun t => { t with swap := some { w with applying := true, read := 0, startAt := s.clk.treadCount } }

/-- The layers of a copy in progress that it has begun to overwrite, `n` bytes of them one after the other. -/
def begunLayers : List (Nat × Nat) → Nat → List Nat
  | [], _ => []
  | p :: l, n => if n = 0 then [] else p.1 :: begunLayers l (n - p.2)

/-- R317 on one member: every layer it has overwritten is read again from the old image, and the command replies
DIGEST_FAIL; if that fails as well, the task aborts. -/
def State.swapRestore (s : State) (t : Task) (w : Swap) (member layer : Nat) : State :=
  if s.copyStopped t then s else
  let ls := t.refLayers w.gref
  let lens := ls.map (s.slot w.slot).layerLen
  let begun := if w.copied then ls else if w.applying then begunLayers (ls.zip lens) (wholeUnits lens w.read) else []
  let redo := match (if w.copied then (match w.result with | .badLayer l => some l | _ => none)
      else begun.find? fun l => !s.layerOk (s.slot w.slot) l) with
    | some l => begun.filter fun x => decide (x ≤ l)
    | none => begun
  let (s1, res) := State.copyLayers t w.gref w.oldSlot redo s
  if res = .ok then
    (s1.updTask t.loadId fun t => { t with swap := none }).finishAll w.ref.toList stDigestFail (.swapFail member layer)
  else s1.abortTask t 0x72 0x62

/-- Failing layer of a result; the layer table counts as layer 0. -/
def failedLayer (r : LayerResult) : Nat :=
  match r with
  | .badLayer l => l
  | _ => 0

/-- SWAP_REPORT: the lead collects every member's result; with all done the landing is released under the next epoch,
and a failure has every member restore. At another member a failure is the lead's order to restore. -/
def xSwapReport (ref : TaskRef) (member : Nat) (res : LayerResult) (s : State) : State :=
  match s.findTask ref.task with
  | none => s.discardMgmt
  | some t =>
    if t.live && t.epoch != ref.epoch then s.epochAbort t else
    match t.swap with
    | none => s
    | some w =>
      if !t.live || (!w.applying && (res = .ok || (s.isLead t && !w.go))) then s
      else if res ≠ .ok then
        let s1 := if s.isLead t then s.sendMembers t (.swapDone ⟨t.id, t.epoch⟩ member res) else s
        let s2 := s1.swapRestore t w member (failedLayer res)
        match s2.findLoad t.loadId with
        | some t2 => if s.isLead t then s2.tryRelease t2 else s2
        | none => s2
      else if !s.isLead t then s
      else
        let reports := w.reports.filter (fun p => p.1 != member) ++ [(member, res)]
        let all := (List.range (max 1 t.members.length)).all fun m => reports.any fun p => p.1 == m
        let t1 := { t with swap := some { w with reports := reports, go := !all }, releaseEpoch := if all then some (t.epoch + 1) else t.releaseEpoch }
        let s1 := s.updTask t.loadId fun _ => t1
        if all then s1.tryRelease t1 else s1

/-- SWAP_COPY_DONE: the copy ends, with what its treads had not reached, and its outcome goes to the lead. -/
def xSwapCopyDone (task : BitVec 32) (s : State) : State :=
  match s.findTask task with
  | none => s
  | some t =>
    match t.swap with
    | none => s
    | some w =>
      if !t.live || !w.applying || w.copied || s.copyStopped t then s
      else
        let ls := t.refLayers w.gref
        let lens := ls.map (s.slot w.slot).layerLen
        let (s1, res) := State.copySpan t w.gref w.slot (wholeUnits lens w.read) lens.sum ls s
        let s2 := s1.updTask t.loadId fun t => { t with swap := some { w with copied := true, result := res } }
        if s.isLead t then xSwapReport ⟨t.id, t.epoch⟩ t.member res s2
        else s2.sendMgmt (BitVec.ofNat 10 t.leadAddr) (.swapDone ⟨t.id, t.epoch⟩ t.member res)

def execGalleryOpen (r : CmdRef) (i : SlotId) (length : Nat) (keyId : BitVec 32) (s : State) : Out :=
  .next (xGalleryOpen r i.val length keyId s)
def execGalleryWrite (r : CmdRef) (i : SlotId) (o : Nat) (d : Option (List Byte)) (s : State) : Out :=
  .next (xGalleryWrite r i.val o d s)
def execGalleryCommit (r : CmdRef) (i : SlotId) (h : List Byte) (s : State) : Out := .next (xGalleryCommit r i.val h s)
def execCommitVerifyDone (i : SlotId) (s : State) : Out := .next (xCommitVerifyDone i.val s)
def execGalleryErase (r : CmdRef) (i : SlotId) (s : State) : Out := .next (xGalleryErase r i.val s)
def execEraseDone (i : SlotId) (s : State) : Out := .next (xEraseDone i.val s)
def execGalleryGrant (r : CmdRef) (i : SlotId) (owner : Banner) (s : State) : Out := .next (xGalleryGrant r i.val owner s)
def execGallerySwap (r : CmdRef) (n : Nat) (task : BitVec 32) (gref : Nat) (replace : Bool) (i : SlotId) (s : State) : Out :=
  .next (xGallerySwap r n task gref replace i.val s)
def execGalleryStatus (r : CmdRef) (i : SlotId) (s : State) : Out := .next (xGalleryStatus r i.val s)
def execSwapReady (task : SwapRef) (m : Nat) (st : BitVec 16) (s : State) : Out := .next (xSwapReady task m st s)
def execSwapReadyTimeout (task : BitVec 32) (s : State) : Out := .next (xSwapReadyTimeout task s)
def execSwapApply (task : TaskRef) (s : State) : Out := .next (xSwapApply task s)
def execSwapCopyDone (task : BitVec 32) (s : State) : Out := .next (xSwapCopyDone task s)
def execSwapReport (task : TaskRef) (m : Nat) (res : LayerResult) (s : State) : Out := .next (xSwapReport task m res s)
def execBackgroundVerify (i : SlotId) (c : List (Nat × Nat)) (ue : List Nat) (s : State) : Out := .next (xBackgroundVerify i.val c ue s)

end Sys2Proof.Machine
end

