-- ==== Sys2Proof/Machine/Loader.lean ====
section
/-! DEFINITION. The program image (R216 to R226, R482) and the loader's checks in the order of Table 10.8. -/

namespace Sys2Proof.Machine

/-! ### Sections (R216 to R218) -/

/-- A section table entry (Table 10.4). -/
structure Sect where
  ty : Nat
  var : Nat
  off : Nat
  size : Nat
  deriving DecidableEq, Repr, Inhabited

def sectsOf (img : List Byte) : List Sect :=
  (List.range (natAt img 6 2)).map fun i =>
    let o := 128 + 16 * i
    { ty := natAt img o 2, var := natAt img (o + 2) 1, off := natAt img (o + 4) 4, size := natAt img (o + 8) 4 }

/-- Index and bytes of the section of a type and scope. -/
def sectIx (img : List Byte) (ty var : Nat) : Option (Nat × Sect) :=
  ((sectsOf img).zipIdx.find? fun p => p.1.ty == ty && p.1.var == var).map fun p => (p.2, p.1)

def sectBytes (img : List Byte) (ty var : Nat) : List Byte :=
  match sectIx img ty var with
  | some (_, x) => bytesAt img x.off x.size
  | none => []

/-- Section index as the load report gives it. -/
def sectNo (img : List Byte) (ty var : Nat) : Nat := match sectIx img ty var with | some (i, _) => i | none => 0xFFFF

/-- Scope code of a common section. -/
abbrev common : Nat := 0xFF

/-- Variants a header lists. -/
def variantsOf (img : List Byte) : List Nat := (List.range 3).filter fun v => bitOf (natAt img 21 1) v

def memberCount (img : List Byte) : Nat := natAt img 24 2
def memberIndex (img : List Byte) : Nat := natAt img 22 2
/-- The member map (R482). -/
def memberMap (img : List Byte) : List (BitVec 10) :=
  (List.range (memberCount img)).map fun i => BitVec.ofNat 10 (natAt (sectBytes img 0x0D common) (2 * i) 2)
def membersDigestOf (img : List Byte) : BitVec 384 := Config.sha384 (sectBytes img 0x0D common)

/-! ### A variant's contents (R220 to R225) -/

/-- Allocated cores and entry addresses (Table 10.5, CORES). -/
def coresOf (img : List Byte) (v : Nat) : List (Nat × Nat) :=
  let b := sectBytes img 3 v
  (List.range (b.length / 8)).map fun i => (natAt b (8 * i) 2, natAt b (8 * i + 4) 4)

/-- Allocation entries (Table 10.6). -/
def allocsOf (img : List Byte) (v : Nat) : List Alloc :=
  let b := sectBytes img 2 v
  (List.range (b.length / 32)).map fun i =>
    let o := 32 * i
    { core := natAt b o 2, kind := natAt b (o + 2) 1, gref := natAt b (o + 3) 1, start := natAt b (o + 4) 4,
      length := natAt b (o + 8) 4, source := natAt b (o + 12) 8, blob := natAt b (o + 20) 1, layer := natAt b (o + 22) 2 }

def blobOf (img : List Byte) (v : Nat) (a : Alloc) : List Byte := sectBytes img 1 (if a.blob = 0 then common else v)

/-- The successor field of a round kind. -/
def nextKind (n : Nat) : Option Nat := if n = 0xFFFF then none else some n

def kindCount (img : List Byte) (v : Nat) : Nat := natAt (sectBytes img 7 v) 0 2

/-- Round kinds with their budget tables (R222). -/
def kindsOf (img : List Byte) (v : Nat) : List RoundKind :=
  let b := sectBytes img 7 v
  (List.range (kindCount img v)).map fun i =>
    let o := 8 + 16 * i
    let n := natAt b o 2
    let t := natAt b (o + 8) 4
    { length := n, landing := natAt b (o + 2) 1, exitRound := bitOf (natAt b (o + 3) 1) 0, next0 := nextKind (natAt b (o + 4) 2),
      next1 := nextKind (natAt b (o + 6) 2), budgets := (List.range n).map fun j => natAt b (t + 2 * j) 2 }

/-- The link schedule (R223). -/
def linksOf (img : List Byte) : List LinkEntry :=
  let b := sectBytes img 8 common
  (List.range (b.length / 16)).map fun i =>
    let o := 16 * i
    { kind := natAt b o 2, tread := natAt b (o + 2) 2, link := natAt b (o + 4) 1, twoHops := bitOf (natAt b (o + 5) 1) 0,
      flits := natAt b (o + 6) 2, dest := natAt b (o + 8) 2, offset := natAt b (o + 10) 2 }

/-- Gallery references (R224), with no slot yet. -/
def grefsOf (img : List Byte) : List GRef :=
  let b := sectBytes img 0x0A common
  (List.range (b.length / 64)).map fun i =>
    let o := 64 * i
    { digest := BitVec.ofNat 384 (natAt b o 48), first := natAt b (o + 48) 2, layers := natAt b (o + 50) 2,
      backed := bitOf (natAt b (o + 52) 1) 0, slot := 0 }

/-- Declared non-deterministic operations: core, kind, address. -/
def nondetOf (img : List Byte) (v : Nat) : List (Nat × Nat × Nat) :=
  let b := sectBytes img 9 v
  (List.range (b.length / 8)).map fun i => (natAt b (8 * i) 2, natAt b (8 * i + 2) 1, natAt b (8 * i + 4) 4)

def expectedOf (img : List Byte) (v : Nat) : List Expected :=
  let b := sectBytes img 0x0B v
  (List.range (b.length / 32)).map fun i =>
    let o := 32 * i
    { round := BitVec.ofNat 32 (natAt b o 4), layer := BitVec.ofNat 16 (natAt b (o + 4) 2), core := BitVec.ofNat 8 (natAt b (o + 6) 1),
      acc := BitVec.ofNat 8 (natAt b (o + 7) 1), digest := BitVec.ofNat 64 (natAt b (o + 8) 8), seen := false }

/-- SERVING parameters (R225). -/
def servingOf (img : List Byte) : Option Serving :=
  (sectIx img 0x0C common).map fun _ =>
    let b := sectBytes img 0x0C common
    { role := natAt b 0 1, tree := natAt b 1 1, slots := natAt b 2 2, maxContext := natAt b 4 4, blockPages := natAt b 8 2,
      chunk := natAt b 10 2, memSets := natAt b 12 1, pair := BitVec.ofNat 64 (natAt b 16 8), kvBytes := natAt b 24 4 }

/-! ### Reports -/

abbrev LoadErr := BitVec 16 × LoadReport

/-- A report that names what failed; 0xFFFF where nothing is concerned. -/
def rep (check : Nat) (core section_ item : Nat := 0xFFFF) : LoadReport :=
  { LoadReport.zero with check := check, core := core, section_ := section_, item := item }

def errIf (b : Bool) (st : BitVec 16) (r : LoadReport) : Option LoadErr := if b then some (st, r) else none

def firstErr : List (Option LoadErr) → Option LoadErr
  | [] => none
  | some e :: _ => some e
  | none :: l => firstErr l

/-! ### Check 2: framing (R216 to R218, R482) -/

def perVariant : List Nat := [2, 3, 4, 5, 6, 7, 9]
def commonTypes : List Nat := [8, 0x0A, 0x0D, 0x0F]

/-- Header fields out of range. -/
def headerRanges (img : List Byte) (len : Nat) : Bool :=
  natAt img 0 4 != 0x4D49474B || natAt img 4 2 != 1 || decide (natAt img 6 2 < 2) || decide (64 < natAt img 6 2) ||
  natAt img 8 8 != img.length || natAt img 8 8 != len || decide (268435456 < natAt img 8 8) || decide (16 ≤ natAt img 16 4) ||
  decide (8 ≤ natAt img 21 1) || memberCount img == 0 || decide (1024 < memberCount img) ||
  decide (memberCount img ≤ memberIndex img) || decide (4000 < natAt img 26 2) || natAt img 30 2 != 0 ||
  !allZero (bytesAt img 88 40) || decide (img.length < 128 + 16 * natAt img 6 2)

/-- Sections in ascending order on 16-byte boundaries, none before `lo`. -/
def sectOrder (lo : Nat) : List Sect → Nat → Option Nat
  | [], _ => none
  | x :: l, i => if x.off % 16 != 0 || decide (x.off < lo) then some i else sectOrder (x.off + x.size) l (i + 1)

/-- The count and scope rules of R218. -/
def scopeBad (img : List Byte) : Bool :=
  let l := sectsOf img
  let vs := variantsOf img
  let count (ty v : Nat) : Nat := (l.filter fun x => x.ty == ty && x.var == v).length
  let pens := bitOf (natAt img 16 4) 3
  l.any (fun x =>
    if commonTypes.contains x.ty || x.ty == 0x0C then x.var != common
    else if perVariant.contains x.ty || x.ty == 0x0B then !vs.contains x.var
    else if x.ty == 1 then x.var != common && !vs.contains x.var
    else true) ||
  perVariant.any (fun ty => vs.any fun v => count ty v != 1) || commonTypes.any (fun ty => count ty common != 1) ||
  decide (1 < count 0x0C common) || decide (1 < count 1 common) || vs.any (fun v => decide (1 < count 1 v)) ||
  vs.any (fun v => count 0x0B v != if pens then 1 else 0)

def every (n : Nat) (f : Nat → Bool) : Bool := (List.range n).all f

/-- A section whose size or reserved bytes its layout does not allow. -/
def sectBad (img : List Byte) (x : Sect) : Bool :=
  let b := bytesAt img x.off x.size
  let cores := (coresOf img x.var).length
  match x.ty with
  | 1 => false
  | 2 => x.size % 32 != 0 || !every (x.size / 32) fun i => natAt b (32 * i + 21) 1 == 0 && natAt b (32 * i + 24) 8 == 0
  | 3 =>
    x.size % 8 != 0 || (!every (x.size / 8) fun i => natAt b (8 * i + 2) 2 == 0) ||
    !every (x.size / 8 - 1) fun i => decide (natAt b (8 * i) 2 < natAt b (8 * i + 8) 2)
  | 4 => x.size != 1024 * cores
  | 5 => x.size != 12288 * cores
  | 6 => x.size != 256 * cores
  | 7 =>
    decide (x.size < 8 + 16 * natAt b 0 2) || natAt b 4 4 != 0 ||
    !every (natAt b 0 2) fun i => decide (natAt b (8 + 16 * i + 3) 1 < 2) && natAt b (8 + 16 * i + 12) 4 == 0
  | 8 =>
    x.size % 16 != 0 || decide (65536 < x.size) ||
    !every (x.size / 16) fun i => decide (natAt b (16 * i + 5) 1 < 2) && natAt b (16 * i + 12) 4 == 0
  | 9 => x.size % 8 != 0 || !every (x.size / 8) fun i => natAt b (8 * i + 3) 1 == 0
  | 0x0A =>
    x.size % 64 != 0 || !every (x.size / 64) fun i => decide (natAt b (64 * i + 52) 1 < 2) && natAt b (64 * i + 53) 11 == 0
  | 0x0B => x.size % 32 != 0 || !every (x.size / 32) fun i => natAt b (32 * i + 16) 16 == 0
  | 0x0C => x.size != 64
  | 0x0D =>
    let l := (List.range (memberCount img)).map fun i => natAt b (2 * i) 2
    x.size != 2 * memberCount img || l.any (fun a => decide (1024 ≤ a)) || (distinct l).length != l.length
  | _ => x.size != 104 || natAt b 4 4 != 0

/-- Check 2. -/
def checkFrame (img : List Byte) (len : Nat) : Option LoadErr :=
  let l := sectsOf img
  let entryBad (p : Sect × Nat) : Bool := natAt img (128 + 16 * p.2 + 3) 1 != 0 || natAt img (128 + 16 * p.2 + 12) 4 != 0
  let lastBad : Bool := match l.getLast? with | some x => x.ty != 0x0F || x.off + x.size != img.length | none => true
  if headerRanges img len then some (stBadImage, rep 2)
  else match l.zipIdx.find? entryBad, sectOrder (128 + 16 * l.length) l 0 with
    | some p, _ => some (stBadImage, rep 2 0xFFFF p.2)
    | none, some i => some (stBadImage, rep 2 0xFFFF i)
    | none, none =>
      if lastBad || scopeBad img then some (stBadImage, rep 2)
      else (l.zipIdx.find? fun p => sectBad img p.1).map fun p => (stBadImage, rep 2 0xFFFF p.2)

/-! ### Checks 3 to 7 -/

/-- Check 3: the signature under the partition's key of that identifier (R226). -/
def State.checkSig (s : State) (b : Banner) (img : List Byte) : Option LoadErr :=
  let g := sectBytes img 0x0F common
  let off := match sectIx img 0x0F common with | some (_, x) => x.off | none => 0
  let ok := match (s.part b).signKeys.find? fun k => k.2.1.toNat == natAt g 0 4 with
    | some (_, _, key) =>
      Config.ecdsaVerify key (Config.sha384 (img.take off)) (BitVec.ofNat 384 (natAt g 8 48)) (BitVec.ofNat 384 (natAt g 56 48))
    | none => false
  errIf (!ok) stSignatureFail (rep 3 0xFFFF (sectNo img 0x0F common))

/-- The variants agree in kinds, lengths, landing lengths and successors (R219). -/
def variantsAgree (img : List Byte) : Bool :=
  let shape (v : Nat) : List (Nat × Nat × Bool × Option Nat × Option Nat) × Nat :=
    ((kindsOf img v).map fun k => (k.length, k.landing, k.exitRound, k.next0, k.next1), natAt (sectBytes img 7 v) 2 2)
  match variantsOf img with
  | [] => true
  | v :: vs => vs.all fun w => shape w == shape v

/-- Check 4. -/
def State.checkVariants (s : State) (img : List Byte) : Option LoadErr :=
  let vs := variantsOf img
  let n := memberCount img
  let bad := if bitOf (natAt img 16 4) 0 then vs.length != 1 || decide (32 < n)
    else vs.isEmpty || (decide (32 < n) && vs.length != 3)
  firstErr [errIf (bad || !variantsAgree img) stBadImage (rep 4), errIf (!vs.contains s.otp.grade) stNotPermitted (rep 4)]

/-- Check 5. -/
def State.checkStep (s : State) (img : List Byte) : Option LoadErr :=
  let m := natAt img 20 1
  let beyond := (kindsOf img s.otp.grade).zipIdx.find? fun p => p.1.budgets.any fun x => decide (budgetOf m < x)
  firstErr [errIf (m == 0 || decide (maxStep s.otp.grade < m)) stNotPermitted (rep 5),
    beyond.map fun p => (stNotPermitted, rep 5 0xFFFF (sectNo img 7 s.otp.grade) p.2)]

/-- Check 6: placement of the cores. -/
def State.checkCores (s : State) (b : Banner) (img : List Byte) : Option LoadErr :=
  let l := (coresOf img s.otp.grade).zipIdx
  let no := sectNo img 3 s.otp.grade
  firstErr [
    (l.find? fun p => !s.enabled p.1.1 || !(s.part b).halls.contains (hallOf p.1.1)).map fun p =>
      (stNotPermitted, rep 6 p.1.1 no p.2),
    (l.find? fun p => s.holdsTask (hallOf p.1.1)).map fun p => (stBusy, rep 6 p.1.1 no p.2)]

def coreAllocs (img : List Byte) (v c : Nat) : List Alloc := (allocsOf img v).filter fun a => a.core == c

/-- Bytes by which a core's allocation exceeds its scratchpad. -/
def coreShortOf (img : List Byte) (v c : Nat) : Nat := ((coreAllocs img v c).map (·.length)).sum - scratchSize c

/-- Granules of a banner on stacks that are trained (R431). -/
def State.liveGranules (s : State) (b : Banner) : List Nat := (s.part b).granules.filter fun g => (s.stack (g / 33)).trained

/-- Gallery bandwidth that the tasks counted by a test hold (R311). -/
def State.granted (s : State) (p : Task → Bool) : Nat := ((s.tasks.filter fun t => t.live && p t).map (·.grant)).sum

/-- Check 7; the free gallery grant is the partition's own (R390). -/
def State.checkCapacity (s : State) (b : Banner) (img : List Byte) : Option LoadErr :=
  let v := s.otp.grade
  let short := (coresOf img v).map fun p => (p.1, coreShortOf img v p.1)
  let total := (short.map (·.2)).sum
  let worst := short.foldl (fun (a : Nat × Nat) p => if a.2 < p.2 then p else a) (0xFFFF, 0)
  let near := natAt img 28 2
  let have_ := (s.liveGranules b).length
  let gbps := natAt img 26 2
  let free := (s.part b).gallery - s.granted fun t => t.banner == b
  firstErr [
    errIf (total != 0) stNoCapacity { rep 7 worst.1 (sectNo img 2 v) with shortfall := total, coreShort := worst.2 },
    errIf (decide (have_ < near)) stNoCapacity { rep 7 with shortfall := (near - have_) * 1073741824 },
    errIf (decide (free < gbps)) stNoCapacity { rep 7 with shortfall := gbps - free }]

/-! ### Checks 8 to 10 -/

/-- An allocation entry that breaks R220 or Table 10.6. -/
def allocBad (img : List Byte) (v : Nat) (a : Alloc) : Bool :=
  let blob := a.kind == 1 || a.kind == 2
  let ref := a.kind == 3 || a.kind == 5
  decide (6 ≤ a.kind) || a.start % 256 != 0 || a.length % 256 != 0 || a.length == 0 || decide (2 ≤ a.blob) ||
  (!blob && a.blob != 0) || (!ref && (a.gref != 0 || a.layer != 0)) || (!blob && a.kind != 3 && a.source != 0) ||
  (blob && decide ((blobOf img v a).length < a.source + a.length)) || (ref && decide ((grefsOf img).length ≤ a.gref)) ||
  !((coresOf img v).any fun p => p.1 == a.core)

/-- Entries that follow each other from `at_`: where they end, or none. -/
def coverage (at_ : Nat) : List Alloc → Option Nat
  | [] => some at_
  | a :: l => if a.start = at_ then coverage (at_ + a.length) l else none

/-- Check 8. -/
def State.checkCoverage (s : State) (img : List Byte) : Option LoadErr :=
  let v := s.otp.grade
  let no := sectNo img 2 v
  firstErr [
    ((allocsOf img v).zipIdx.find? fun p => allocBad img v p.1).map fun p => (stBadImage, rep 8 p.1.core no p.2),
    ((coresOf img v).find? fun p => coverage 0 (coreAllocs img v p.1) != some (scratchSize p.1)).map fun p =>
      (stBadImage, rep 8 p.1 no)]

/-- Region entries of the i-th core. -/
def regionsOf (img : List Byte) (v i : Nat) : List (BitVec 128) :=
  let b := bytesAt (sectBytes img 4 v) (1024 * i) 1024
  (List.range 64).map fun j => BitVec.ofNat 128 (natAt b (16 * j) 16)

/-- A region entry that R73 refuses by itself. DESIGN CHOICE (log 41): an entry whose base lies beyond the scratchpad
reaches beyond it also when its size is 0. -/
def regionBad (c : Nat) (e : BitVec 128) : Bool :=
  let x := e.toNat
  decide (scratchSize c < rgnBase e + rgnSize e) || (rgnFlagged e && e.getLsbD 64) ||
  (!rgnFlagged e && (rgnGrace e != 0 || rgnInit e)) || decide (5 ≤ rgnConsumer e) || fieldOf x 111 107 != 0 ||
  fieldOf x 98 74 != 0 || fieldOf x 63 56 != 0 || fieldOf x 31 24 != 0

/-- Two enabled entries overlap. -/
def regionsMeet (a b : BitVec 128) : Bool :=
  rgnSize a != 0 && rgnSize b != 0 && decide (rgnBase a < rgnBase b + rgnSize b) && decide (rgnBase b < rgnBase a + rgnSize a)

def anyOverlap : List (BitVec 128) → Bool
  | [] => false
  | e :: l => l.any (regionsMeet e) || anyOverlap l

/-- Check 9. R73 speaks of any region table of the image, so the tables of every variant are judged, the module's own
first; the banner is that of its own. -/
def State.checkRegions (s : State) (b : Banner) (img : List Byte) : Option LoadErr :=
  let v := s.otp.grade
  let no := sectNo img 4 v
  let l := (coresOf img v).zipIdx
  firstErr <| ((v :: (variantsOf img).filter (· != v)).map fun x =>
    (((coresOf img x).zipIdx).find? fun p => (regionsOf img x p.2).any (regionBad p.1.1) || anyOverlap (regionsOf img x p.2)).map
      fun p => (stBadImage, rep 9 p.1.1 (sectNo img 4 x) p.2)) ++
    [(l.find? fun p => (regionsOf img v p.2).any fun e => rgnSize e != 0 && rgnBanner e != b.val).map fun p =>
      (stBanner, rep 9 p.1.1 no p.2)]

/-- Descriptors of the i-th core. -/
def descsOf (img : List Byte) (v i : Nat) : List (BitVec 384) :=
  let b := bytesAt (sectBytes img 5 v) (12288 * i) 12288
  (List.range 256).map fun j => BitVec.ofNat 384 (natAt b (48 * j) 48)

/-- A remote end may name a core enabled on another member's grade (R180, R482). DEDUCED (log 41): in an instance it may name
the module itself too, since Table 9.9 has a line cast name the sending module, and a line root itself. -/
def State.mapRemote (s : State) (img : List Byte) (g : Nat) : Bool :=
  let own := (memberMap img).getD (memberIndex img) 0
  (memberMap img).contains (BitVec.ofNat 10 (g / 256)) && decide (g % 256 < 160) &&
  if g / 256 = own.toNat then decide (2 ≤ memberCount img) else
  match s.gradeAt (g / 256) with
  | some gr => enabledOn gr (g % 256)
  | none => false

/-- Check 10. -/
def State.checkDescs (s : State) (img : List Byte) : Option LoadErr :=
  let v := s.otp.grade
  let cores := (coresOf img v).map (·.1)
  let bad (x : BitVec 384) : Bool :=
    let d := Desc.of x
    d.valid && d.bad [0, 1, 2, 3, 4] (fun c => s.enabled c && cores.contains c) (s.mapRemote img)
  ((coresOf img v).zipIdx.find? fun p => (descsOf img v p.2).any bad).map fun p => (stBadImage, rep 10 p.1.1 (sectNo img 5 v) p.2)

/-! ### Checks 11 to 14 -/

/-- A round kind out of range (R222). -/
def kindBad (img : List Byte) (v : Nat) (p : RoundKind × Nat) : Bool :=
  let b := sectBytes img 7 v
  let n := kindCount img v
  let k := p.1
  let beyond (x : Option Nat) : Bool := match x with | some i => decide (n ≤ i) | none => false
  k.length == 0 || k.landing == 0 || beyond k.next0 || beyond k.next1 || (!k.exitRound && k.next1.isSome) ||
  decide (b.length < natAt b (8 + 16 * p.2 + 8) 4 + 2 * k.length)

/-- A link schedule entry out of range (R223, R268, R287, R289). -/
def linkBad (img : List Byte) (v : Nat) (e : LinkEntry) : Bool :=
  let map := memberMap img
  let own := (map.getD (memberIndex img) 0).toNat
  let dst := (map.getD e.dest 0).toNat
  let mid := own / 32 * 32 + dst % 32
  (match (kindsOf img v)[e.kind]? with | some k => decide (k.length ≤ e.tread) | none => true) ||
  decide (64 ≤ e.link) || e.flits == 0 || decide (64 < e.flits) || decide (memberCount img ≤ e.dest) ||
  decide ((if e.twoHops then 125 else 251) < e.offset + e.flits) ||
  (e.twoHops && (!map.contains (BitVec.ofNat 10 mid) || own % 32 == dst % 32 || e.link != rowLink (own % 32) (dst % 32)))

/-- Two entries of one tread on one link that overlap. -/
def entriesMeet (a b : LinkEntry) : Bool :=
  a.kind == b.kind && a.tread == b.tread && a.link == b.link && decide (a.offset ≤ b.offset + b.flits) &&
  decide (b.offset ≤ a.offset + a.flits)

def anyMeet : List LinkEntry → Bool
  | [] => false
  | e :: l => l.any (entriesMeet e) || anyMeet l

/-- The words of a code entry, with their addresses. -/
def codeWords (img : List Byte) (v : Nat) (a : Alloc) : List (Nat × BitVec 128) :=
  let b := blobOf img v a
  (List.range (a.length / 16)).map fun j => (a.start + 16 * j, BitVec.ofNat 128 (natAt b (a.source + 16 * j) 16))

def codeOf (img : List Byte) (v c : Nat) : List (Nat × BitVec 128) :=
  ((coreAllocs img v c).filter fun a => a.kind == 1).flatMap (codeWords img v)

/-- An entry of a remote cast, or of a root's cast of its result, that does not name the link to its member, or crosses two hops
(R291). -/
def castBad (img : List Byte) (v i : Nat) (x : BitVec 128) : Bool :=
  let w := fieldsOf x
  let op := opcodeOf x
  let d := Desc.of ((descsOf img v i).getD (w.o1.toNat % 256) 0)
  let own := (memberMap img).getD (memberIndex img) 0
  let a : Axis := { remote := true, column := wMod w 0 0 == 1 }
  let here := if a.column then own.toNat / 32 else own.toNat % 32
  let casts := op == 0x81 || (isReduce op && wMod w 5 5 == 1 && d.hi / 256 == own.toNat)
  d.valid && d.end_ == 4 && casts &&
  ((a.positions (wImm w)).filter (· != here)).zipIdx.any fun p =>
    match (linksOf img)[xSlot w + p.2]? with
    | some e => e.twoHops || e.link != if a.column then colLink here p.1 else rowLink here p.1
    | none => true

/-- SERVING fields out of range (R225). -/
def servingBad (b : List Byte) (x : Serving) : Bool :=
  !(x.role == 1 || x.role == 2) || x.tree == 1 || decide (64 < x.tree) || x.slots == 0 || x.maxContext == 0 ||
  decide (16384 < ceilDiv ((x.maxContext - 1) * x.kvBytes) 65536) || x.blockPages == 0 || decide (16384 < x.blockPages) ||
  (if x.role == 2 then x.chunk == 0 || decide (512 < x.chunk) else x.chunk != 0) || x.kvBytes == 0 ||
  decide (1048576 < x.kvBytes) || natAt b 13 3 != 0 || !allZero (bytesAt b 28 36)

/-- Loaded serving tasks of a banner and pair. -/
def State.pairTasks (s : State) (b : Banner) (pair : BitVec 64) : List Serving :=
  (s.tasks.filter fun t => t.live && t.banner == b).filterMap fun t => t.serving.bind fun x => if x.pair = pair then some x else none

/-- Check 11. -/
def State.checkRounds (s : State) (b : Banner) (img : List Byte) (area : Option Nat) : Option LoadErr :=
  let v := s.otp.grade
  let links := linksOf img
  let no := sectNo img 8 common
  let p := s.part b
  let sno := sectNo img 0x0C common
  firstErr [
    errIf (kindCount img v == 0 || decide (256 < kindCount img v) || decide (kindCount img v ≤ natAt (sectBytes img 7 v) 2 2))
      stBadImage (rep 11 0xFFFF (sectNo img 7 v)),
    ((kindsOf img v).zipIdx.find? (kindBad img v)).map fun k => (stBadImage, rep 11 0xFFFF (sectNo img 7 v) k.2),
    (links.zipIdx.find? fun e => linkBad img v e.1).map fun e => (stBadImage, rep 11 0xFFFF no e.2),
    errIf (anyMeet links) stBadImage (rep 11 0xFFFF no),
    ((coresOf img v).zipIdx.find? fun c => (codeOf img v c.1.1).any fun x => castBad img v c.2 x.2).map fun c =>
      (stBadImage, rep 11 c.1.1 no),
    (links.zipIdx.find? fun e => !p.links.getLsbD e.1.link || (s.link e.1.link).st != .active).map fun e =>
      (stLinkUnavailable, rep 11 0xFFFF no e.2),
    errIf ((servingOf img).isSome != area.isSome) stBadImage (rep 11 0xFFFF sno),
    (servingOf img).bind fun x =>
      firstErr [errIf (servingBad (sectBytes img 0x0C common) x || (s.pairTasks b x.pair).any fun y => y.kvBytes != x.kvBytes)
          stBadImage (rep 11 0xFFFF sno),
        errIf ((s.pairTasks b x.pair).any fun y => y.role == x.role) stBusy (rep 11 0xFFFF sno)],
    errIf (match area, servingOf img with
      | some a, some x => a % 65536 != 0 || decide ((s.nearGranules b).length * granuleBytes < a + areaBytes x)
      | _, _ => false) stBadParam (rep 11)]

/-- X.REDUCEA and FP32 S.ATOMADD, which must be declared; other kinds a declaration may name (R224). -/
def mustDeclare (x : BitVec 128) : Option Nat :=
  if opcodeOf x = 0x83 then some 2 else if opcodeOf x = 0x64 ∧ bitOf (fieldsOf x).mod.toNat 2 = true then some 1 else none

def declares (kind : Nat) (x : BitVec 128) : Bool :=
  match kind with
  | 3 => opcodeOf x == 0x52
  | 4 => opcodeOf x == 0x62
  | _ => mustDeclare x == some kind

/-- Check 12. -/
def State.checkNondet (s : State) (img : List Byte) : Option LoadErr :=
  let v := s.otp.grade
  let l := nondetOf img v
  let no := sectNo img 9 v
  firstErr [
    ((coresOf img v).find? fun c => (codeOf img v c.1).any fun x => match mustDeclare x.2 with
      | some k => !l.contains (c.1, k, x.1)
      | none => false).map fun c => (stBadImage, rep 12 c.1 no),
    (l.zipIdx.find? fun e => !((codeOf img v e.1.1).any fun x => x.1 == e.1.2.2 && declares e.1.2.1 x.2)).map fun e =>
      (stBadImage, rep 12 e.1.1 no e.2)]

/-- The valid image of a digest in a slot granted to a banner. -/
def State.imageSlot (s : State) (b : Banner) (d : BitVec 384) : Option Nat :=
  (List.range 8).find? fun i => (s.slot i).grantedTo b && headerDigest (s.slot i).header == d

/-- Check 13; a key that is not held replies KEY_FAIL in place of DIGEST_FAIL (R304). -/
def State.checkGallery (s : State) (b : Banner) (img : List Byte) : Option LoadErr :=
  let v := s.otp.grade
  let l := (grefsOf img).zipIdx
  let no := sectNo img 0x0A common
  let img? (g : GRef) : Option GSlot := (s.imageSlot b g.digest).map s.slot
  let at_ (i : Nat) : LoadReport := { rep 13 0xFFFF no i with gref := i }
  firstErr [
    (l.find? fun p => (img? p.1).isNone).map fun p => (stDigestFail, at_ p.2),
    (l.find? fun p => match img? p.1 with | some g => !s.imageHeld g | none => false).map fun p => (stKeyFail, at_ p.2),
    (l.find? fun p => match img? p.1 with | some g => decide (g.layers < p.1.first + p.1.layers) | none => false).map fun p =>
      (stBadImage, at_ p.2),
    ((allocsOf img v).zipIdx.find? fun a => a.1.kind == 3 && match (grefsOf img)[a.1.gref]?.bind img? with
      | some g => decide (g.layers ≤ a.1.layer) || decide (g.layerLen a.1.layer < a.1.source + a.1.length)
      | none => true).map fun a => (stBadImage, { rep 13 a.1.core (sectNo img 2 v) a.2 with gref := a.1.gref })]

/-- Check 14. -/
def State.checkManifest (s : State) (img : List Byte) : Option LoadErr :=
  let map := memberMap img
  let present (a : BitVec 10) : Bool := match s.manifest with
    | some m => decide (a.toNat % 32 < m.columns) && match m.recs[a.toNat / 32 * m.columns + a.toNat % 32]? with
      | some x => x.present
      | none => false
    | none => false
  errIf (BitVec.ofNat 384 (natAt img 40 48) != s.manifestDigest || s.manifest.isNone || map[memberIndex img]? != s.fabAddr ||
    !map.all present) stManifestMismatch (rep 14)

/-- Checks 2 to 14 of Table 10.8, in order; check 1 has passed. -/
def State.checkImage (s : State) (b : Banner) (img : List Byte) (len : Nat) (area : Option Nat) : Option LoadErr :=
  match checkFrame img len with
  | some e => some e
  | none =>
    firstErr [s.checkSig b img, s.checkVariants img, s.checkStep img, s.checkCores b img, s.checkCapacity b img,
      s.checkCoverage img, s.checkRegions b img, s.checkDescs img, s.checkRounds b img area, s.checkNondet img,
      s.checkGallery b img, s.checkManifest img]

/-- A module in ACQUIRE joins no task (R48), nor does one that a time fault keeps out (R50); a task of several modules needs a
module locked to a beat, in CLK_MODE 0b00 or 0b11 (R286). -/
def State.lockedFor (s : State) (img : List Byte) : Bool :=
  s.clk.refState != .acquire && !s.clk.timeOut &&
  (decide (memberCount img ≤ 1) || (s.clk.onBeat && (s.rst.straps.clkMode == 0 || s.rst.straps.clkMode == 3)))

end Sys2Proof.Machine
end

