-- ==== Sys2Proof/Machine/Program.lean ====
section
/-! DEFINITION. The PROGRAM commands and the load of an instance (R227 to R230, R237, R241). -/

namespace Sys2Proof.Machine

/-! ### Replies and members -/

/-- A crash capture of the banner is being taken: every core of a task has halted and TASK_FAULT is to come (R240, R446). -/
def State.capturing (s : State) (b : Banner) : Bool :=
  s.tasks.any fun t => t.live && t.banner == b && !t.cores.isEmpty && t.cores.all fun c => (s.core c).st == .halted

/-- Send to every address but the module's own. -/
def State.sendOthers (s : State) (l : List (BitVec 10)) (m : MgmtMsg) : State :=
  { s with mgmtOut := s.mgmtOut ++ (l.filter fun a => a.toNat != s.modAddr).map fun a => (a, m) }

def leadOf (l : List (BitVec 10)) : Nat := l.foldl (fun a m => min a m.toNat) 1024

/-- Reference of the latest calibration entry: its view number for a tenant (R44, R443). -/
def State.calRef (s : State) (f : FnId) (b : Banner) : BitVec 32 :=
  match (s.diag.buf ++ s.diag.flash).find? fun e => e.kind == 9 with
  | some e => if s.isMgmt f then e.seq else BitVec.ofNat 32 (tget 0 e.views b.val)
  | none => 0

/-- Members whose report on a failed load of the lead's is still to come; what has come is done with (R230). -/
def Part.owing (p : Part) (members own : Nat) (digest : BitVec 384) (now : Nat) : Part :=
  let silent := (List.range members).filter fun m => m != own && !p.earlyLoads.any fun x => x.1 == m
  { p with lateLoads := silent.map fun m => (m, digest, now), earlyLoads := [] }

/-- The word of a load that failed on this module: to the lead, or from the lead to every member (R230). -/
def State.tellLoad (s : State) (b : Banner) (img : List Byte) (st : BitVec 16) : State :=
  let map := memberMap img
  let n := memberIndex img
  if map.length ≤ 1 then s
  else if leadOf map = s.modAddr then
    (s.sendOthers map (.loadFail b st n)).updPart b fun p => p.owing map.length n (membersDigestOf img) s.clk.treadCount
  else s.sendMgmt (BitVec.ofNat 10 (leadOf map)) (.loadReport b n st (membersDigestOf img))

/-- A load refused on this module: its reply with the load report, and the word to the others of an instance (R227, R230). -/
def State.refuseLoad (s : State) (r : CmdRef) (b : Banner) (img : List Byte) (e : LoadErr) : State :=
  (s.finish r e.1 (.loadReport none e.2 0 0)).tellLoad b img e.1

/-! ### Placing an image (R229) -/

/-- Slots of the flagged regions whose flags start full. -/
def initFlags (l : List (BitVec 128)) : List Nat :=
  (l.filter fun e => rgnSize e != 0 && rgnFlagged e && rgnInit e).foldl
    (fun fl e => (slotsOf (rgnBase e) (rgnSize e)).foldl (fun fl t => insNat t fl) fl) []

/-- Entries of a table that differ from zero. -/
def nonZero {n : Nat} (l : List (BitVec n)) : Tbl (BitVec n) := (l.zipIdx.filter fun p => p.1 != 0).map fun p => (p.2, p.1)

/-- The bytes an allocation entry writes; the rest of a cleared scratchpad is zero. -/
def State.allocBytes (s : State) (img : List Byte) (v : Nat) (grefs : List GRef) (a : Alloc) : List Byte :=
  match a.kind with
  | 1 | 2 => bytesAt (blobOf img v a) a.source a.length
  | 3 =>
    match grefs[a.gref]? with
    | some g => s.bodyRead (s.slot g.slot) ((s.slot g.slot).layerOff a.layer + a.source) a.length
    | none => []
  | _ => []

/-- One core in the order of R229: cleared, written, its tables and flags set, LOADED. -/
def State.placeCore (s : State) (img : List Byte) (loadId : Nat) (grefs : List GRef) (i : Nat) (c pc : Nat) : State :=
  let v := s.otp.grade
  let s1 := s.clearCore c
  let rgn := regionsOf img v i
  let kc := bytesAt (sectBytes img 6 v) (256 * i) 256
  let fl := natAt img 16 4
  let mem := (coreAllocs img v c).foldl (fun m a => memWrite m a.start (s.allocBytes img v grefs a)) []
  s1.setCore c { s1.core c with
    st := .loaded, loadId := some loadId, pc := BitVec.ofNat 32 (pc / 16 * 16), mem := mem, rgn := nonZero rgn, ad := nonZero (descsOf img v i), k := nonZero ((List.range 64).map fun j => BitVec.ofNat 32 (natAt kc (4 * j) 4)), flags := initFlags rgn, vflags := BitVec.ofNat 10 (b2n (bitOf fl 1) * 256 + b2n (bitOf fl 2) * 512) }

/-- The first layer of a reference that fails while it is placed (R229). -/
def State.badLayer (s : State) (grefs : List GRef) : Option (Nat × Nat) :=
  (grefs.zipIdx.flatMap fun g => (List.range g.1.layers).map fun l => (g.2, g.1.first + l)).find? fun p =>
    match grefs[p.1]? with
    | some g => !s.layerOk (s.slot g.slot) p.2
    | none => false

/-- The task an image makes. Its step is firmware's choice, from the image's minimum to the grade's highest (log 1). -/
def State.newTask (s : State) (r : CmdRef) (b : Banner) (img : List Byte) (area : Option Nat) : Task :=
  let v := s.otp.grade
  let m := natAt img 20 1
  let fl := natAt img 16 4
  let map := memberMap img
  let step := m + s.freshVal % (maxStep v - m + 1)
  { loadId := s.nextLoad, id := 0, epoch := 1, build := natAt img 32 8, banner := b,
    st := if map.length ≤ 1 || leadOf map != s.modAddr then .loaded else .loading,
    cores := (coresOf img v).map (·.1), minStep := BitVec.ofNat 3 m, step := BitVec.ofNat 3 step, member := memberIndex img,
    members := map, membersDigest := membersDigestOf img, kinds := kindsOf img v,
    firstKind := natAt (sectBytes img 7 v) 2 2, links := linksOf img,
    grefs := (grefsOf img).map fun g => { g with slot := (s.imageSlot b g.digest).getD 0 }, allocs := allocsOf img v,
    grant := natAt img 26 2, usedNow := 0,
    keyId := BitVec.ofNat 32 (natAt (sectBytes img 0x0F common) 0 4), expected := expectedOf img v, hasExpected := bitOf fl 3,
    serving := servingOf img, slotArea := area, slots := [], loadRef := some r, unloadRef := [], abortRef := [],
    loadReports := [], kind := 0, round := 0, tread := 0, landingAt := s.clk.treadCount, releaseAt := none, releaseKind := none,
    releaseEpoch := none, reports := [], unload := false, releaseSent := false, decided := none, served := false, swap := none,
    swapEarly := [], origin := none, abortSent := false, slotPos := [], fault := none }

/-- The lead of a banner's serving tasks (R365, R382). -/
def State.setLead (s : State) (t : Task) : State :=
  if t.serving.isNone then s else
  let bit : BitVec 8 := 1#8 <<< t.banner.val
  { s with strmLead := if s.isLead t then s.strmLead ||| bit else s.strmLead &&& ~~~bit, strmLeadAddr := BitVec.ofNat 10 t.leadAddr }

/-- Every member fails its load: cores cleared, the task gone, and the reply names the member that failed (R230). -/
def State.dropLoad (s : State) (t : Task) (st : BitVec 16) (member : Nat) : State :=
  let silent := (List.range t.members.length).filter fun m => m != t.member && !t.loadReports.any fun p => p.1 == m
  let s0 := if t.st != .loading then s else s.updPart t.banner fun p =>
    { p with lateLoads := silent.map fun m => (m, t.membersDigest, s.clk.treadCount) }
  let s1 := t.cores.foldl (fun s c => s.clearCore c) s0
  let s2 := { s1 with tasks := s1.tasks.filter fun x => x.loadId != t.loadId }
  s2.finishAll t.loadRef.toList st (.loadReport none { rep 15 with failedMember := member } 0 0)

/-- The lead assigns the next task identifier, with epoch 1. -/
def State.assignId (s : State) (t : Task) : State :=
  let s1 := { s with nextTask := if s.nextTask = 0xFFFFFFFF then 1 else s.nextTask + 1 }
  s1.giveId t s.nextTask 1

/-- The lead's decision once reports have come in: fail the instance at the first failure or at a member map that
differs, or go on when every member reports LOADED. -/
def State.loadProgress (s : State) (l : Nat) : State :=
  match s.findLoad l with
  | none => s
  | some t =>
    if t.st != .loading then s else
    match t.loadReports.find? fun p => p.2.1 != 0 || p.2.2 != t.membersDigest with
    | some p =>
      let st := if p.2.1 != 0 then p.2.1 else stManifestMismatch
      (s.sendMembers t (.loadFail t.banner st p.1)).dropLoad t st p.1
    | none =>
      if (List.range t.members.length).all fun m => t.loadReports.any fun p => p.1 == m then s.assignId t else s

/-- Place an image that has passed every check, then report it (R229, R230); the banner's pennant stores are discarded (R438). -/
def State.placeImage (s : State) (r : CmdRef) (b : Banner) (img : List Byte) (area : Option Nat) : State :=
  let t := s.newTask r b img area
  let early := (s.part b).earlyLoads
  let s1 := { s.tick with nextLoad := s.nextLoad + 1 }
  let s2 := t.grefs.foldl (fun s g => (List.range g.layers).foldl (fun s l =>
      let x := s.slot g.slot
      s.galCount x (x.layerOff (g.first + l)) (x.layerLen (g.first + l))) s)
    ((coresOf img s.otp.grade).zipIdx.foldl (fun s p => s.placeCore img t.loadId t.grefs p.2 p.1.1 p.1.2) s1)
  let s3 := ({ s2 with tasks := s2.tasks ++ [t] }).updPart b fun p => { p.dropPens with earlyLoads := [] }
  let s4 := s3.setLead t
  if t.members.length ≤ 1 then s4.assignId t
  else if t.st == .loading then
    (s4.updTask t.loadId fun t => { t with loadReports := early ++ [(t.member, stOk, t.membersDigest)] }).loadProgress t.loadId
  else s4.sendMgmt (BitVec.ofNat 10 t.leadAddr) (.loadReport b t.member stOk t.membersDigest)

/-! ### PROGRAM.LOAD -/

/-- Take the load up, or go on with one that waited for a crash capture (R446). -/
def State.loadBegin (s : State) (r : CmdRef) : Option (Accepted × State) :=
  match s.beginCmd r 0x0301 with
  | some p => some p
  | none =>
    if s.tasks.any (fun t => t.loadRef == some r) then none
    else (s.accepted.find? fun a => a.ref == r && a.started && a.opcode == 0x0301).map fun a => (a, s)

/-- PROGRAM.LOAD. A module held at S0 after a thermal trip refuses before the checks (R463). -/
def xProgramLoad (r : CmdRef) (image : Option (List Byte)) (s : State) : State :=
  match s.loadBegin r with
  | none => s
  | some (a, s) =>
    let b := a.banner
    if s.capturing b then s.pendOn r
    else if s.pwr.thermHold then (s.finish r stBusy (.loadReport none noCheck 0 0)).tellLoad b (image.getD []) stBusy
    else if s.shutdown then (s.finish r stNotPermitted (.loadReport none noCheck 0 0)).tellLoad b (image.getD []) stNotPermitted
    else if s.clk.calFail then
      (s.finish r stCalibration (.loadReport (some (s.calRef r.fn b)) (rep 1) 0 0)).tellLoad b (image.getD []) stCalibration
    else if !s.owns r.fn b then s.finish r stBanner (.loadReport none (rep 1) 0 0)
    else
      let s := s.pendOn r
      match image with
      | none => s.finish r stBadAddress (.loadReport none noCheck 0 0)
      | some img =>
        let n := natAt a.params 16 8
        let area := if n = 0xFFFFFFFFFFFFFFFF then none else some n
        match s.checkImage b img (natAt a.params 8 4) area with
        | some e => s.refuseLoad r b img e
        | none =>
          if !s.lockedFor img then s.refuseLoad r b img (stNotLocked, rep 14)
          else match s.badLayer (s.newTask r b img area).grefs with
            | some (g, l) =>
              let s1 := (coresOf img s.otp.grade).foldl (fun s p => s.clearCore p.1) s
              s1.refuseLoad r b img (stDigestFail, { rep 16 with gref := g, layer := l })
            | none => s.placeImage r b img area

/-- The report is one that a member still owed on a load that the lead has dropped within the last 10 s (DESIGN CHOICE,
log 44: a report names no load, so the member's first report after the drop is taken for it). -/
def Part.owed (p : Part) (now member : Nat) (digest : BitVec 384) : Bool :=
  p.lateLoads.any fun x => x.1 == member && x.2.1 == digest && decide (now < x.2.2 + 10000000)

/-- MEMBER_LOAD_REPORT at the lead; a report that comes before the lead's own load is kept, one on a load that was dropped
is discarded. -/
def xMemberLoadReport (b : Banner) (member : Nat) (st : BitVec 16) (digest : BitVec 384) (s : State) : State :=
  if (s.part b).owed s.clk.treadCount member digest then
    s.updPart b fun p => { p with lateLoads := p.lateLoads.filter fun x => x.1 != member }
  else
  match s.tasks.find? fun t => t.st == .loading && t.banner == b with
  | none => s.updPart b fun p => { p with earlyLoads := p.earlyLoads ++ [(member, st, digest)] }
  | some t =>
    (s.updTask t.loadId fun t => { t with loadReports := t.loadReports ++ [(member, st, digest)] }).loadProgress t.loadId

/-- LOAD_REPORT_TIMEOUT: 10 s after the lead's own load (R230). The manual gives no status for a member that never
reported: TASK_ABORTED (log 24). -/
def xLoadReportTimeout (b : Banner) (s : State) : State :=
  match s.tasks.find? fun t => t.st == .loading && t.banner == b with
  | none => s
  | some t =>
    if s.clk.treadCount < t.landingAt + 10000000 then s
    else
      let m := ((List.range t.members.length).find? fun m => !t.loadReports.any fun p => p.1 == m).getD 0
      (s.sendMembers t (.loadFail b stTaskAborted m)).dropLoad t stTaskAborted m

/-- LOAD_FAIL_NOTICE: a member that had passed fails its load. -/
def xLoadFailNotice (b : Banner) (st : BitVec 16) (member : Nat) (s : State) : State :=
  match s.tasks.find? fun t => t.st == .loaded && t.id == 0 && t.banner == b with
  | none => s
  | some t => s.dropLoad t st member

/-! ### ABORT, UNLOAD, STATUS -/

/-- The banner's task that a command names. -/
def State.bannerTask (s : State) (b : Banner) (task : BitVec 32) : Option Task :=
  (s.findTask task).bind fun t => if t.banner = b then some t else none

/-- PROGRAM.ABORT: every core of the task halts with 0x72 at once; the final reply follows when the task has ended. -/
def xProgramAbort (r : CmdRef) (task : BitVec 32) (s : State) : State :=
  s.cmd r 0x0302 fun a s =>
    match s.bannerTask a.banner task with
    | none => s.finish r stBadParam .none
    | some t =>
      if !t.live then s.finish r stNotPermitted .none
      else (s.updTask t.loadId fun t => { t with abortRef := t.abortRef ++ [r] }).abortTask t 0x72 0x72

/-- PROGRAM.UNLOAD: at the landing for which no release has been sent, or at once before round 0. -/
def xProgramUnload (r : CmdRef) (task : BitVec 32) (s : State) : State :=
  s.cmd r 0x0303 fun a s =>
    match s.bannerTask a.banner task with
    | none => s.finish r stBadParam .none
    | some t =>
      if !t.live then s.finish r stNotPermitted .none
      else
        let t1 := { t with unload := true, unloadRef := t.unloadRef ++ [r] }
        let s1 := s.updTask t.loadId fun _ => t1
        if t.st == .loaded then s1.endTask t1
        else if s.isLead t then s1.tryRelease t1
        else s1

/-- PROGRAM.STATUS. -/
def xProgramStatus (r : CmdRef) (task : BitVec 32) (s : State) : State :=
  s.cmd r 0x0304 fun a s =>
    match s.bannerTask a.banner task with
    | none => s.finish r stBadParam .none
    | some t => s.finish r stOk (.taskStatus t.st t.round t.epoch (match t.fault with | some f => some f | none => (s.origins t).head?))

def execProgramLoad (r : CmdRef) (image : Option (List Byte)) (s : State) : Out := .next (xProgramLoad r image s)
def execProgramAbort (r : CmdRef) (task : BitVec 32) (s : State) : Out := .next (xProgramAbort r task s)
def execProgramUnload (r : CmdRef) (task : BitVec 32) (s : State) : Out := .next (xProgramUnload r task s)
def execProgramStatus (r : CmdRef) (task : BitVec 32) (s : State) : Out := .next (xProgramStatus r task s)
def execMemberLoadReport (b : Banner) (m : Nat) (st : BitVec 16) (d : BitVec 384) (s : State) : Out :=
  .next (xMemberLoadReport b m st d s)
def execLoadReportTimeout (b : Banner) (s : State) : Out := .next (xLoadReportTimeout b s)
def execLoadFailNotice (b : Banner) (st : BitVec 16) (m : Nat) (s : State) : Out := .next (xLoadFailNotice b st m s)

end Sys2Proof.Machine
end

