-- ==== Sys2Proof/Machine/Serving.lean ====
section
/-! DEFINITION. Streams and serving (R339 to R359): pages, host commands on streams, landings of serving tasks, parking
and resuming. -/

namespace Sys2Proof.Machine

/-! ### Pages (R323, R324, R347) -/

/-- The state codes of Table 16.2. -/
def streamCode : StreamSt → Nat
  | .free => 0 | .queued => 1 | .prompting => 2 | .ready => 3 | .generating => 4 | .paused => 5 | .parked => 6
  | .done => 7 | .faulted => 8

/-- A stream table entry (Table 16.1). -/
def entryBytes (i : Nat) (e : StreamEntry) : List Byte :=
  leBytes 4 (sidOf i e).toNat ++ leBytes 1 (streamCode e.st + e.banner.val * 16) ++
  leBytes 1 (e.cls.toNat + 4 * b2n e.keep + 8 * b2n e.tree + 16 * b2n e.memory) ++ leBytes 1 e.image.toNat ++
  leBytes 1 e.pauseCause ++ leBytes 4 e.tokens.toNat ++ leBytes 4 e.context.toNat ++ leBytes 4 e.pending.toNat ++
  leBytes 4 e.location.toNat ++ leBytes 8 e.deadline.toNat ++ leBytes 4 (e.slot.getD 0xFFFF) ++ leBytes 4 e.round.toNat ++
  leBytes 8 e.seed.toNat ++ leBytes 4 e.maxTokens.toNat ++ leBytes 2 e.temperature.toNat ++ leBytes 2 e.topP.toNat ++
  leBytes 2 e.topK.toNat ++ leBytes 4 e.stop.toNat ++ leBytes 2 e.status.toNat

/-- Pages that the KV of context length L fills (R347). -/
def dataPages (x : Serving) (l : Nat) : Nat := ceilDiv ((l - 1) * x.kvBytes) 65536

/-- Pages a stream holds at context length L, in whole blocks (R347), and never more than its page list names (R324). -/
def pagesFor (x : Serving) (l : Nat) : Nat :=
  min 16384 (ceilDiv (dataPages x l) (max 1 x.blockPages) * max 1 x.blockPages)

/-- The fewest free pages of a banner on any member, as the lead knows them (R353, R355, log 45). -/
def State.leastFree (s : State) (b : Banner) : Nat :=
  (s.part b).memberPages.foldl (fun n p => min n p.2) (s.freePages b).length

/-- Every other member of the banner's instance has reported its free pages (R353). -/
def State.pagesKnown (s : State) (b : Banner) : Bool :=
  match s.servingTasks b with
  | t :: _ => (List.range (max 1 t.members.length)).all fun m => m == t.member || (s.part b).memberPages.any fun q => q.1 == m
  | [] => true

/-- `n` members of a list, each chosen by `g` among those that are left. -/
def pickFrom (g : Nat → Nat) : Nat → List Nat → List Nat
  | 0, _ => []
  | n + 1, l =>
    match l[g n % max 1 l.length]? with
    | some p => p :: pickFrom g n (l.eraseIdx (g n % max 1 l.length))
    | none => []

/-- Take `n` free pages; which ones is firmware's choice (log 1). -/
def State.takePages (s : State) (b : Banner) (n : Nat) : Option (State × List Nat) :=
  let free := s.freePages b
  if free.length < n then none else some (s.tick, pickFrom s.freshAt n free)

/-- Write a stream's page list (R324). -/
def State.writeList (s : State) (e : StreamEntry) : State :=
  match e.listPage with
  | none => s
  | some p => s.nearWrite e.banner (p * 65536)
      (e.pages.flatMap (leBytes 4) ++ List.replicate (65536 - 4 * e.pages.length) 0xFF)

/-- Bring a stream's pages to what a context length needs, with its page list; none when they do not fit. -/
def State.growPages (s : State) (i : Nat) (x : Serving) (l : Nat) : Option State :=
  let e := s.stream i
  let n := pagesFor x l - e.pages.length
  let needList := if e.listPage.isNone then 1 else 0
  if n + needList = 0 then some s
  else match s.takePages e.banner (n + needList) with
    | none => none
    | some (s1, ps) =>
      let lp := if needList = 1 then ps.head? else e.listPage
      let e1 := { e with pages := e.pages ++ ps.drop needList, listPage := lp, location := BitVec.ofNat 32 (lp.getD 0) }
      let s2 := s1.updPart e.banner fun p => { p with memberPages := p.memberPages.map fun q => (q.1, q.2 - (n + needList)) }
      some ((s2.setStream i e1).writeList e1)

/-! ### Changes of one stream -/

def State.updStream (s : State) (i : Nat) (f : StreamEntry → StreamEntry) : State := s.setStream i (f (s.stream i))

/-- A stream leaves its slots. -/
def State.leaveSlot (s : State) (i : Nat) : State :=
  let sid := sidOf i (s.stream i)
  let s1 := s.updStream i fun e => { e with slot := none, placed := 0 }
  { s1 with tasks := s1.tasks.map fun (t : Task) => { t with
      slots := t.slots.filter fun q => q.2 != sid, slotPos := t.slotPos.filter fun q => (t.slots.all fun r => r.1 != q.1 || r.2 != sid) } }

/-- Pause (R348, R354, R355). -/
def State.pauseStream (s : State) (i cause : Nat) : State :=
  ({ (s.leaveSlot i) with freeClock := s.freeClock + 1 }).updStream i fun e => { e with
    st := .paused, pauseCause := cause, pausedAt := s.freeClock + 1, deferred := 0 }

/-- The pages of a stream are freed. -/
def State.dropPages (s : State) (i : Nat) : State :=
  s.updStream i fun e => { e with pages := [], listPage := none, location := 0 }

/-- Far-tier records of a stream are deleted. -/
def State.dropRecords (s : State) (sid : BitVec 32) : State :=
  { s with far := { s.far with objs := s.far.objs.filter fun o => !(o.stream && o.owner == sid) } }

/-- A stream's memory store is no longer attached. -/
def State.detach (s : State) (sid : BitVec 32) : State :=
  { s with stores := s.stores.map fun (m : BitVec 32 × MemStore) =>
      if m.2.attached = some sid then (m.1, { m.2 with attached := none, near := false, pages := [] }) else m }

/-- DONE: slot, pages and records are freed (Table 16.3). -/
def State.doneStream (s : State) (i : Nat) : State :=
  let sid := sidOf i (s.stream i)
  (((s.leaveSlot i).dropPages i).dropRecords sid).detach sid |>.updStream i fun e => { e with
    st := .done, parkRun := false, parking := [], resumeRun := false, resuming := [], lost := none, pending := 0, buffer := [], bufPages := [], store := none }

/-- The tokens newest last, at most 1,024 (R379). -/
def pushTokens (l toks : List (BitVec 32)) : List (BitVec 32) := let a := l ++ toks; a.drop (a.length - 1024)

/-- Prompt tokens that an append makes pending: with context, the token at position L begins the prompt (R351). -/
def promptCount (e : StreamEntry) (n : Nat) : Nat :=
  e.pending.toNat + n + if 0 < e.context.toNat ∧ e.pending = 0 then 1 else 0

/-- Position of the first prompt token, and the context length once the prompt is done (R347, R351, log 26). -/
def promptBase (e : StreamEntry) : Nat := max 1 e.context.toNat
def promptEnd (e : StreamEntry) : Nat := promptBase e + e.pending.toNat

/-- The fields an append sets. The prompt of a stream with context begins with its token at position L, `last` (R351). -/
def applyAppend (e : StreamEntry) (q : AppendReq) (last : BitVec 32) : StreamEntry :=
  let first := if 0 < e.context.toNat ∧ e.pending = 0 then [last] else []
  let e1 := { e with
    cls := q.cls, keep := q.keep, tree := q.tree, memory := q.memory, maxTokens := q.maxTokens, deadline := q.deadline, seed := q.seed.getD e.seed, pending := BitVec.ofNat 32 (promptCount e q.tokens.length), buffer := e.buffer ++ first ++ q.tokens }
  match q.sampling with
  | some (t, p, k, st) => { e1 with temperature := t, topP := p, topK := k, stop := st }
  | none => e1

/-- Pages of the stream buffer that `n` tokens of a stream take, four bytes each (R351; log 26). -/
def bufPagesFor (n : Nat) : Nat := ceilDiv (4 * n) 65536

/-- Reserve the stream buffer for `n` pending tokens of a stream; none when the banner has too few free pages (R351). -/
def State.reserveBuffer (s : State) (i n : Nat) : Option State :=
  let e := s.stream i
  let k := bufPagesFor n - e.bufPages.length
  if k = 0 then some s
  else (s.takePages e.banner k).map fun p => p.1.updStream i fun e => { e with bufPages := e.bufPages ++ p.2 }

/-- Write a stream's pending tokens into its pages of the stream buffer (R351). -/
def State.writeBuffer (s : State) (i : Nat) : State :=
  let e := s.stream i
  e.bufPages.zipIdx.foldl (fun s p =>
    s.nearWrite e.banner (p.1 * 65536) (((e.buffer.drop (16384 * p.2)).take 16384).flatMap fun t => leBytes 4 t.toNat)) s

/-- A landing takes up an append. The token at position L of a stream whose tokens a reset has lost is open: a free value. -/
def State.takeAppend (s : State) (i : Nat) (q : AppendReq) : State :=
  (s.tick.updStream i fun e => applyAppend e q (e.recent.getLast?.getD (BitVec.ofNat 32 (s.freshAt 1)))).writeBuffer i

/-! ### Host commands on streams (R344, R345, R348, R382) -/

/-- This module is the lead for a banner's streams. -/
def State.leads (s : State) (b : Banner) : Bool := s.strmLead.getLsbD b.val

/-- A command on a stream id: lead, ranges, ownership and generation. -/
def State.strmCmd (s : State) (r : CmdRef) (op : Nat) (sid : Word) (act : Accepted → Nat → StreamEntry → State → State) : State :=
  s.cmd r op fun a s =>
    let i := streamOf sid
    let e := s.stream i
    let p := s.part a.banner
    if !s.leads a.banner || p.rangesDiffer then s.finish r stNotPermitted .none
    else if !p.inRange i then s.finish r stBanner .none
    else if e.gen.toNat ≠ sid.toNat / 65536 then s.finish r stNotPermitted (.streamState e.st)
    else act a i e s

def State.hold (s : State) (kind : HeldKind) (r : Option CmdRef) (sid : Word) : State :=
  { s with heldCmds := s.heldCmds ++ [{ kind := kind, ref := r, sid := sid }] }

/-- Parameters of STREAM.APPEND. -/
def appendReq (p : List Byte) (tokens : List Word) : AppendReq :=
  let f := natAt p 6 1
  { cls := BitVec.ofNat 2 (natAt p 4 1), keep := bitOf (natAt p 4 1) 2, tree := bitOf (natAt p 4 1) 3, memory := bitOf (natAt p 4 1) 4,
    maxTokens := BitVec.ofNat 32 (natAt p 12 4), deadline := BitVec.ofNat 64 (natAt p 24 8),
    seed := if bitOf f 0 then some (BitVec.ofNat 64 (natAt p 16 8)) else none,
    sampling := if bitOf f 1 then some (BitVec.ofNat 16 (natAt p 32 2), BitVec.ofNat 16 (natAt p 34 2),
      BitVec.ofNat 16 (natAt p 36 2), BitVec.ofNat 32 (natAt p 38 4)) else none,
    tokens := tokens }

/-- Values outside their ranges: the count, top_p in (0, 1], top_k at most 256 (Table 16.1). -/
def appendBad (p : List Byte) : Bool :=
  let n := natAt p 8 4
  n == 0 || decide (65536 < n) ||
  (bitOf (natAt p 6 1) 1 && (natAt p 34 2 == 0 || decide (0x3F80 < natAt p 34 2) || decide (256 < natAt p 36 2)))

/-- The FREE entry of a range that became FREE first (R345). -/
def State.oldestFree (s : State) (p : Part) : Option Nat :=
  let l := (List.range (p.rangeCount * 4096)).map (p.rangeBase * 4096 + ·)
  (l.filter fun i => (s.stream i).st == .free).foldl (fun best i => match best with
    | none => some i
    | some j => if (s.stream i).freedAt < (s.stream j).freedAt then some i else best) none

/-- Tokens of appends that wait for a landing. -/
def State.heldTokens (s : State) (sid : Word) : Nat :=
  ((s.heldCmds.filter fun h => h.sid == sid).map fun h => match h.kind with | .append q => q.tokens.length | _ => 0).sum

/-- The model of a stream is resident in a task (R314); a task without gallery references holds its model itself. -/
def State.resident (s : State) (t : Task) (e : StreamEntry) : Bool :=
  t.grefs.isEmpty || t.grefs.any fun g => (s.slot g.slot).model == e.model

/-- A task serves a stream: its model is resident, and the stream has no pair yet, or the task is of its pair, or no
task of that pair is loaded any longer (R225, R314, log 44). -/
def State.serves (s : State) (t : Task) (e : StreamEntry) : Bool :=
  let pairOf (t : Task) : Option (BitVec 64) := t.serving.map (·.pair)
  s.resident t e &&
  (e.pair.isNone || pairOf t == e.pair || !(s.servingTasks t.banner).any fun y => pairOf y == e.pair)

/-- The context limit of the decode task that serves a stream (R225, R347). -/
def State.maxContext (s : State) (b : Banner) (e : StreamEntry) : Option Nat :=
  ((s.servingTasks b).filterMap fun t => t.serving.bind fun x =>
    if x.role = 1 ∧ s.serves t e = true then some x.maxContext else none).head?

/-- Appended tokens in a stream's buffer: all but the one at position L. -/
def StreamEntry.appended (e : StreamEntry) : Nat := e.buffer.length - if 0 < e.context.toNat then 1 else 0

/-- Capacity of an append: the 65,536 tokens of a sequence (R351) and the largest context (R347). -/
def State.appendShort (s : State) (b : Banner) (sid : Word) (e : StreamEntry) (n : Nat) : Option Nat :=
  let all := s.heldTokens sid + n
  let pend := promptCount e all
  if 65536 < e.appended + all then some (e.appended + all - 65536)
  else match s.maxContext b e with
    | some m => if m < e.context.toNat + pend then some (e.context.toNat + pend - m) else none
    | none => none

/-- An append with its seed: one of the enclave's random words where the command gives none (R361). -/
def State.seeded (s : State) (q : AppendReq) : State × AppendReq :=
  match q.seed with
  | some _ => (s, q)
  | none => (s.tick, { q with seed := some ((Config.enclaveRandom s.fresh).setWidth 64) })

/-- STREAM.APPEND creating a stream: QUEUED on the lead at once. Sampling fields that the command does not give have no value in
the manual (log 1). -/
def State.createStream (s : State) (r : CmdRef) (b : Banner) (p : List Byte) (q : AppendReq) : State :=
  match s.oldestFree (s.part b) with
  | none => s.finish r stNoCapacity (.shortfall 1)
  | some i =>
    let e := s.stream i
    let free (k w : Nat) : BitVec w := BitVec.ofNat w (s.freshAt k)
    let smp := q.sampling.getD (free 1 16, free 2 16, free 3 16, free 4 32)
    let q1 := (s.seeded q).2
    let e1 := applyAppend { StreamEntry.reset with gen := e.gen, freedAt := e.freedAt, st := .queued, banner := b, image := BitVec.ofNat 3 (natAt p 5 1), model := (s.slot (natAt p 5 1 % 8)).model }
      { q1 with sampling := some smp } 0
    match s.appendShort b (sidOf i e) { e with image := e1.image, model := e1.model } q.tokens.length,
        (s.tick.setStream i e1).reserveBuffer i q.tokens.length with
    | some n, _ => s.finish r stNoCapacity (.shortfall n)
    | none, none => s.finish r stNoCapacity (.shortfall (bufPagesFor q.tokens.length))
    | none, some s1 => s1.finish r stOk (.append (sidOf i e) e1.seed .queued)

/-- The appends of Table 16.3, and those to a stream whose park is running (Table 16.6). -/
def mayAppend (e : StreamEntry) : Bool := e.st == .ready || e.st == .paused || e.st == .generating

/-- STREAM.APPEND. -/
def xStreamAppend (r : CmdRef) (indirect : Option (List Word)) (s : State) : State :=
  if s.rst.blockStrm then s else
  s.cmd r 0x0501 fun a s =>
    let p := a.params
    let n := natAt p 8 4
    let toks := if bitOf (natAt p 6 1) 2 then indirect
      else some ((List.range n).map fun j => BitVec.ofNat 32 (natAt p (64 + 4 * j) 4))
    let sid := BitVec.ofNat 32 (natAt p 0 4)
    let i := streamOf sid
    let e := s.stream i
    let pt := s.part a.banner
    if !s.leads a.banner then s.finish r stNotPermitted .none
    else if appendBad p then s.finish r stBadParam .none
    else if pt.rangesDiffer || s.shutdown then s.finish r stNotPermitted .none
    else match toks with
    | none => s.finish r stBadAddress .none
    | some toks =>
      let q := appendReq p (toks.take n)
      if sid = 0xFFFFFFFF then s.createStream r a.banner p q
      else if !pt.inRange i then s.finish r stBanner .none
      else if e.gen.toNat ≠ sid.toNat / 65536 ∨ mayAppend e = false ∨ s.heldCmds.any (fun h => h.sid == sid && h.kind == .end_) then
        s.finish r stNotPermitted (.streamState e.st)
      else
        let need := promptCount e (s.heldTokens sid + n)
        match s.appendShort a.banner sid e n, s.reserveBuffer i need with
        | some k, _ => s.finish r stNoCapacity (.shortfall k)
        | none, none => s.finish r stNoCapacity (.shortfall (bufPagesFor need - e.bufPages.length))
        | none, some s1 =>
          let (s2, q1) := s1.seeded q
          ((s2.updStream i fun e => { e with status := stOk }).hold (.append q1) none sid).finish r stOk
            (.append sid (q1.seed.getD e.seed) e.st)

/-- STREAM.PAUSE, RESUME and END wait for a landing when Table 16.3 allows them; RESUME and END of a PARKED stream need its
far-tier records, and are BUSY while the far tier is not ready (R431). -/
def xStreamPause (r : CmdRef) (sid : Word) (s : State) : State :=
  s.strmCmd r 0x0502 sid fun _ _ e s =>
    if e.st == .ready || e.st == .generating then s.hold .pause (some r) sid else s.finish r stNotPermitted (.streamState e.st)

def xStreamResume (r : CmdRef) (sid : Word) (s : State) : State :=
  s.strmCmd r 0x0503 sid fun _ _ e s =>
    if e.st == .parked && !s.far.ready then s.finish r stBusy (.streamState e.st)
    else if e.st == .paused || e.st == .parked then s.hold .resume (some r) sid else s.finish r stNotPermitted (.streamState e.st)

def xStreamEnd (r : CmdRef) (sid : Word) (s : State) : State :=
  s.strmCmd r 0x0504 sid fun _ _ e s =>
    if e.st == .parked && !s.far.ready then s.finish r stBusy (.streamState e.st)
    else if e.st == .free || e.st == .done then s.finish r stNotPermitted (.streamState e.st) else s.hold .end_ (some r) sid

/-- Commands held for a stream whose entry is freed name a generation that is gone: NOT_PERMITTED (R345). -/
def State.refuseHeld (s : State) (sid : Word) : State :=
  s.finishAll ((s.heldCmds.filter fun (h : HeldCmd) => h.sid == sid).filterMap fun (h : HeldCmd) => h.ref) stNotPermitted .none

/-- STREAM.FREE (R345, Table 16.6). -/
def xStreamFree (r : CmdRef) (sid : Word) (s : State) : State :=
  if s.rst.blockStrm then s else
  s.strmCmd r 0x0505 sid fun _ i e s =>
    if e.st == .done || e.st == .faulted then ((((s.refuseHeld sid).dropRecords sid).detach sid).freeEntry i).finish r stOk .none
    else if e.st == .free then s.finish r stNotPermitted (.streamState e.st)
    else s.finish r stBusy (.streamState e.st)

/-- STREAM.QUERY: the entry, and the kept tokens from a position on, as many as a reply of 4,096 bytes holds (R375); the newest is at
position L. -/
def xStreamQuery (r : CmdRef) (sid : Word) (position : Nat) (s : State) : State :=
  s.strmCmd r 0x0506 sid fun _ _ e s =>
    let first := e.context.toNat + 1 - e.recent.length
    s.finish r stOk (.streamEntry e ((e.recent.drop (position - first)).take 1004))

/-! ### Landing, step 1: output records (R350, Table 16.5) -/

/-- What a landing learned of one stream. -/
structure StreamOut where
  index : Nat
  tokens : List (BitVec 32)
  position : Nat
  stop : Bool
  maxed : Bool
  deferred : Bool
  deriving DecidableEq, Repr, Inhabited

/-- Read as firmware does: corrected units are counted and repaired; none where a unit is uncorrectable (R332). -/
def State.fwRead (s : State) (b : Banner) (o n : Nat) : State × Option (List Byte) :=
  let (s1, ue) := s.nearCheck b o n
  (s1, if ue.isNone then some (s1.nearRead b o n) else none)

/-- The output record of slot k; one that cannot be read counts as a record of count 0 (log 26). -/
def State.outRecord (s : State) (t : Task) (x : Serving) (k : Nat) : State × List Byte :=
  let (s1, d) := s.fwRead t.banner (t.slotArea.getD 0 + 64 + 64 * x.slots + 256 * k) 256
  (s1, d.getD (zeros 256))

def recTokens (d : List Byte) : List (BitVec 32) := (List.range (min 63 (natAt d 0 2))).map fun j => BitVec.ofNat 32 (natAt d (4 + 4 * j) 4)

/-- A decode slot's record. -/
def State.decodeOut (s : State) (t : Task) (x : Serving) (k : Nat) (sid : BitVec 32) : State × Option StreamOut :=
  let i := streamOf sid
  let e := s.stream i
  if e.st != .generating || sidOf i e != sid then (s, none) else
  let (s, d) := s.outRecord t x k
  let toks := recTokens d
  let n := toks.length
  let fl := natAt d 2 1
  let defer := bitOf fl 1 && n == 0
  let e1 := { e with
    context := e.context + BitVec.ofNat 32 n, tokens := e.tokens + BitVec.ofNat 32 n, recent := pushTokens e.recent toks, round := BitVec.ofNat 32 t.round, deferred := if defer then e.deferred + 1 else 0 }
  let stop := n != 0 && bitOf fl 0
  let maxed := n != 0 && (bitOf fl 2 || (e1.maxTokens != 0 && decide (e1.maxTokens.toNat ≤ e1.tokens.toNat)))
  let s1 := s.setStream i e1
  let s2 :=
    if stop || maxed then
      if e1.keep then ((((s1.growPages i x e1.context.toNat).getD s1).leaveSlot i).updStream i fun e => { e with st := .ready })
      else s1.doneStream i
    else if e1.deferred = 16 then s1.pauseStream i 1
    else match s1.growPages i x e1.context.toNat with
      | some s2 => s2
      | none => s1.pauseStream i 4
  (s2, some { index := i, tokens := toks, position := e.context.toNat + 1, stop := stop, maxed := maxed, deferred := defer })

/-- Chunk slots of a stream. -/
def Task.slotsOf (t : Task) (sid : BitVec 32) : List Nat := (t.slots.filter fun q => q.2 == sid).map (·.1)

/-- A prompting stream's records: with its last chunk placed and a token sampled it is READY; otherwise the slots of
finished chunks are free again, and the last chunk keeps its slot. -/
def State.promptOut (s : State) (t : Task) (x : Serving) (sid : BitVec 32) : State × Option StreamOut :=
  let i := streamOf sid
  let e := s.stream i
  if e.st != .prompting || sidOf i e != sid then (s, none) else
  let ks := t.slotsOf sid
  let all := decide (e.pending.toNat ≤ e.placed)
  let (s, recs) := if all then ks.foldl (fun (p : State × List (List (BitVec 32))) k =>
      let (s1, d) := p.1.outRecord t x k
      (s1, p.2 ++ [recTokens d])) (s, []) else (s, [])
  let s0 := s.updStream i fun e => { e with round := BitVec.ofNat 32 t.round }
  match recs.find? (fun l => !l.isEmpty) with
  | some toks =>
    let tok := toks.take 1
    let l := promptEnd e
    let s1 := (s0.leaveSlot i).updStream i fun e => { e with
      st := .ready, context := BitVec.ofNat 32 l, pending := 0, buffer := [], bufPages := [], placed := 0, tokens := e.tokens + 1, recent := pushTokens e.recent tok }
    (s1, some { index := i, tokens := tok, position := l, stop := false, maxed := false, deferred := false })
  | none =>
    let last := ks.getLast?
    (s0.updTask t.loadId fun t => { t with slots := t.slots.filter fun q => q.2 != sid || (all && some q.1 == last) }, none)

/-- Step 1. -/
def State.applyOutputs (s : State) (t : Task) (x : Serving) : State × List StreamOut :=
  let step (p : State × List StreamOut) (r : State × Option StreamOut) : State × List StreamOut := (r.1, p.2 ++ r.2.toList)
  if x.role = 1 then t.slots.foldl (fun p q => step p (p.1.decodeOut t x q.1 q.2)) (s, [])
  else ((distinct (t.slots.map fun q => q.2.toNat)).map fun v => BitVec.ofNat 32 v).foldl (fun p sid => step p (p.1.promptOut t x sid)) (s, [])

/-! ### Parks and resumes (R339, R340, R355) -/

def State.ownMember (s : State) (b : Banner) : Nat := match s.servingTasks b with | t :: _ => t.member | [] => 0
def State.memberTotal (s : State) (b : Banner) : Nat := match s.servingTasks b with | t :: _ => max 1 t.members.length | [] => 1

def allMembers (n : Nat) (l : List Nat) : Bool := (List.range n).all l.contains

/-- Final replies of the RESUME commands held for a stream. -/
def State.endResumes (s : State) (sid : BitVec 32) (st : BitVec 16) (p : CmdRef → Payload) : State :=
  let isIt (h : HeldCmd) : Bool := h.sid == sid && h.kind == HeldKind.resume
  let refs := (s.heldCmds.filter isIt).filterMap fun (h : HeldCmd) => h.ref
  let s1 := if refs.isEmpty then s else s.updStream (streamOf sid) fun e => { e with status := st }
  refs.foldl (fun s r => s.finish r st (p r)) { s1 with heldCmds := s1.heldCmds.filter fun (h : HeldCmd) => !isIt h }

/-- Reference of the latest entry that names a stream's loss, as a function reads it (R340, R375). -/
def State.lossRef (s : State) (f : FnId) (b : Banner) (sid : BitVec 32) : BitVec 32 :=
  match (s.diag.buf ++ s.diag.flash).find? fun x => x.kind == 8 && x.subject == sid.toNat with
  | some x => (s.entryFor f b.val x).seq
  | none => 0

/-- A stream becomes FAULTED: INTERNAL, with the member and record of its loss (R340, R359). -/
def State.faultStream (s : State) (i member record : Nat) : State :=
  let e := s.stream i
  let sid := sidOf i e
  ((s.leaveSlot i).updStream i fun e => { e with
    st := .faulted, status := stInternal, lost := none, parkRun := false, resumeRun := false }).endResumes sid stInternal
      fun r => .badRecord (s.lossRef r.fn e.banner sid) member record

/-- What a landing applies of parks and resumes that have completed on every member, of records that were unreadable, and of
losses that a reset of this module has left to report (Table 16.3, R359). The pages of a resume that was refused are free again. -/
def State.settleStream (s : State) (b : Banner) (i : Nat) : State :=
  let e := s.stream i
  let sid := sidOf i e
  let n := s.memberTotal b
  if e.banner != b || e.st == .free || e.st == .done then s
  else match e.lost with
  | some (m, rec_) =>
    if e.st = .faulted then
      (s.logEvent 2 8 sid.toNat (some b) [s.ownMember b, 0] stInternal).updStream i fun e => { e with status := stInternal, lost := none }
    else s.faultStream i m rec_
  | none =>
    if e.st = .parked && !e.resumeRun && (!e.pages.isEmpty || e.listPage.isSome) then
      (s.dropPages i).updStream i fun x => { x with location := e.location }
    else if e.parkRun && allMembers n e.parking then
      let ix := match s.far.objs.find? fun o => o.stream && o.owner == sid && o.complete with | some o => o.index | none => 0
      (s.dropPages i).updStream i fun e => { e with st := .parked, parkRun := false, parking := [], location := BitVec.ofNat 32 ix }
    else if e.resumeRun && allMembers n e.resuming then
      (((s.dropRecords sid).updStream i fun e => { e with
        st := if e.pending = 0 then .ready else .queued, resumeRun := false, resuming := [], location := BitVec.ofNat 32 (e.listPage.getD 0), pauseCause := 0 }).endResumes
          sid stOk (fun _ => .streamState (if e.pending = 0 then .ready else .queued)))
    else s

/-- A stream with pages, on a member that has lost its near tier: FAULTED, and logged with the member (R359, Table 20.6). -/
def State.faultLost (s : State) (m i : Nat) : State :=
  let e := s.stream i
  let sid := sidOf i e
  if e.st == .free || e.st == .done || e.st == .faulted || (e.pages.isEmpty && e.listPage.isNone) then s
  else (s.logEvent 2 8 sid.toNat (some e.banner) [m, 0] stInternal).faultStream i m 0

/-- Members that have lost their near tier since the last landing: their streams become FAULTED everywhere, and every entry is
sent again (R359, R346). -/
def State.takeLosses (s : State) (b : Banner) : State :=
  let p := s.part b
  match p.lostMembers with
  | [] => s
  | m :: _ =>
    let s1 := ((s.streams.filter fun q => q.2.banner == b).map (·.1)).foldl (fun s i => s.faultLost m i) s
    ({ s1 with streams := s1.streams.map fun (q : Nat × StreamEntry) =>
        (q.1, if p.inRange q.1 then { q.2 with sent := none } else q.2) }).updPart b fun p => { p with lostMembers := [], nearLost := false }

/-- The park-complete object of a stream. -/
def State.parkedObj (s : State) (sid : BitVec 32) : Option FarObj := s.far.objs.find? fun o => o.stream && o.owner == sid && o.complete

/-- Pages kept free for the watermark. -/
def State.lowPages (s : State) : Nat := s.parkLow * 16384

/-- Begin a resume at a landing: the key held, and pages that fit above the watermark (R340, R353). -/
def State.beginResume (s : State) (i : Nat) (x : Serving) : State :=
  let e := s.stream i
  let sid := sidOf i e
  if e.st != .parked || e.resumeRun then s
  else match s.parkedObj sid with
    | none => s
    | some o =>
      if !s.farKeyHeld o.banner o.keyId then s.endResumes sid stKeyFail fun _ => .none
      else if !s.pagesKnown e.banner || decide (s.leastFree e.banner < s.lowPages + pagesFor x e.context.toNat + 1) then s
      else match s.growPages i x e.context.toNat with
        | some s1 => s1.updStream i fun e1 => { e1 with resumeRun := true, resuming := [], location := e.location }
        | none => s

/-- Far-tier bytes of a banner: 64 KiB records (R334). -/
def State.farUsed (s : State) (b : Banner) : Nat :=
  ((s.far.objs.filter fun o => o.banner == b).map fun o => (o.recs.length + b2n o.complete) * 65536).sum

/-- A park may start: write key, far tier running, and space in the namespace. -/
def State.mayPark (s : State) (b : Banner) (e : StreamEntry) : Bool :=
  (s.writeKeyOf b).isSome && s.far.ready && !s.shutdown &&
  decide (s.farUsed b + (e.pages.length + 2) * 65536 ≤ (s.part b).ns * 1073741824)

/-- Streams in the order in which they are parked: pressure first, then the higher class number, then the longest
paused (R355). -/
def parkBefore (a b : Nat × StreamEntry) : Bool :=
  let p (e : StreamEntry) : Nat := if e.pauseCause = 4 then 0 else 1
  if p a.2 ≠ p b.2 then decide (p a.2 < p b.2)
  else if a.2.cls ≠ b.2.cls then decide (b.2.cls.toNat < a.2.cls.toNat)
  else decide (a.2.pausedAt ≤ b.2.pausedAt)

/-- Deadline order: 0 is the latest. -/
def dueOf (e : StreamEntry) : Nat := if e.deadline = 0 then 18446744073709551616 else e.deadline.toNat

/-- Admission order (R352). -/
def admitBefore (a b : Nat × StreamEntry) : Bool :=
  if a.2.cls ≠ b.2.cls then decide (a.2.cls.toNat < b.2.cls.toNat)
  else if dueOf a.2 ≠ dueOf b.2 then decide (dueOf a.2 < dueOf b.2)
  else decide (a.1 ≤ b.1)

/-- Parks run from the moment a member's free pages fall below the lower mark, or a QUEUED stream's pages do not fit
(R353), until every member has the upper mark free. -/
def State.parkTurn (s : State) (b : Banner) (short : Bool) : State :=
  let free := s.leastFree b
  s.updPart b fun p => { p with parkMode := (p.parkMode || short || decide (free < s.lowPages)) && decide (free < s.parkHigh * 16384) }

/-- Start parks until the free pages, with those on their way out, reach the upper mark. At a decode landing READY
streams are paused for pressure when the PAUSED ones do not suffice. -/
def State.startParks (s : State) (b : Banner) (decode : Bool) : State :=
  if !(s.part b).parkMode then s else
  let leaving := ((s.streams.filter fun p => p.2.banner == b && p.2.parkRun).map fun p => p.2.pages.length + 1).sum
  let high := s.parkHigh * 16384
  let paused := sortBy parkBefore (s.streams.filter fun p => p.2.banner == b && p.2.st == .paused && !p.2.parkRun)
  let ready := if decode then (sortBy admitBefore (s.streams.filter fun p => p.2.banner == b && p.2.st == .ready)).reverse else []
  let (s1, _) := (paused ++ ready).foldl (fun (p : State × Nat) q =>
    if high ≤ p.2 || !p.1.mayPark b q.2 then p
    else
      let s0 := if q.2.st = .ready then p.1.pauseStream q.1 4 else p.1
      (s0.updStream q.1 fun e => { e with parkRun := true, parking := [] }, p.2 + q.2.pages.length + 1))
    (s, s.leastFree b + leaving)
  s1

/-- Records with these sequence numbers reach the far tier: the journal holds the newest ones, at most 256 MiB, unless
the hold-up is low (R336, R338). -/
def Far.wrote (f : Far) (seqs : List Nat) : Far :=
  let all := f.jrn ++ seqs
  let f1 := { f with written := f.written + 65536 * seqs.length, nextSeq := f.nextSeq + seqs.length }
  if f.holdupLow then f1
  else
    let n := min 268435456 (f.journal + 65536 * seqs.length)
    { f1 with journal := n, jrn := all.drop (all.length - ceilDiv n 65536) }

/-- The data of a group's records. -/
def FarObj.pages (o : FarObj) : List (List Byte) := o.recs.map (·.data)

/-- An unreadable record of a stream, or one that fails its tag: counted where it was unreadable, logged with its member and
record, FAULTED at the lead's next landing (R335, R340). -/
def State.loseRecord (s : State) (i member record : Nat) (far : Bool) : State :=
  let e := s.stream i
  let s1 := if far then { s with far := { s.far with ue := s.far.ue + 1 } } else s
  (s1.updStream i fun e => { e with lost := some (member, record), parkRun := false, resumeRun := false }).logEvent
    2 8 (sidOf i e).toNat (some e.banner) [member, record] stInternal

/-- Threshold retries of a read (R335). -/
def retriesOf : MediaResult → Nat
  | .ok n => n
  | .unreadable n _ => n
  | .keyFail => 0

/-- The stream an id names. -/
def State.liveStream (s : State) (sid : Word) : Option (Nat × StreamEntry) :=
  let e := s.stream (streamOf sid)
  if sidOf (streamOf sid) e = sid ∧ e.st ≠ .free then some (streamOf sid, e) else none

/-- A scheduled request of the banner waits at a stack. -/
def State.nearWaits (s : State) (n : Nat) (b : Banner) : Bool :=
  s.cores.any fun (p : Nat × Core) => s.coreBanner p.1 == b && p.2.elems.any fun e => e.stage == .nearReq &&
    match (p.2.sq.find? fun i => i.tag.ord == e.ord).bind (nearSide · e) with
    | some (o, _) => (s.nearAt b o).any fun q => stackOf q.1 == n
    | none => false

/-- Firmware may move pages of a banner: it holds entries on their stacks' wheels, and none of its scheduled requests waits
there (R329). -/
def State.fwMoves (s : State) (b : Banner) (ps : List Nat) : Bool :=
  ps.all fun p => match s.nearAt b (p * 65536) with
    | some (g, _) => wheelShare (s.stack (stackOf g)) b != 0 && !(s.stack (stackOf g)).resetBusy && !s.nearWaits (stackOf g) b
    | none => true

/-- Read pages as firmware does; the index of the first that cannot be read. -/
def State.readPages (s : State) (b : Banner) (ps : List Nat) : State × List (List Byte) × Option Nat :=
  ps.zipIdx.foldl (fun (q : State × List (List Byte) × Option Nat) p =>
    let (s1, d) := q.1.fwRead b (p.1 * 65536) 65536
    (s1, q.2.1 ++ [d.getD []], if d.isNone && q.2.2.isNone then some p.2 else q.2.2)) (s, [], none)

/-- A member's own result goes to the lead. -/
def State.tellLead (s : State) (b : Banner) (m : MgmtMsg) : State :=
  if s.leads b then s
  else match s.servingTasks b with
    | t :: _ => s.sendMgmt (BitVec.ofNat 10 t.leadAddr) m
    | [] => s

/-- The pages a park copies: those up to the committed context length, and the page list (R339). -/
def State.parkPages (s : State) (e : StreamEntry) : List Nat :=
  let n := match (s.servingTasks e.banner).head?.bind (·.serving) with
    | some x => dataPages x e.context.toNat
    | none => e.pages.length
  e.pages.take n ++ e.listPage.toList

/-- The records of a park, its park-complete record last (R339); they take the place of any left from an earlier park. -/
def State.archive (s : State) (sid : Word) (e : StreamEntry) (key : BitVec 32) (d : List (List Byte)) : State :=
  let base := s.far.nextIndex
  let seq := s.far.nextSeq
  let o : FarObj := { banner := e.banner, stream := true, owner := sid, keyId := key, complete := true, index := base + d.length,
                      doneSeq := seq + d.length, context := e.context.toNat, recs := [],
                      entry := some e.toStreamFields }
  let o1 := { o with
    recs := d.zipIdx.map fun p => s.seal o (base + p.2) (seq + p.2) p.1,
    last := some (s.seal o (base + d.length) (seq + d.length) (entryBytes (streamOf sid) e)) }
  let f := s.far.wrote ((List.range (d.length + 1)).map (seq + ·))
  let keep := f.objs.filter fun o => !(o.stream && o.owner == sid)
  { s with far := { f with
      objs := keep ++ [o1], nextIndex := base + d.length + 1, parkWait := f.parkWait.filter fun w => w != sid } }

/-- The journal has room for `n` records; more than it can ever hold pass when it is empty (R336, log 27). -/
def Far.room (f : Far) (n : Nat) : Bool := f.holdupLow || f.journal == 0 || decide (f.journal + n * 65536 ≤ 268435456)

/-- PARK_COMPLETE: the park-complete record of a member is acknowledged, or a near-tier page could not be read. The
module's own park moves the pages: it waits for the banner's wheel entries (R329) and for room in the journal (R336), and is
reported to the lead. -/
def xParkComplete (sid : Word) (member : Nat) (res : MediaResult) (s : State) : State :=
  if s.rst.blockStrm then s else
  match s.liveStream sid with
  | none => s
  | some (i, e) =>
    if !e.parkRun then s
    else
      let own := member == s.ownMember e.banner
      let lose (s : State) (n : Nat) : State :=
        (if own then s.tellLead e.banner (.parkDone sid member (.unreadable 0 n)) else s).loseRecord i member n false
      match res with
      | .unreadable _ n => lose s n
      | .keyFail => s
      | .ok _ =>
        let done (s : State) : State := s.updStream i fun e => { e with parking := insNat member e.parking }
        if !own || e.parking.contains member then done s
        else match s.writeKeyOf e.banner with
          | none => s
          | some key =>
            let ps := s.parkPages e
            if !s.fwMoves e.banner ps then s
            else if !s.far.room (ps.length + 1) then { s with far := { s.far with parkWait := sid :: s.far.parkWait.filter fun w => w != sid } }
            else
              let (s1, d, bad) := s.readPages e.banner ps
              match bad with
              | some n => lose s1 n
              | none => done ((s1.archive sid e key d).tellLead e.banner (.parkDone sid member (.ok 0)))

/-- The records of a group with its park-complete record. -/
def FarObj.all (o : FarObj) : List FarRec := o.recs ++ o.last.toList

/-- A resume that a member refuses for want of the key: the records are kept, the command replies KEY_FAIL, and the new pages are
free again at the next landing (R334). -/
def State.refuseResume (s : State) (i : Nat) (sid : Word) : State :=
  (s.updStream i fun e => { e with resumeRun := false, resuming := [] }).endResumes sid stKeyFail fun _ => .none

/-- RESUME_COMPLETE: a member has read the records back into its new pages, or met one it could not read or that fails its
tag, or does not hold their key. The module's own resume writes the pages; their list was written at the landing (R325). -/
def xResumeComplete (sid : Word) (member : Nat) (res : MediaResult) (s : State) : State :=
  if s.rst.blockStrm then s else
  match s.liveStream sid with
  | none => s
  | some (i, e) =>
    if !e.resumeRun then s
    else
      let own := member == s.ownMember e.banner
      let read (s : State) : State := { s with far := { s.far with retry := s.far.retry + retriesOf res } }
      let lose (s : State) (n : Nat) (far : Bool) : State :=
        (if own then s.tellLead e.banner (.resumeDone sid member (.unreadable 0 n)) else s).loseRecord i member n far
      let refuse (s : State) : State :=
        if s.leads e.banner then s.refuseResume i sid else if own then s.tellLead e.banner (.resumeDone sid member .keyFail) else s
      match res with
      | .unreadable _ n => if own then lose (read s) n true else lose s n false
      | .keyFail => refuse s
      | .ok _ =>
        let done (s : State) : State := s.updStream i fun e => { e with resuming := insNat member e.resuming }
        if !own || e.resuming.contains member then done s
        else if !s.fwMoves e.banner (e.pages ++ e.listPage.toList) then s
        else match s.parkedObj sid with
          | none => done (read s)
          | some o =>
            if !s.farKeyHeld o.banner o.keyId then refuse s else
            match o.all.find? fun r => !s.recOk o r with
            | some r => lose (read s) r.index false
            | none =>
              let s1 := (e.pages.zip (o.pages.take (o.pages.length - 1))).foldl
                (fun s p => s.nearWrite e.banner (p.1 * 65536) p.2) (read s)
              done (s1.tellLead e.banner (.resumeDone sid member (.ok 0)))

/-! ### Landing, step 2: held commands (R33, Table 16.6) -/

/-- The records of a memory store: one for each entry, under the entry's number (log 27). -/
def FarObj.ofStore (o : FarObj) (b : Banner) (store : BitVec 32) : Bool := !o.stream && o.banner == b && o.owner == store
def State.storeObjs (s : State) (b : Banner) (store : BitVec 32) : List FarObj := s.far.objs.filter fun o => o.ofStore b store

/-- Candidate sets of 4,096 entries that a store fills (R362). -/
def storeSets (l : List FarObj) : Nat := max 1 (ceilDiv (l.foldl (fun n o => max n (o.index + 1)) 0) 4096)

/-- The candidate sets that a serving task of the banner scores for a memory slot, at most (R225, R362). -/
def State.memSets (s : State) (b : Banner) : Nat :=
  (s.servingTasks b).foldl (fun n t => match t.serving with | some x => max n x.memSets | none => n) 0

/-- The bytes of a store in the near tier: whole candidate sets, each entry as long as the longest, and zero beyond what the
store holds (R362; log 27). -/
def storeBytes (l : List FarObj) : List Byte :=
  let len := l.foldl (fun n o => o.recs.foldl (fun n r => max n r.data.length) n) 0
  (List.range (4096 * storeSets l)).flatMap fun j =>
    let d := ((l.find? fun o => o.index == j).map fun o => o.pages.flatten).getD []
    (d ++ zeros (len - d.length)).take len

/-- Move a store into near-tier pages; none when they do not fit (R329, R362). -/
def State.storeIn (s : State) (b : Banner) (store : BitVec 32) (l : List FarObj) : Option (State × List Nat) :=
  let d := storeBytes l
  (s.takePages b (ceilDiv d.length 65536)).map fun p =>
    (p.2.zipIdx.foldl (fun s q => s.nearWrite b (q.1 * 65536) ((d.drop (65536 * q.2)).take 65536)) p.1, p.2)

/-- STREAM.END overtakes what its stream still holds from before: those commands end, and appended tokens are discarded
(Table 16.6). -/
def State.endEarlier (s : State) (h : HeldCmd) : State :=
  let mine (y : HeldCmd) : Bool := y.sid == h.sid && y.kind != h.kind
  let early := (s.heldCmds.takeWhile fun y => y != h).filter mine
  (early.filterMap fun (y : HeldCmd) => y.ref).foldl (fun s r => s.finish r stNotPermitted (.streamState .done))
    { s with heldCmds := s.heldCmds.filter fun y => !early.contains y }

/-- Apply one held command at a landing of a task of the given role; true when it stays held. -/
def State.applyHeld (s : State) (x : Serving) (h : HeldCmd) : State × Bool :=
  let i := streamOf h.sid
  let e := s.stream i
  let decode := x.role == 1
  let reply (s : State) (st : BitVec 16) (p : Payload) : State :=
    (s.updStream i fun e => { e with status := st }).finishAll h.ref.toList st p
  if sidOf i e ≠ h.sid then (s.finishAll h.ref.toList stNotPermitted .none, false)
  else match h.kind with
  | .append q =>
    match e.st with
    | .generating =>
      if decode then (((s.leaveSlot i).takeAppend i q).updStream i fun e => { e with st := .queued }, false) else (s, true)
    | .ready | .paused =>
      if e.parkRun then (s.takeAppend i q, false)
      else if decode then (s, true)
      else ((s.takeAppend i q).updStream i fun e => { e with st := .queued, pauseCause := 0 }, false)
    | .parked | .queued => (s.takeAppend i q, false)
    | _ => (s, false)
  | .pause =>
    match e.st with
    | .generating | .ready =>
      if decode then (reply (s.pauseStream i 2) stOk (.streamState .paused), false) else (s, true)
    | st => (reply s stNotPermitted (.streamState st), false)
  | .resume =>
    match e.st with
    | .paused =>
      if e.parkRun || !decode then (s, true)
      else
        let st := if e.pending = 0 then StreamSt.ready else StreamSt.queued
        (reply (s.updStream i fun e => { e with st := st, pauseCause := 0 }) stOk (.streamState st), false)
    | .parked => (s, true)
    | st => (reply s stNotPermitted (.streamState st), false)
  | .end_ =>
    if e.st == .free || e.st == .done then (reply s stNotPermitted (.streamState e.st), false)
    else (reply (((s.endResumes h.sid stNotPermitted fun _ => .streamState .done).endEarlier h).doneStream i) stOk (.streamState .done), false)
  | .attach store =>
    match s.stores.find? fun m => m.1 == store && m.2.banner == e.banner with
    | none => (reply s stNotPermitted .none, false)
    | some (_, m) =>
      let l := s.storeObjs e.banner store
      if m.attached.isSome && m.attached != some h.sid then (reply s stBusy .none, false)
      else if !(l.all fun o => s.farKeyHeld e.banner o.keyId) then (reply s stKeyFail .none, false)
      else if e.st == .free || e.st == .done || e.st == .faulted then (reply s stNotPermitted (.streamState e.st), false)
      else if s.memSets e.banner < storeSets l then (reply s stNoCapacity (.shortfall (storeSets l - s.memSets e.banner)), false)
      else match l.find? fun o => o.recs.any fun r => !s.recOk o r with
      | some o =>
        let s1 := s.logEvent 2 8 store.toNat (some e.banner) [s.ownMember e.banner, o.index] stInternal
        (h.ref.toList.foldl (fun s r => s.finish r stInternal (.badRecord (s1.newRef r.fn e.banner) (s.ownMember e.banner) o.index))
          (s1.updStream i fun e => { e with status := stInternal }), false)
      | none =>
        if m.attached.isSome then (reply s stOk .none, false) else
        if !s.far.ready then (s, true) else
        match s.storeIn e.banner store l with
        | none => (s, true)
        | some (s1, ps) =>
          let s2 := { s1 with stores := s1.stores.map fun (y : BitVec 32 × MemStore) =>
            if y.1 = store ∧ y.2.banner = e.banner then (y.1, { y.2 with attached := some h.sid, near := true, pages := ps }) else y }
          (reply (s2.updStream i fun e => { e with store := some store }) stOk .none, false)

/-- Step 2: in order of arrival; a command behind one of the same stream that stays held stays as well, but for STREAM.END, which
the next landing of either task applies (Table 16.3). -/
def State.applyAllHeld (s : State) (t : Task) (x : Serving) : State :=
  s.heldCmds.foldl (fun (s : State) h =>
    if !(s.heldCmds.any fun y => y == h) then s
    else if (s.stream (streamOf h.sid)).banner != t.banner then s
    else if !s.serves t (s.stream (streamOf h.sid)) then s
    else if h.kind != .end_ && (s.heldCmds.takeWhile fun y => y != h).any (fun y => y.sid == h.sid) then s
    else
      let (s1, keep) := s.applyHeld x h
      if keep then s1 else { s1 with heldCmds := remFirst (fun y => y == h) s1.heldCmds }) s

/-! ### Steps 3 and 4: pauses and admission (R352 to R354) -/

/-- Free slots of a task. -/
def State.freeSlotsOf (s : State) (l : Nat) (x : Serving) : List Nat :=
  match s.findLoad l with
  | some t => (List.range x.slots).filter fun k => !(t.slots.any fun q => q.1 == k)
  | none => []

/-- Streams that may take a decode slot of a task that serves them: READY, or paused for latency, or for a replaced model
that is back (R314, R354). -/
def State.decodeEligible (s : State) (t : Task) (e : StreamEntry) : Bool :=
  e.banner == t.banner && !e.parkRun && s.serves t e &&
  (e.st == .ready || (e.st == .paused && (e.pauseCause == 1 || e.pauseCause == 3)))

/-- The old model of a replace swap that waits (R314). -/
def State.oldModel (s : State) (t : Task) (e : StreamEntry) : Bool :=
  match t.swap with
  | some w => w.replace && e.model == (s.slot w.oldSlot).model
  | none => false

/-- Put a stream into a decode slot. -/
def State.giveSlot (s : State) (l i k : Nat) : State :=
  let sid := sidOf i (s.stream i)
  (s.updTask l fun t => { t with slots := tset t.slots k sid }).updStream i fun e => { e with
    st := .generating, slot := some k, pauseCause := 0 }

/-- A deadline that falls before the end of the coming round is missed without a slot in it (R354, log 26). -/
def pressing (now len : Nat) (e : StreamEntry) : Bool := e.deadline != 0 && decide (e.deadline.toNat ≤ now + len)

/-- The GENERATING stream that a pressing stream displaces: highest class number above its own, latest deadline,
highest index. -/
def State.victim (s : State) (t : Task) (e : StreamEntry) : Option Nat :=
  let l := s.streams.filter fun p => p.2.banner == t.banner && p.2.st == .generating && p.2.slot.isSome && s.serves t p.2 &&
    decide (e.cls.toNat < p.2.cls.toNat)
  ((sortBy admitBefore l).getLast?).map (·.1)

/-- Step 3: while no slot is free, pressing streams displace others. `banned` are the streams that this landing has paused for their
deferrals (R364). -/
def State.pausePolicy (s : State) (t : Task) (x : Serving) (len : Nat) (banned : List Nat) : State :=
  let s0 := (s.streams.filter fun p => p.2.banner == t.banner && p.2.st == .generating && s.serves t p.2 && s.oldModel t p.2).foldl
    (fun s p => s.pauseStream p.1 3) s
  let elig := sortBy admitBefore (s0.streams.filter fun p => s0.decodeEligible t p.2 && !s0.oldModel t p.2 && !banned.contains p.1)
  if !(s0.freeSlotsOf t.loadId x).isEmpty then s0 else
  (elig.filter fun p => pressing s.clk.treadCount len p.2).foldl (fun s p =>
    match s.victim t p.2 with
    | none => s
    | some v =>
      match (s.stream v).slot with
      | some k => (s.pauseStream v 1).giveSlot t.loadId p.1 k
      | none => s) s0

/-- Step 4 of a decode landing: free slots, lowest first, go to eligible streams in admission order. -/
def State.fillDecode (s : State) (t : Task) (x : Serving) (banned : List Nat) : State :=
  let elig := (sortBy admitBefore (s.streams.filter fun p => s.decodeEligible t p.2 && !s.oldModel t p.2)).filter fun p => !banned.contains p.1
  (elig.zip (s.freeSlotsOf t.loadId x)).foldl (fun s p => s.giveSlot t.loadId p.1.1 p.2) s

/-- The run of free slots that begins with the lowest free one. -/
def firstRun : List Nat → List Nat
  | [] => []
  | [k] => [k]
  | k :: m :: l => if m = k + 1 then k :: firstRun (m :: l) else [k]

/-- Give a prompting stream consecutive chunk slots for its next chunks (R351). -/
def State.giveChunks (s : State) (l i : Nat) (x : Serving) : State :=
  let e := s.stream i
  let sid := sidOf i e
  let chunk := max 1 x.chunk
  let n := ceilDiv (e.pending.toNat - e.placed) chunk
  let ks := (firstRun (s.freeSlotsOf l x)).take n
  if ks.isEmpty then s else
  let s1 := s.updTask l fun t => ks.zipIdx.foldl (fun (t : Task) (p : Nat × Nat) =>
    { t with slots := tset t.slots p.1 sid, slotPos := tset t.slotPos p.1 (promptBase e + e.placed + chunk * p.2) }) t
  s1.updStream i fun e => { e with placed := min e.pending.toNat (e.placed + chunk * ks.length), slot := ks.head? }

/-- Step 4 of a prompt landing: chunks of streams under way, then admission of QUEUED streams whose pages fit on every member
(R353); true when the pages of one did not fit. -/
def State.fillPrompt (s : State) (t : Task) (x : Serving) : State × Bool :=
  let going := sortBy admitBefore (s.streams.filter fun p =>
    p.2.banner == t.banner && p.2.st == .prompting && s.serves t p.2 && decide (p.2.placed < p.2.pending.toNat))
  let s1 := going.foldl (fun s p => s.giveChunks t.loadId p.1 x) s
  if (s.part t.banner).promptHold || !s.pagesKnown t.banner then (s1, false) else
  let queued := sortBy admitBefore (s1.streams.filter fun p => p.2.banner == t.banner && p.2.st == .queued && s1.serves t p.2)
  queued.foldl (fun (q : State × Bool) p =>
    let (s, short) := q
    let e := s.stream p.1
    let need := pagesFor x (e.pending.toNat + 1) + if e.listPage.isNone then 1 else 0
    if (s.freeSlotsOf t.loadId x).isEmpty then q
    else if s.leastFree t.banner < need + s.lowPages then (s, true)
    else match s.growPages p.1 x (promptEnd e) with
      | some s1 => ((s1.updStream p.1 fun e => { e with
          st := .prompting, placed := 0, pair := some x.pair }).writeBuffer p.1 |>.giveChunks t.loadId p.1 x, short)
      | none => (s, true)) (s1, false)

/-! ### Step 5: the slot area and the stream events (R349, R380) -/

/-- The slot record of Table 16.4. -/
def slotRecord (x : Serving) (e : StreamEntry) (sid : BitVec 32) (isNew : Bool) (pos : Nat) : List Byte :=
  let left := if e.maxTokens = 0 then 0 else e.maxTokens.toNat - e.tokens.toNat
  leBytes 4 sid.toNat ++ leBytes 1 (1 + 2 * b2n isNew + 4 * b2n (e.tree && x.tree != 0) + 8 * b2n e.memory) ++ [0] ++ leBytes 2 e.topK.toNat ++
  leBytes 4 pos ++ leBytes 4 (e.listPage.getD 0) ++ leBytes 8 e.seed.toNat ++ leBytes 2 e.temperature.toNat ++
  leBytes 2 e.topP.toNat ++ leBytes 4 e.stop.toNat ++ leBytes 4 left ++ zeros 28

/-- Write the header and the slot records of a task's slot area for the coming round. -/
def State.writeArea (s : State) (l : Nat) (x : Serving) (old : Tbl (BitVec 32)) : State :=
  match s.findLoad l with
  | none => s
  | some t =>
    let head := leBytes 8 (t.round + 1) ++ leBytes 4 (t.releaseEpoch.getD t.epoch).toNat ++ leBytes 2 x.slots ++ leBytes 2 t.slots.length ++ zeros 48
    let recs := (List.range x.slots).flatMap fun k =>
      match t.slots.find? fun q => q.1 == k with
      | none => zeros 64
      | some (_, sid) =>
        let e := s.stream (streamOf sid)
        let pos := if x.role = 1 then e.context.toNat else tget 0 t.slotPos k
        slotRecord x e sid (!(old.any fun q => q.1 == k && q.2 == sid)) pos
    s.nearWrite t.banner (t.slotArea.getD 0) (head ++ recs)

/-- One stream event for every stream of the banner whose tokens or state changed (R380); a stream that a reset has made FAULTED is
among them at the landing that reports it (R359). -/
def State.streamEvents (s : State) (b : Banner) (before : Tbl StreamEntry) (outs : List StreamOut) : State :=
  s.streams.foldl (fun s p =>
    let old := tget StreamEntry.reset before p.1
    let o := outs.find? fun o => o.index == p.1
    let toks := match o with | some o => o.tokens | none => []
    let fl := match o with | some o => (o.stop, o.maxed, o.deferred, o.position) | none => (false, false, false, p.2.context.toNat)
    if p.2.banner != b || (toks.isEmpty && old.st == p.2.st && !(p.2.st == .faulted && old.lost.isSome)) then s
    else s.postEvent b (.stream (sidOf p.1 p.2) toks fl.1 fl.2.1 fl.2.2.1 (old.st != p.2.st) p.2.st (BitVec.ofNat 32 fl.2.2.2)
      (if p.2.st = .faulted then p.2.status else stOk))) s

/-- Stream entries that the members do not hold as they are: what the lead sends them (R346, R352). -/
def State.unsentStreams (s : State) (b : Banner) : List (Nat × StreamFields) :=
  (s.streams.filter fun p => (s.part b).inRange p.1 && p.2.sent != some p.2.toStreamFields).map fun p => (p.1, p.2.toStreamFields)

/-- Step 5: the changes go to every member. -/
def State.sendTurn (s : State) (l : Nat) : State :=
  match s.findLoad l with
  | none => s
  | some t =>
    let ch := s.unsentStreams t.banner
    let s1 := ch.foldl (fun s c => s.updStream c.1 fun e => { e with sent := some c.2 }) s
    s1.sendMembers t (.servingChanges { task := t.id, epoch := t.epoch, changes := ch, slots := t.slots, slotPos := t.slotPos } t.round)

/-- Parked streams that would take a decode slot were they READY, all but those that a host paused: for as many as there are
free slots, in the admission order of them and the eligible streams (R354, R355). -/
def State.parkedWanted (s : State) (t : Task) (x : Serving) : List Nat :=
  let may (e : StreamEntry) : Bool :=
    s.decodeEligible t e || (e.banner == t.banner && e.st == .parked && e.pauseCause != 2 && s.serves t e)
  let order := sortBy admitBefore (s.streams.filter fun p => may p.2 && !s.oldModel t p.2)
  ((order.take (s.freeSlotsOf t.loadId x).length).filter fun p => p.2.st == .parked).map (·.1)

/-- The steps of R352 at the lead. -/
def State.serve (s : State) (t : Task) (x : Serving) : State :=
  let len := match t.kinds[t.kind]? with | some k => k.length + k.landing | none => 1
  let decode := x.role == 1
  let (s1, outs) := s.applyOutputs t x
  let s2 := ((s1.streams.map (·.1)).foldl (fun s i => s.settleStream t.banner i) s1).takeLosses t.banner
  let s3 := s2.applyAllHeld t x
  let want := s3.streams.filter fun p => p.2.banner == t.banner && p.2.st == .parked && s3.serves t p.2 &&
    (p.2.pending != 0 || s3.heldCmds.any fun h => h.sid == sidOf p.1 p.2 && h.kind == .resume)
  let s4 := (want.map (·.1) ++ if decode then s3.parkedWanted t x else []).foldl (fun s i => s.beginResume i x) s3
  let banned := (outs.filter (·.deferred)).map (·.index)
  let (s5, short) := if decode then
      let off := banned.filter fun i => (s4.stream i).st == .paused
      ((s4.pausePolicy t x len off).fillDecode t x off, false)
    else s4.fillPrompt t x
  let s6 := (s5.parkTurn t.banner short).startParks t.banner decode
  let s7 := s6.writeArea t.loadId x t.slots
  (s7.sendTurn t.loadId).streamEvents t.banner s.streams outs

/-- A member's entry follows the lead's (R346): its own location and status stay its own, and its pages and records are
allocated and freed as the new state asks (Table 16.3, R339, R340). -/
def State.followEntry (s : State) (x : Serving) (i : Nat) (f : StreamFields) : State :=
  let old := s.stream i
  let s0 := if old.gen = f.gen then s else s.dropRecords (sidOf i old)
  let s1 := s0.setStream i (if old.gen = f.gen then { old with toStreamFields := f } else { StreamEntry.reset with toStreamFields := f })
  let sid := sidOf i (s1.stream i)
  let grow (l : Nat) : State := (s1.growPages i x l).getD s1
  match f.st with
  | .free => (s1.dropRecords sid).dropPages i
  | .done => (s1.dropRecords sid).dropPages i
  | .prompting => grow (promptEnd (s1.stream i))
  | .parked =>
    if f.resumeRun then (if old.resumeRun then s1 else grow f.context.toNat)
    else
      let ix := match s1.parkedObj sid with | some o => o.index | none => 0
      (s1.dropPages i).updStream i fun e => { e with location := BitVec.ofNat 32 ix }
  | .faulted => s1.updStream i fun e => if old.st = .faulted then e else { e with status := stInternal, lost := none }
  | _ =>
    if old.st = .parked then (s1.dropRecords sid).updStream i fun e => { e with location := BitVec.ofNat 32 (e.listPage.getD 0) }
    else if f.st = .generating then grow f.context.toNat
    else s1

/-- A member's loss has been taken up by the lead. -/
def State.clearLoss (s : State) (b : Banner) : State :=
  if (s.part b).nearLost then s.updPart b fun p => { p with nearLost := false } else s

/-- A round of the task has not landed without abort: the abort has an origin or was sent, or a core has halted (R341, R350). -/
def State.aborting (s : State) (t : Task) : Bool :=
  t.origin.isSome || t.abortSent || t.cores.any fun c => (s.core c).st == .halted

/-- Firmware may start its bursts in a banner's near-tier space: at every stack of its granules (R329; log 26). -/
def State.fwLands (s : State) (b : Banner) : Bool :=
  s.fwMoves b ((List.range (s.nearGranules b).length).map (· * 16384))

/-- SERVING_LANDING, while SC1 has write access to the stream table (Table 19.3), the round has landed without abort and
firmware may move data of the banner: the lead's steps, after which the landing may be released; another member takes the lead's changes, writes
its slot area and reports ready. -/
def xServingLanding (turn : ServingTurn) (s : State) : State :=
  match s.findTask turn.task with
  | none => s.discardMgmt
  | some t =>
    match t.serving with
    | none => s
    | some x =>
      if t.live && !s.isLead t && t.epoch != turn.epoch then s.epochAbort t
      else if t.st != .landing || t.served || !s.rst.scRunning.contains 1 || s.rst.blockStrm || s.aborting t || !s.fwLands t.banner then s
      else
        let s1 := if s.isLead t then s.serve t x
          else ((turn.changes.foldl (fun s c => s.followEntry x c.1 c.2) s).updTask t.loadId fun t => { t with
            slots := turn.slots, slotPos := turn.slotPos }).writeArea t.loadId x t.slots |>.clearLoss t.banner
        let s2 := s1.updTask t.loadId fun t => { t with served := true }
        match s2.findLoad t.loadId with
        | none => s2
        | some t2 =>
          if s.isLead t then s2.tryRelease t2
          else s2.sendMgmt (BitVec.ofNat 10 t.leadAddr) (.landingReport t.id t.epoch (s2.ownReport t2))

def execStreamAppend (r : CmdRef) (l : Option (List Word)) (s : State) : Out := .next (xStreamAppend r l s)
def execStreamPause (r : CmdRef) (sid : Word) (s : State) : Out := .next (xStreamPause r sid s)
def execStreamResume (r : CmdRef) (sid : Word) (s : State) : Out := .next (xStreamResume r sid s)
def execStreamEnd (r : CmdRef) (sid : Word) (s : State) : Out := .next (xStreamEnd r sid s)
def execStreamFree (r : CmdRef) (sid : Word) (s : State) : Out := .next (xStreamFree r sid s)
def execStreamQuery (r : CmdRef) (sid : Word) (p : Nat) (s : State) : Out := .next (xStreamQuery r sid p s)
def execServingLanding (turn : ServingTurn) (s : State) : Out := .next (xServingLanding turn s)
def execParkComplete (sid : Word) (m : Nat) (r : MediaResult) (s : State) : Out := .next (xParkComplete sid m r s)
def execResumeComplete (sid : Word) (m : Nat) (r : MediaResult) (s : State) : Out := .next (xResumeComplete sid m r s)

end Sys2Proof.Machine
end

