-- ==== Sys2Proof/Machine/Counters.lean ====
section
/-! DEFINITION. The RC counters and each function's view of them (R406, R475), and what a tenant may see. -/

namespace Sys2Proof.Machine

/-- Banners of a function as a Bool. -/
def State.ownsIdx (s : State) (f : FnId) (b : Nat) : Bool := (s.bannersOf f).contains b

/-- A tenant's view applies: not the management attachment, and the filter is on (R475). -/
def State.filtered (s : State) (f : FnId) : Bool := !s.isMgmt f && s.sec.tenantFilter

def State.ownHall (s : State) (f : FnId) (h : Nat) : Bool := (s.hall h).assigned && s.ownsIdx f (s.hall h).banner.val
def State.ownLink (s : State) (f : FnId) (l : Nat) : Bool := match s.linkOwner l with | some b => s.ownsIdx f b.val | none => false

/-- Banners that hold granules of a stack. -/
def State.stackOwners (s : State) (n : Nat) : List Nat :=
  (List.range 8).filter fun b => (s.part b).valid && (s.part b).granules.any fun g => stackOf g == n

def State.ownStack (s : State) (f : FnId) (n : Nat) : Bool := (s.stackOwners n).any (s.ownsIdx f)
def State.sharedStack (s : State) (n : Nat) : Bool := decide (1 < (s.stackOwners n).length)

/-- The events a counter has met since the reset that reached its block. A tenant sees the corrected units of a shared
stack as they stood at the last second (R405). -/
def State.rcRaw (s : State) (f : FnId) (r : RcReg) : Nat :=
  match r with
  | .linkFecCorr l => (s.link l.val).fecCorr
  | .linkFecUncorr l => (s.link l.val).fecUncorr
  | .linkAuthFail l => (s.link l.val).authFail
  | .linkReplay l => (s.link l.val).replayed
  | .linkDup l => (s.link l.val).dup
  | .linkLate l => (s.link l.val).late
  | .nearLoad n => (s.stack n.val).lastUnits
  | .nearCe n => if s.filtered f && s.sharedStack n.val then (s.stack n.val).ceShown else (s.stack n.val).ce
  | .nearUe n => (s.stack n.val).ue
  | .galCe => s.gal.ce
  | .galUe => s.gal.ue
  | .farRetry => s.far.retry
  | .farUe => s.far.ue
  | .cmdEvLost g => (s.fn g.val).evLost

/-- Who may read a counter: tenants those of their own links and of the stacks where they hold granules, on a shared stack the
corrected units only, and their own CMD block (R280, R319, R332, R343, R405, R475). -/
def State.rcGranted (s : State) (f : FnId) (r : RcReg) : Bool :=
  match r with
  | .cmdEvLost g => g == f
  | .linkFecCorr l | .linkFecUncorr l | .linkAuthFail l | .linkReplay l | .linkDup l | .linkLate l =>
    !s.filtered f || s.ownLink f l.val
  | .nearCe n => !s.filtered f || s.ownStack f n.val
  | .nearLoad n | .nearUe n => !s.filtered f || (s.ownStack f n.val && !s.sharedStack n.val)
  | _ => !s.filtered f

def rcBaseOf (l : List (RcReg × Nat)) (r : RcReg) : Nat :=
  match l.find? fun p => p.1 == r with
  | some p => p.2
  | none => 0

/-- NEAR_LOAD in a function's view: the largest count since its previous read, and the last tread's (Table 15.4). -/
def State.nearLoadWord (s : State) (f : FnId) (n : Nat) : Nat :=
  let t := s.stack n
  min 65535 (tget 0 t.hwm f.val) * 65536 + (if t.lastRead.contains f.val then 0 else min 65535 t.lastUnits)

/-- A counter in a function's view: events since its own previous read, saturating at 2^32 - 1 (R406, R475). -/
def State.rcView (s : State) (f : FnId) (r : RcReg) : Nat :=
  match r with
  | .nearLoad n => s.nearLoadWord f n.val
  | _ => min 4294967295 (s.rcRaw f r - rcBaseOf (s.fn f.val).rcBase r)

/-- A read clears the function's own view and no other. -/
def State.rcClear (s : State) (f : FnId) (r : RcReg) : State :=
  match r with
  | .nearLoad n =>
    let t := s.stack n.val
    s.setStack n.val { t with
      hwm := tset t.hwm f.val 0, lastRead := insNat f.val t.lastRead, beyond := t.beyond.filter fun g => g != f.val }
  | _ => s.setFn f.val { s.fn f.val with rcBase := (r, s.rcRaw f r) :: (s.fn f.val).rcBase.filter fun p => p.1 != r }

/-- RC_COUNTER_READ. -/
def xRcCounterRead (f : FnId) (r : RcReg) (s : State) : State :=
  if s.rcGranted f r then (s.rcClear f r).setFn f.val { (s.rcClear f r).fn f.val with readData := BitVec.ofNat 64 (s.rcView f r) }
  else s.setFn f.val { s.fn f.val with readData := 0 }

def execRcCounterRead (f : FnId) (r : RcReg) (s : State) : Out := .next (xRcCounterRead f r s)

end Sys2Proof.Machine
end

