-- ==== Sys2Proof/Machine/HostCmds.lean ====
section
/-! DEFINITION. The MODULE, MEMORY, FABRIC, DIAG and TIME commands (Table 17.7), and the flush of the journal (R336). -/

namespace Sys2Proof.Machine

/-! ### MODULE -/

/-- MODULE.IDENTIFY. -/
def xModuleIdentify (r : CmdRef) (s : State) : State :=
  s.cmd r 0x0101 fun _ s => s.finish r stOk (.identify s.otp.serial s.otp.grade s.fw.compat s.fw.version s.fabAddr
    s.rst.straps.clkMode s.rst.straps.bootSrc s.rst.straps.mgmtPortSel)

/-- Hall power that a function may see, in units of 0.1 W (R405). -/
def State.powerSeen (s : State) (f : FnId) : Nat :=
  ((s.halls.filter fun h => !s.filtered f || s.ownHall f h.1).map fun h => h.2.power.toNat).sum

/-- The hottest logic-die sensor as a function may see it (R472). -/
def State.tempSeen (s : State) (f : FnId) : BitVec 16 := if s.filtered f then s.pwr.tMaxTenant else s.pwr.tMax

/-- The sensors of Table 21.6 as a function may see them, and as PLDM Platform Monitoring (R385) reads them over the sideband: a
tenant learns the die temperature alone (R405, Table 18.10). -/
def State.sensorsSeen (s : State) (f : FnId) : Option ThermalReadings := if s.filtered f then none else s.pwr.sample

/-- MODULE.STATUS. -/
def xModuleStatus (r : CmdRef) (s : State) : State :=
  s.cmd r 0x0102 fun _ s =>
    s.finish r stOk (.status s.rst.isReady s.rst.recovery s.rst.step.toNat (s.powerSeen r.fn) (s.tempSeen r.fn).toInt (s.sensorsSeen r.fn))

/-- MODULE.EVENTS (R379); the sideband has no events (R387). -/
def xModuleEvents (r : CmdRef) (q : QueueId) (s : State) : State :=
  s.cmd r 0x0103 fun _ s =>
    if r.fn.val = 4 then s.finish r stNotPermitted .none
    else (s.setFn r.fn.val { s.fn r.fn.val with eventQ := some q }).finish r stOk .none

/-- MODULE.RESET: the reset follows the reply. -/
def xModuleReset (r : CmdRef) (s : State) : State :=
  s.cmd r 0x0104 fun _ s => (s.finish r stOk .none).askReset .warm causeCmd 0 false

/-- MODULE.SHUTDOWN (Table 15.1): posted near-tier writes are drained, the journal is flushed, and new far-tier writes
are refused. -/
def xModuleShutdown (r : CmdRef) (s : State) : State :=
  s.cmd r 0x0105 fun _ s =>
    if s.tasks.any Task.live then s.finish r stBusy .none
    else
      let waiting := s.far.waiting.map (·.1)
      let s1 := s.drainAll
      let s2 := { s1 with far := { s1.far with journal := 0, jrn := [], waiting := [] }, shutdown := true }
      (s2.finishAll waiting stNotPermitted .none).finish r stOk .none

/-- The effective cap (R457); a voltage that has not been measured yet limits nothing. -/
def State.effCap (s : State) (module vIn10mV : Nat) : Nat :=
  let cool := if s.pwr.flowWarn || s.pwr.inletWarn then 1800 else 2400
  let byIn := if vIn10mV = 0 then module else 60 * vIn10mV / 100
  min module (min cool byIn)

/-- MODULE.POWER_POLICY (R455). -/
def xModulePowerPolicy (r : CmdRef) (s : State) : State :=
  s.cmd r 0x0106 fun a s =>
    let p := a.params
    let cm := natAt p 0 2
    let scale := natAt p 4 2
    let share (b : Nat) : Nat := natAt p (6 + b) 1
    let fits (b : Nat) : Bool := if (s.part b).valid then share b == (s.part b).power else share b == 0
    if cm < 1000 ∨ 2400 < cm ∨ scale = 0 ∨ 10000 < scale ∨ ((List.range 8).any fun b => decide (100 < share b)) = true then s.finish r stBadParam .none
    else if !((List.range 8).all fits) then s.finish r stNotPermitted .none
    else
      let on := bitOf (natAt p 2 1) 0
      let s1 := { s with settings := { s.settings with capModule := cm }, pwr := { s.pwr with
        capModule := cm, sensing := on, flowScale := scale, flowWarn := s.pwr.flowWarn && on, inletWarn := s.pwr.inletWarn && on } }
      s1.finish r stOk (.cap (s1.effCap cm s.pwr.vIn.toNat))

/-- MODULE.FW_STAGE: the inactive slot by DMA (R385, R396). -/
def xModuleFwStage (r : CmdRef) (img : Option FwImage) (s : State) : State :=
  s.cmd r 0x0107 fun _ s =>
    let s := s.pendOn r
    match img with
    | none => s.finish r stBadAddress .none
    | some x => (s.stage x).1.finish r (s.stage x).2 .none

/-- The defaults of Table 19.5 as a copy of the option block. -/
def defaultBlock : List Byte :=
  let size (p : Nat × Nat) : List Byte := leBytes 4 p.1 ++ leBytes 4 p.2
  leBytes 4 0x54504F4B ++ leBytes 2 1 ++ zeros 6 ++ [0x0C, 0x0C, 0, 0, 0xD0, 0] ++ leBytes 2 500 ++ leBytes 2 2000 ++ zeros 10 ++
  size (0x100000, 0x2000000) ++ size (0x2100000, 0x2000000) ++ size (0x4100000, 0x1000000) ++ leBytes 4 0x5100000 ++
  size (0x5900000, 0x100000) ++ zeros 4028

/-- A copy of the option block with another sequence and fw_select, and its CRC-32 (R429). -/
def optWrite (c : List Byte) (seq : Nat) (slotB : Bool) : List Byte :=
  let body := bytesAt c 0 8 ++ leBytes 4 seq ++ bytesAt c 12 11 ++ [if slotB then 1 else 0] ++ bytesAt c 24 4068
  body ++ leBytes 4 (crc32 body).toNat

/-- MODULE.FW_ACTIVATE: the option copy not in use is written with the current one's values, the next sequence and the slot (R429);
no page program begins while a reset is pending (R421), which then ends the command.
DESIGN CHOICE (log 33): the event log entry names SC4, which writes the configuration flash (R17). -/
def xModuleFwActivate (r : CmdRef) (slotB : Bool) (s : State) : State :=
  s.cmd r 0x0108 fun _ s =>
    if s.rst.pend.isSome then s else
    let now := s.clk.treadCount
    let f := s.settings
    let cur := if s.rst.optDefault then defaultBlock else (if s.rst.optCopy then f.optB else f.optA).getD defaultBlock
    let (o, f1) :=
      if s.rst.optCopy then
        ({ s.opt with seqA := s.opt.seqB + 1, fwSelB := slotB }, { f with optA := some (optWrite cur (s.opt.seqB + 1) slotB) })
      else ({ s.opt with seqB := s.opt.seqA + 1, fwSelB := slotB }, { f with optB := some (optWrite cur (s.opt.seqA + 1) slotB) })
    let s1 := { s with
      diag := { s.diag with work := { s.diag.work with progUntil := max s.diag.work.progUntil (now + Config.flashTreads now % 2001) } }, opt := o, settings := f1, fw := { s.fw with nextB := slotB } }
    (s1.logEvent 4 0x0A 0 none [b2n slotB]).finish r stOk .none

/-! ### MEMORY (R334, R336, R362, R400; log 27) -/

def State.store (s : State) (b : Banner) (store : Word) : Option MemStore :=
  (s.stores.find? fun m => m.1 == store && m.2.banner == b).map (·.2)

/-- MEMORY.CREATE: a store in the banner's namespace. -/
def xMemoryCreate (r : CmdRef) (store : Word) (s : State) : State :=
  s.cmd r 0x0601 fun a s =>
    if s.shutdown || (s.store a.banner store).isSome then s.finish r stNotPermitted .none
    else if !s.far.ready then s.finish r stBusy .none
    else if (s.part a.banner).ns = 0 then s.finish r stNoCapacity (.shortfall 1)
    else ({ s with stores := s.stores ++ [(store, ({ banner := a.banner, attached := none, near := false } : MemStore))] }).finish r stOk .none

/-- Put entries into the far tier, one record each, under the write key. -/
def State.putRecords (s : State) (b : Banner) (store : Word) (key : BitVec 32) (first : Nat) (l : List (List Byte)) : State :=
  let n := l.length
  let keep := s.far.objs.filter fun o => !(o.ofStore b store && decide (first ≤ o.index) && decide (o.index < first + n))
  let mk (p : List Byte × Nat) : FarObj :=
    let o : FarObj := { banner := b, stream := false, owner := store, keyId := key, complete := false, index := first + p.2, doneSeq := 0, context := 0, recs := [] }
    { o with recs := [s.seal o (first + p.2) (s.far.nextSeq + p.2) p.1] }
  let new := l.zipIdx.map mk
  { s with far := { (s.far.wrote ((List.range n).map (s.far.nextSeq + ·))) with objs := keep ++ new } }

/-- A write that need not wait any longer: the store and the write key are looked up when it is made. -/
def State.storeWrite (s : State) (r : CmdRef) (b : Banner) (store : Word) (first : Nat) (l : List (List Byte)) : State :=
  if (s.store b store).isNone then s.finish r stNotPermitted .none
  else match s.writeKeyOf b with
    | none => s.finish r stKeyFail .none
    | some key => (s.putRecords b store key first l).finish r stOk .none

/-- Bytes by which a write exceeds the namespace; rewritten entries take no new space. -/
def State.nsShort (s : State) (b : Banner) (store : Word) (first n : Nat) : Nat :=
  let old := ((s.storeObjs b store).filter fun o => decide (first ≤ o.index) && decide (o.index < first + n)).length
  s.farUsed b + (n - old) * 65536 - (s.part b).ns * 1073741824

/-- MEMORY.WRITE: acknowledged once its records are in the journal; while the journal is full it waits. -/
def xMemoryWrite (r : CmdRef) (store : Word) (first : Nat) (entries : Option (List (List Byte))) (s : State) : State :=
  s.cmd r 0x0602 fun a s =>
    if s.shutdown || (s.store a.banner store).isNone then s.finish r stNotPermitted .none
    else match entries with
    | none => (s.pendOn r).finish r stBadAddress .none
    | some l =>
      if l.isEmpty || l.any (fun e => decide (65536 < e.length)) then s.finish r stBadParam .none
      else if (s.writeKeyOf a.banner).isNone then s.finish r stKeyFail .none
      else if s.nsShort a.banner store first l.length != 0 then
        s.finish r stNoCapacity (.shortfall (s.nsShort a.banner store first l.length))
      else if !s.far.ready then s.finish r stBusy .none
      else if s.far.waiting.isEmpty && s.far.room l.length then (s.pendOn r).storeWrite r a.banner store first l
      else { s with far := { s.far with waiting := s.far.waiting ++ [(r, store, first, l)] } }

/-- Writes that waited, in their order, while the journal has room. -/
def resumeWrites : Nat → State → State
  | 0, s => s
  | fuel + 1, s =>
    match s.far.waiting with
    | [] => s
    | (r, store, first, l) :: rest =>
      if !s.far.room l.length then s else
      let s1 := { s with far := { s.far with waiting := rest } }
      match s.accepted.find? (fun a => a.ref == r && a.started) with
      | none => resumeWrites fuel s1
      | some a => resumeWrites fuel (s1.storeWrite r a.banner store first l)

/-- JOURNAL_FLUSH: records reach their place in NAND. -/
def xJournalFlush (bytes : Nat) (s : State) : State :=
  if !s.far.ready then s else
  let n := s.far.journal - bytes
  let s1 := { s with far := { s.far with journal := n, jrn := s.far.jrn.drop (s.far.jrn.length - ceilDiv n 65536) } }
  resumeWrites s1.far.waiting.length s1

/-- Event log reference of the newest entry, in the requester's view (R375, R443). -/
def State.newestRef (s : State) (f : FnId) (b : Banner) : BitVec 32 :=
  match s.diag.buf.head? with
  | some e => (s.entryFor f b.val e).seq
  | none => 0

/-- MEMORY.READ (R334, R335): each record is opened with the key its key id names; one that is unreadable or fails its tag is a
read error. The entries go to the host's memory by DMA (R381); `none` when that fails (R373). -/
def xMemoryRead (r : CmdRef) (store : Word) (first count : Nat) (media : Option MediaResult) (s : State) : State :=
  s.cmd r 0x0603 fun a s =>
    let recs := (List.range count).map fun i => (s.storeObjs a.banner store).find? fun o => o.index == first + i
    if (s.store a.banner store).isNone then s.finish r stNotPermitted .none
    else if count = 0 ∨ recs.any (·.isNone) = true then s.finish r stBadParam .none
    else if recs.any (fun o => match o with | some o => !s.farKeyHeld a.banner o.keyId | none => true) then s.finish r stKeyFail .none
    else if !s.far.ready then s.finish r stBusy .none
    else
      let s0 := s.pendOn r
      let s1 := { s0 with far := { s0.far with retry := s0.far.retry + (media.map retriesOf).getD 0 } }
      let lose (s : State) (n : Nat) : State :=
        let s2 := s.logEvent 2 8 store.toNat (some a.banner) [s.ownMember a.banner, n] stInternal
        s2.finish r stInternal (.logRef (s2.newestRef r.fn a.banner))
      match media with
      | none => s1.finish r stBadAddress .none
      | some .keyFail => s1.finish r stKeyFail .none
      | some (.ok _) => match (recs.flatMap fun o => o.toList).find? fun o => o.recs.any fun x => !s.recOk o x with
        | some o => lose s1 o.index
        | none => (s1.setFn r.fn.val { s1.fn r.fn.val with
            dmaOut := recs.flatMap fun o => match o with | some o => o.pages.flatten | none => [] }).finish r stOk .none
      | some (.unreadable _ n) => lose { s1 with far := { s1.far with ue := s1.far.ue + 1 } } n

/-- MEMORY.DELETE: a store and its records; not while it is bound to a stream, nor while the far tier is not ready (R431). -/
def xMemoryDelete (r : CmdRef) (store : Word) (s : State) : State :=
  s.cmd r 0x0604 fun a s =>
    match s.store a.banner store with
    | none => s.finish r stNotPermitted .none
    | some m =>
      if m.attached.isSome || !s.far.ready then s.finish r stBusy .none
      else ({ s with
        stores := s.stores.filter fun (x : Word × MemStore) => !(x.1 == store && x.2.banner == a.banner), far := { s.far with objs := s.far.objs.filter fun o => !o.ofStore a.banner store } }).finish r stOk .none

/-- MEMORY.ATTACH: the store moves at a landing (R362); BUSY while the far tier is not ready (R431). -/
def xMemoryAttach (r : CmdRef) (store sid : Word) (s : State) : State :=
  s.strmCmd r 0x0605 sid fun a _ _ s =>
    if (s.store a.banner store).isNone then s.finish r stNotPermitted .none
    else if !s.far.ready then s.finish r stBusy .none
    else s.hold (.attach store) (some r) sid

/-! ### FABRIC (R279, R283, R292, R293) -/

/-- A module record (Table 13.3). -/
def manRec (p : List Byte) (i : Nat) : ManRec :=
  let o := 64 + 32 * i
  let fl := natAt p (o + 16) 1
  { serial := BitVec.ofNat 128 (natAt p o 16), present := bitOf fl 0, l62 := bitOf fl 1, l63 := bitOf fl 2,
    grade := natAt p (o + 17) 1, compat := BitVec.ofNat 16 (natAt p (o + 18) 2) }

def manifestOf (p : List Byte) : Manifest :=
  { rows := natAt p 6 1, columns := natAt p 7 1, masterA := BitVec.ofNat 128 (natAt p 8 16),
    masterB := BitVec.ofNat 128 (natAt p 24 16), revision := BitVec.ofNat 64 (natAt p 40 8),
    recs := (List.range (natAt p 6 1 * natAt p 7 1)).map (manRec p), bytes := p }

/-- Magic, version, dimensions and length (R293). -/
def manifestShape (p : List Byte) : Bool :=
  natAt p 0 4 == 0x4E4D464B && natAt p 4 2 == 1 && decide (1 ≤ natAt p 6 1) && decide (natAt p 6 1 ≤ 32) &&
  decide (1 ≤ natAt p 7 1) && decide (natAt p 7 1 ≤ 32) && p.length == 64 + 32 * (natAt p 6 1 * natAt p 7 1)

/-- Reserved bytes and bits, and grades. -/
def manifestClean (p : List Byte) : Bool :=
  allZero (bytesAt p 48 16) && (List.range (natAt p 6 1 * natAt p 7 1)).all fun i =>
    decide (natAt p (64 + 32 * i + 16) 1 < 8) && natAt p (64 + 32 * i + 20) 12 == 0 && decide (natAt p (64 + 32 * i + 17) 1 ≤ 2)

/-- Every serial number but zero appears at most once. -/
def serialsOnce : List (BitVec 128) → Bool
  | [] => true
  | x :: l => (x == 0 || !l.contains x) && serialsOnce l

/-- The checks of R293, step 2, and the module's own position. -/
def State.manifestCheck (s : State) (p : List Byte) : Option (Manifest × Nat) :=
  if !manifestShape p || !manifestClean p then none
  else
    let m := manifestOf p
    if !serialsOnce (m.recs.map (·.serial)) then none
    else (s.ownPosition m).map fun i => (m, i)

/-- Steps 3 and 4: every link is torn down; a link without a partner is held in OFF, and one held so before leaves it
when the manifest names a partner (R279, R283). -/
def State.applyManifest (s : State) (m : Manifest) (i : Nat) : State :=
  let s1 := { s with manifest := some m, fabAddr := some (m.addrAt i), settings := { s.settings with manifest := some m } }
  (List.range 64).foldl (fun x l =>
    if s1.noPartner l then xLinkCtlDisable l x
    else if (x.link l).st == .off then (if s.noPartner l && !s.opt.linksDefer then xLinkCtlEnable l x else x)
    else x.teardown l 0xF) s1

/-- FABRIC.SET_MANIFEST. -/
def xFabricSetManifest (r : CmdRef) (manifest : Option (List Byte)) (s : State) : State :=
  s.cmd r 0x0701 fun _ s =>
    if s.tasks.any Task.live then s.finish r stBusy .none
    else
    let s := s.pendOn r
    match manifest with
    | none => s.finish r stBadAddress .none
    | some p =>
      match s.manifestCheck p with
      | none => s.finish r stManifestInvalid .none
      | some (m, i) =>
        ((s.applyManifest m i).logEvent 3 0x0A 0 none [m.revision.toNat]).finish r stOk .none

/-- FABRIC.GET_MANIFEST: a piece of up to 4,032 bytes. -/
def xFabricGetManifest (r : CmdRef) (offset length : Nat) (s : State) : State :=
  s.cmd r 0x0702 fun _ s =>
    if 4032 < length then s.finish r stBadParam .none
    else s.finish r stOk (.bytes (match s.manifest with | some m => bytesAt m.bytes offset length | none => []))

/-- FABRIC.LINK_CTL. -/
def xFabricLinkCtl (r : CmdRef) (l : Nat) (v : Word) (s : State) : State :=
  s.cmd r 0x0703 fun _ s => (s.linkCtl l v.toNat).finish r stOk .none

/-- LINK_CTL and LINK_TIME (Table 12.10). -/
def Link.ctlWord (k : Link) : Nat := b2n k.enable
def Link.timeWord (k : Link) : Nat := k.delay.toNat * 65536 + k.offset.toNat

/-- A link page with the counters in a function's view (Table 12.8). -/
def State.linkPage (s : State) (f : FnId) (l : LinkId) : List Nat :=
  let k := s.link l.val
  [k.stat, k.ctlWord, k.peer, k.timeWord] ++
  ([.linkFecCorr l, .linkFecUncorr l, .linkAuthFail l, .linkReplay l, .linkDup l, .linkLate l] : List RcReg).map (s.rcView f)

/-- FABRIC.LINK_STATUS: own links only for tenants. -/
def xFabricLinkStatus (r : CmdRef) (l : LinkId) (s : State) : State :=
  s.cmd r 0x0704 fun _ s =>
    if s.filtered r.fn && !s.ownLink r.fn l.val then s.finish r stBanner .none
    else s.finish r stOk (.linkPage (s.linkPage r.fn l))

/-! ### DIAG (R439, R443, R446, R447) -/

/-- DIAG.PENNANT_READ: records held, index of the oldest, then the records. -/
def xDiagPennantRead (r : CmdRef) (s : State) : State :=
  s.cmd r 0x0901 fun a s =>
    let p := s.part a.banner
    let id := natAt a.params 0 4
    let first := natAt a.params 4 4
    let n := natAt a.params 8 1
    if id = 0 ∨ id ≠ p.penTask.toNat ∨ n = 0 ∨ 127 < n then s.finish r stBadParam .none
    else
      let x := p.latestPen
      let recs := (x.store.drop (first - x.base)).take n
      s.finish r stOk (.bytes (leBytes 4 x.store.length ++ leBytes 4 x.base ++ zeros 8 ++ recs.flatten))

/-- An entry that a banner may see (R443). -/
def LogEntry.visible (e : LogEntry) (b : Banner) : Bool :=
  match e.banner with
  | some x => x == b
  | none => wideKind e.kind

/-- DIAG.LOG_READ: entries in order from a sequence or view number, at most the 63 that a reply holds. -/
def xDiagLogRead (r : CmdRef) (first count : Nat) (s : State) : State :=
  s.cmd r 0x0902 fun a s =>
    let all := (s.diag.buf ++ s.diag.flash).reverse
    let n := min count 63
    if s.tearing a.banner || (!s.isMgmt r.fn && !s.ownsIdx r.fn a.banner.val) then s.finish r stBanner .none
    else
      let seen := if s.isMgmt r.fn then all else all.filter fun e => e.visible a.banner
      let view := seen.map (s.entryFor r.fn a.banner.val)
      s.finish r stOk (.logs ((view.filter fun e => decide (first ≤ e.seq.toNat)).take n))

/-- DIAG.CRASH_READ. -/
def xDiagCrashRead (r : CmdRef) (s : State) : State :=
  s.cmd r 0x0903 fun a s =>
    let n := natAt a.params 8 2
    match (s.part a.banner).crash with
    | some (id, d) =>
      if id.toNat ≠ natAt a.params 0 4 ∨ 4064 < n then s.finish r stBadParam .none
      else s.finish r stOk (.bytes (bytesAt d (natAt a.params 4 4) n))
    | none => s.finish r stBadParam .none

/-- DIAG_PENb (Table 20.8). -/
def PenLog.words (x : PenLog) : List Nat := [x.matched, x.mismatched, x.missing * 65536 + x.unexpected, x.lost * 65536 + x.beyond]

/-- DIAG_LOG_STAT. -/
def Diag.statWord (d : Diag) : Nat := min 255 d.buf.length * 65536 + d.dropped.toNat

/-- DIAG.COUNTERS: for the management attachment every counter, for a tenant those of its own resources (R447); of a stack that it
shares a tenant sees the corrected units alone (R405). -/
def State.counterSets (s : State) (f : FnId) : List (List Nat) :=
  let all := !s.filtered f
  let cores := ((List.range 160).filter fun c => s.enabled c && (all || s.ownHall f (hallOf c))).map fun c => (s.core c).ceCount.toNat
  let stackTbl : List (Fin 8) := [0, 1, 2, 3, 4, 5, 6, 7]
  let near := (stackTbl.filter fun n => all || s.ownStack f n.val).flatMap fun n => [s.rcView f (.nearCe n), if s.rcGranted f (.nearUe n) then s.rcView f (.nearUe n) else 0]
  let links := ((List.range 64).filter fun l => all || s.ownLink f l).flatMap fun l => (s.linkPage f (Fin.ofNat 64 l)).drop 4
  let mod := if all then [[s.rcView f .galCe, s.rcView f .galUe], [s.rcView f .farRetry, s.rcView f .farUe], [s.diag.statWord]] else []
  let pens := ((List.range 8).filter fun b => all || s.ownsIdx f b).flatMap fun b => (s.part b).latestPen.words
  [cores, near, links, pens] ++ mod

def xDiagCounters (r : CmdRef) (s : State) : State :=
  s.cmd r 0x0904 fun _ s => s.finish r stOk (.counters (s.counterSets r.fn))

/-! ### TIME (R52, R54) -/

/-- TIME.SET_CALENDAR: rejected whole when a field is out of range; else it takes effect at the next tread boundary. -/
def xTimeSetCalendar (r : CmdRef) (s : State) : State :=
  s.cmd r 0x0A01 fun a s =>
    let p := a.params
    let l := [natAt p 0 2, natAt p 2 1, natAt p 3 1, natAt p 4 1, natAt p 5 1, natAt p 6 1]
    if dateOk (natAt p 0 2) (natAt p 2 1) (natAt p 3 1) (natAt p 4 1) (natAt p 5 1) (natAt p 6 1) then
      ({ s with clk := { s.clk with calSet := some l } }).finish r stOk .none
    else s.finish r stBadDate .none

/-- TIME.GET. -/
def xTimeGet (r : CmdRef) (s : State) : State :=
  s.cmd r 0x0A02 fun _ s =>
    s.finish r stOk (.time s.clk.treadCount s.calendar s.clk.calValid s.clk.calSat s.clk.subsec s.clk.refState)

def execModuleIdentify (r : CmdRef) (s : State) : Out := .next (xModuleIdentify r s)
def execModuleStatus (r : CmdRef) (s : State) : Out := .next (xModuleStatus r s)
def execModuleEvents (r : CmdRef) (q : QueueId) (s : State) : Out := .next (xModuleEvents r q s)
def execModuleReset (r : CmdRef) (s : State) : Out := .next (xModuleReset r s)
def execModuleShutdown (r : CmdRef) (s : State) : Out := .next (xModuleShutdown r s)
def execModulePowerPolicy (r : CmdRef) (s : State) : Out := .next (xModulePowerPolicy r s)
def execModuleFwStage (r : CmdRef) (img : Option FwImage) (s : State) : Out := .next (xModuleFwStage r img s)
def execModuleFwActivate (r : CmdRef) (slotB : Bool) (s : State) : Out := .next (xModuleFwActivate r slotB s)
def execMemoryCreate (r : CmdRef) (m : Word) (s : State) : Out := .next (xMemoryCreate r m s)
def execMemoryWrite (r : CmdRef) (m : Word) (n : Nat) (l : Option (List (List Byte))) (s : State) : Out := .next (xMemoryWrite r m n l s)
def execMemoryRead (r : CmdRef) (m : Word) (n c : Nat) (x : Option MediaResult) (s : State) : Out := .next (xMemoryRead r m n c x s)
def execMemoryDelete (r : CmdRef) (m : Word) (s : State) : Out := .next (xMemoryDelete r m s)
def execMemoryAttach (r : CmdRef) (m sid : Word) (s : State) : Out := .next (xMemoryAttach r m sid s)
def execJournalFlush (n : Nat) (s : State) : Out := .next (xJournalFlush n s)
def execFabricSetManifest (r : CmdRef) (m : Option (List Byte)) (s : State) : Out := .next (xFabricSetManifest r m s)
def execFabricGetManifest (r : CmdRef) (o n : Nat) (s : State) : Out := .next (xFabricGetManifest r o n s)
def execFabricLinkCtl (r : CmdRef) (l : LinkId) (v : Word) (s : State) : Out := .next (xFabricLinkCtl r l.val v s)
def execFabricLinkStatus (r : CmdRef) (l : LinkId) (s : State) : Out := .next (xFabricLinkStatus r l s)
def execDiagPennantRead (r : CmdRef) (s : State) : Out := .next (xDiagPennantRead r s)
def execDiagLogRead (r : CmdRef) (n c : Nat) (s : State) : Out := .next (xDiagLogRead r n c s)
def execDiagCrashRead (r : CmdRef) (s : State) : Out := .next (xDiagCrashRead r s)
def execDiagCounters (r : CmdRef) (s : State) : Out := .next (xDiagCounters r s)
def execTimeSetCalendar (r : CmdRef) (s : State) : Out := .next (xTimeSetCalendar r s)
def execTimeGet (r : CmdRef) (s : State) : Out := .next (xTimeGet r s)

end Sys2Proof.Machine
end

