-- ==== Sys2Proof/Machine/Matrix.lean ====
section
/-! DEFINITION. The matrix arrays: issue checks, lines, exact accumulation, drain (05; R89 to R97, R104, R197 to R199). -/

namespace Sys2Proof.Machine

/-! ### Shapes (Tables 5.1, 5.2, 5.4) -/

def arrY (c : Nat) : Nat := if isP c then 256 else 512
def arrN (c : Nat) : Nat := if isP c then 32 else 8
/-- Line slot in bytes. -/
def arrZ (c : Nat) : Nat := if isP c then 1024 else 2048

/-- K-step of a format pair (Tables 4.4, 5.1). -/
def kStep (fa fb : Nat) : Nat :=
  if fa == 8 || fb == 8 then 2 else if fmtBits fa == 4 then 8 else 4

/-- Formats that operand A and operand B may have (Table 4.1, Table 4.4). -/
def aFmtOk (f : Nat) : Bool := decide (f ≤ 8)
def bFmtOk (f : Nat) : Bool := decide (5 ≤ f) && decide (f ≤ 8)

/-- Largest K of a half (Table 5.4). -/
def maxK (c fb : Nat) : Nat :=
  if fb = 8 then (if isP c then 2048 else 8192) else (if isP c then 4096 else 16384)

/-- Address of line j of a tile (R107). -/
def lineAddr (c base j : Nat) : Nat :=
  if isP c then base + (2 * (j / 4) + j % 2) * 2048 + (if (j / 2) % 2 = 0 then 0 else 1024)
  else base + j * 2048

def tileAligned (c base : Nat) : Bool := base % (if isP c then 4096 else 2048) == 0

/-- T of a format (Table 4.3); a BF16 operand's T is its bound. -/
def largestExp (f : Nat) (bound : Int) : Int :=
  match f with
  | 0 => 2 | 1 => 8 | 2 => 3 | 3 => 4 | 4 => 2 | 5 => 8 | 6 => 15 | 7 => 7 | _ => bound

/-- An M.SCALE field clamped for its operand's format (R198). -/
def clampScale (f : Nat) (x : Int) : Int :=
  let lo : Int := if f = 8 then -133 else -127
  if 127 < x then 127 else if x < lo then lo else x

/-- The anchor of a pass (R91). -/
def anchorOf (fa fb : Nat) (sa sb : Int) : Int :=
  let smax := (if fa = 8 then 0 else sa) + (if fb = 8 then 0 else sb)
  smax + largestExp fa sa + largestExp fb sb + 1

def Core.pass (k : Core) (set : Nat) : Pass := tget Pass.reset k.mat.pass set
def Core.setMat (k : Core) (m : Matrix) : Core := { k with mat := m }
def Core.setPass (k : Core) (set : Nat) (p : Pass) : Core := k.setMat { k.mat with pass := tset k.mat.pass set p }

/-! ### The order in which instructions begin (R56, R116) -/

inductive MUnit where
  | a | x | d
  deriving DecidableEq, Repr, Inhabited

def AOp.tag : AOp → Tag
  | .run t .. => t
  | .flight t .. => t
def AOp.done : AOp → Bool
  | .run (lines := l) (taken := n) .. => decide (l ≤ n)
  | .flight (lines := l) (taken := n) .. => decide (l ≤ n)
def DOp.tag : DOp → Tag
  | .drain t .. => t
  | .clear t .. => t
def DOp.set : DOp → Bool
  | .drain (set := c) .. => c
  | .clear (set := c) .. => c
/-- The snapshot of a drain, or the discard of a clear, has been taken. -/
def DOp.free : DOp → Bool
  | .drain (snapped := b) .. => b
  | .clear (done := b) .. => b

/-- Tags of the M.SCALEs that have issued and taken no effect yet: of an open pass without a run, of a run without a
line, of a clear. -/
def Core.scaleTags (k : Core) : List Tag :=
  ((k.pass 0).scaleTag.toList ++ (k.pass 1).scaleTag.toList) ++
    (k.mat.aq.filterMap fun o => match o with | .run (scaleTag := t) .. => t | .flight .. => none) ++
    k.mat.dq.filterMap fun o => match o with | .clear (scaleTag := t) .. => t | .drain .. => none

/-- Issued matrix instructions: order, unit, and whether the unit is still occupied. M.SCALE runs on the A unit and
occupies no cycle of it (R116). -/
def Core.matOps (k : Core) : List (Nat × MUnit × Bool) :=
  let l := k.scaleTags.map (fun t => (t.ord, MUnit.a, false)) ++ k.mat.aq.map (fun o => (o.tag.ord, MUnit.a, !o.done)) ++
    k.mat.xq.map (fun o => (o.tag.ord, MUnit.x, !o.copied)) ++ k.mat.dq.map (fun o => (o.tag.ord, MUnit.d, true))
  sortBy (fun p q => decide (p.1 ≤ q.1)) l

/-- Instructions that have begun: the longest prefix in issue order whose units are free for them. -/
def begunOrds : List (Nat × MUnit × Bool) → List MUnit → List Nat
  | [], _ => []
  | (o, u, busy) :: l, taken => if taken.contains u then [] else o :: begunOrds l (if busy then u :: taken else taken)

def Core.begun (k : Core) (ord : Nat) : Bool := (begunOrds k.matOps []).contains ord
/-- Issued matrix instructions that wait to begin (Table 8.2). -/
def Core.matWaiting (k : Core) : Nat := k.matOps.length - (begunOrds k.matOps []).length
def Core.matAccepts (k : Core) : Bool := decide (k.matWaiting < 4)

/-! ### Issue -/

def half (b : Bool) : Nat := if b then 1 else 0

/-- The scale plane of an instruction whose format is E4M3 or E5M2. -/
def scaleUse (f : Nat) : SlotUse := if f = 5 ∨ f = 6 then .sel [.desc] else .unused

/-- M.SCALE (R198): open a pass. -/
def xMScale (c : Nat) (w : IWord) (s : State) : State :=
  let set := wMod w 0 0
  s.present c 0x24 w
    (fun k => firstBad
      [checkWord w 1 [.num 511, .num 511, .num 511, .unused, .unused, .unused], badIf (k.pass set).isOpen 0x07])
    Core.matAccepts
    fun s t => (s.updCore c fun k => k.setPass set
      { Pass.reset with isOpen := true, scaleA := sextInt 9 w.o0.toNat, scaleB := sextInt 9 w.o1.toNat,
                        drainE := sextInt 9 w.o2.toNat, scaleTag := some t }).stepPc c

/-- Coverage of the flight store that a run over K positions reaches past (R109). -/
def pastCoverage (m : Matrix) (fa kk : Nat) : Bool :=
  if fa = 1 then (match m.flMode with | .flight => decide (1024 * m.flQ < kk) | .empty => true | _ => false)
  else if isBlockFmt fa then
    (match m.flMode with | .scale => decide (32 * m.flQ < kk) | .empty => true | _ => false)
  else false

/-- Operand A needs tables while the store holds scales, or the reverse (Table 5.7). -/
def wrongStore (m : Matrix) (fa : Nat) : Bool :=
  (fa == 1 && (m.flMode == .scale || m.flMode == .uniform)) || (isBlockFmt fa && m.flMode == .flight)

/-- The checks of R90 and R121 on an M.RUN. -/
def mRunBad (c : Nat) (w : IWord) (k : Core) : Bad :=
  let p := k.pass (wMod w 0 0)
  let fa := fieldOf w.o1.toNat 7 4
  let fb := fieldOf w.o1.toNat 3 0
  let gc := wMod w 3 2
  let g := 2 ^ gc
  let kk := w.o2.toNat * g * kStep fa fb
  let koff := w.o3.toNat
  let m := w.o4.toNat
  firstBad
    [badIf (!(aFmtOk fa && bFmtOk fb)) 0x05,
     badIf (gc == 3 || kk == 0 || (fa == 1 && (kk % 1024 != 0 || koff % 1024 != 0)) ||
       decide (tget 0 k.mat.xK (wMod w 1 1) < koff + kk) || pastCoverage k.mat fa kk ||
       decide (65536 < p.kTotal + kk) || m == 0 || decide (arrY c / g < m) || !tileAligned c (k.baseOf w.o0)) 0x06,
     badIf (!p.isOpen || (p.hasRun && (p.fmtA.toNat != fa || p.fmtB.toNat != fb || p.m != m || p.g != g)) ||
       wrongStore k.mat fa) 0x07]

/-- M.RUN (R199): the anchor is fixed by the first run of the pass. -/
def xMRun (c : Nat) (w : IWord) (s : State) : State :=
  let set := wMod w 0 0
  s.present c 0x21 w
    (fun k => firstBad
      [checkWord w 0x0F [.sel [.desc], .num 0xFF, .num 0xFFFF, .num 0x3FFF, .num 0x3FF, .unused],
       s.checkDesc c k w.o0 [0], mRunBad c w k])
    Core.matAccepts
    fun s t =>
      let k := s.core c
      let p := k.pass set
      let fa := fieldOf w.o1.toNat 7 4
      let fb := fieldOf w.o1.toNat 3 0
      let g := 2 ^ wMod w 3 2
      let sa := clampScale fa p.scaleA
      let sb := clampScale fb p.scaleB
      let anchor := if p.hasRun then p.anchor else anchorOf fa fb sa sb
      let op : AOp := .run t (set == 1) (wMod w 1 1 == 1) (BitVec.ofNat 32 (k.baseOf w.o0)) (BitVec.ofNat 4 fa)
        (BitVec.ofNat 4 fb) g w.o4.toNat w.o2.toNat w.o3.toNat sa sb anchor 0 0 p.scaleTag
      let p1 : Pass := { p with hasRun := true, fmtA := BitVec.ofNat 4 fa, fmtB := BitVec.ofNat 4 fb, g := g,
                                m := w.o4.toNat, kTotal := p.kTotal + w.o2.toNat * g * kStep fa fb,
                                anchor := anchor, scaleTag := none }
      let k1 := k.setPass set p1
      (s.setCore c (k1.setMat { k1.mat with aq := k1.mat.aq ++ [op] })).stepPc c

/-- Lines of an M.FLIGHT (Table 5.3). -/
def flightLines (mode q : Nat) : Nat :=
  match mode with
  | 0 => 4 * q + 1
  | 1 => ceilDiv q 4
  | _ => 1

def xMFlight (c : Nat) (w : IWord) (s : State) : State :=
  let mode := wMod w 1 0
  let uniform := mode == 2
  let q := w.o1.toNat
  s.present c 0x25 w
    (fun k => firstBad
      [checkWord w 0x03 (if uniform then [.unused, .unused, .unused, .unused, .half, .half]
         else [.sel [.desc], .num 0xFF, .unused, .unused, .unused, .unused])
         (uniform && fieldOf (wImm w).toNat 31 8 != 0),
       if uniform then none else s.checkDesc c k w.o0 [0],
       badIf (mode == 3 || (mode == 0 && (q == 0 || decide (4 < q))) || (mode == 1 && (q == 0 || decide (128 < q))) ||
         (!uniform && !tileAligned c (k.baseOf w.o0))) 0x06])
    Core.matAccepts
    fun s t =>
      let k := s.core c
      let fm : FlightMode := match mode with | 0 => .flight | 1 => .scale | _ => .uniform
      let op : AOp := .flight t fm (BitVec.ofNat 32 (k.baseOf w.o0)) q ((wImm w).setWidth 8) (flightLines mode q) 0
      (s.setCore c (k.setMat { k.mat with aq := k.mat.aq ++ [op], flMode := fm, flQ := q })).stepPc c

/-! ### M.LOADX -/

/-- Bytes of K positions of all columns. -/
def xBytes (c k fb : Nat) : Nat := k * arrN c * (fmtBits fb / 8)
def hasPlane (fb : Nat) : Bool := fb == 5 || fb == 6

/-- Order of the accesses to stripes (R111, R113): those of each complete 4,096-byte pair alternate between its two
stripes, the rest follow in address order; `per` accesses cover a stripe. -/
def pairOrder (per count : Nat) : List Nat :=
  let pairs := count / (2 * per)
  ((List.range pairs).map fun p => ((List.range per).map fun i => [p * 2 * per + i, p * 2 * per + per + i]).flatten).flatten ++
    (List.range (count - pairs * 2 * per)).map (pairs * 2 * per + ·)

/-- The accesses of an M.LOADX in order: whether of the scale plane, offset, length. DESIGN CHOICE (log 40): each area is
read in the order of R111, the elements first, and the last access of the scale plane reads only the plane's bytes. -/
def XOp.accesses (c : Nat) (o : XOp) : List (Bool × Nat × Nat) :=
  let step := if isP c then 256 else 64
  let area (sc : Bool) (n : Nat) : List (Bool × Nat × Nat) :=
    (pairOrder (2048 / step) (ceilDiv n step)).map fun i => (sc, i * step, min step (n - i * step))
  area false (xBytes c o.k o.fmtB.toNat) ++ (if o.scale.isSome then area true (ceilDiv o.k 32 * arrN c) else [])

/-- Columns at or beyond the column count become zero, in an access that starts `off` bytes into the source (R111).
DESIGN CHOICE (log 40): the scale bytes of those columns are copied as they are; no product takes them. -/
def maskCols (c fb cols off : Nat) (d : List Byte) : List Byte :=
  let b := fmtBits fb / 8
  (d.zipIdx).map fun p => if cols ≤ (off + p.2) / b % arrN c then 0 else p.1

/-- The data of one access goes into the half. -/
def Core.loaded (k : Core) (c : Nat) (o : XOp) (sc : Bool) (off : Nat) (d : List Byte) : Core :=
  let h := half o.half
  let put (l : List Byte) (x : Mem) : Mem := memWrite (memErase x off l.length) off l
  let m := k.mat
  let m1 := if sc then { m with xScale := tupd [] m.xScale h (put d) }
    else { m with xElem := tupd [] m.xElem h (put (maskCols c o.fmtB.toNat o.cols off d)) }
  k.setMat { m1 with xq := updFirst (fun x => x.tag.ord == o.tag.ord) (fun x => { x with reads := x.reads + 1 }) m1.xq }

/-- Make the accesses of an M.LOADX that are still to come, each checked by itself: the core afterwards, a wait, or a
fault (R70, R75, R111). -/
def loadHalf (c : Nat) (banner : Banner) (o : XOp) : List (Bool × Nat × Nat) → Core → Acc
  | [], k => .done (k.setMat { k.mat with xLive := tset k.mat.xLive (half o.half) o.cols }) []
  | (sc, off, n) :: l, k =>
    match k.readAcc banner .matrixR ((if sc then o.scale.getD 0 else o.src).toNat + off) n with
    | .done k1 d => loadHalf c banner o l (((k1.served .matrix o.tag.ord 0).loaded c o sc off d))
    | r => r

/-- Every earlier M.RUN naming the half has been accumulated (Table 5.6). -/
def xFree (k : Core) (o : XOp) : Bool :=
  k.mat.aq.all fun a => match a with
    | .run (t := t) (half := h) .. => a.done || decide (o.tag.ord < t.ord) || h != o.half
    | .flight .. => true

/-- The X unit goes on with its instruction. -/
def tryLoad (s : State) (c : Nat) (o : XOp) : Acc :=
  loadHalf c (s.coreBanner c) o ((o.accesses c).drop o.reads) (s.core c)

def xMLoadx (c : Nat) (w : IWord) (s : State) : State :=
  let fb := w.o2.toNat
  let kk := w.o3.toNat
  s.present c 0x20 w
    (fun k => firstBad
      [checkWord w 0x01 [.sel [.desc], scaleUse fb, .num 15, .num 0x7FFF, .num 63, .unused],
       s.checkDesc c k w.o0 [0], if hasPlane fb then s.checkDesc c k w.o1 [0] else none,
       badIf (!bFmtOk fb) 0x05,
       badIf (kk == 0 || kk % 8 != 0 || decide (maxK c fb < kk) || w.o4.toNat == 0 || decide (arrN c < w.o4.toNat) ||
         k.baseOf w.o0 % 2048 != 0 || (hasPlane fb && k.baseOf w.o1 % 2048 != 0)) 0x06])
    Core.matAccepts
    fun s t =>
      let k := s.core c
      let o : XOp := { tag := t, half := wMod w 0 0 == 1, src := BitVec.ofNat 32 (k.baseOf w.o0),
                       scale := if hasPlane fb then some (BitVec.ofNat 32 (k.baseOf w.o1)) else none,
                       fmtB := BitVec.ofNat 4 fb, k := kk, cols := w.o4.toNat, reads := 0, copied := false }
      let h := half o.half
      let k1 := k.setMat { k.mat with xK := tset k.mat.xK h kk, xCols := tset k.mat.xCols h w.o4.toNat }
      let s1 := s.setCore c (k1.setMat { k1.mat with xq := k1.mat.xq ++ [o] })
      let k2 := s1.core c
      if k2.begun t.ord && xFree k2 o then
        match tryLoad s1 c o with
        | .done k3 _ =>
          let xq1 := updFirst (fun x => x.tag.ord == t.ord) (fun x => { x with copied := true }) k3.mat.xq
          (s1.setCore c (k3.setMat { k3.mat with xq := xq1 })).stepPc c
        | .wait k3 slot => ((s1.setCore c k3).stepPc c).refused c slot false t 0 .matrix
        | .bad k3 r aux => (s1.setCore c k3).haltCore c r t.pc (.of .matrix) aux
      else s1.stepPc c

/-- The checks of R96, R114 and R121 on an M.DRAIN. -/
def mDrainBad (w : IWord) (k : Core) : Bad :=
  let p := k.pass (wMod w 0 0)
  let f := w.o2.toNat
  firstBad
    [badIf (!(f == 5 || f == 6 || f == 8 || f == 9 || f == 0xA || f == 0xB) ||
       (f == 0xB && p.hasRun && !(isIntFmt p.fmtA.toNat && isIntFmt p.fmtB.toNat))) 0x05,
     badIf (k.baseOf w.o0 % 2048 != 0 || (hasPlane f && k.baseOf w.o1 % 2048 != 0) ||
       (hasPlane f && (decide (p.drainE < -127) || decide (127 < p.drainE)))) 0x06,
     badIf (!p.isOpen || !p.hasRun || (wMod w 2 2 == 1 && p.g == 1)) 0x07]

def xMDrain (c : Nat) (w : IWord) (s : State) : State :=
  let set := wMod w 0 0
  let f := w.o2.toNat
  s.present c 0x22 w
    (fun k => firstBad
      [checkWord w 0x07 [.sel [.desc], scaleUse f, .num 15, .unused, .unused, .unused],
       s.checkDesc c k w.o0 [0], if hasPlane f then s.checkDesc c k w.o1 [0] else none, mDrainBad w k])
    Core.matAccepts
    fun s t =>
      let k := s.core c
      let p := k.pass set
      let o : DOp := .drain t (set == 1) (wMod w 1 1 == 1) (wMod w 2 2 == 1) (BitVec.ofNat 32 (k.baseOf w.o0))
        (if hasPlane f then some (BitVec.ofNat 32 (k.baseOf w.o1)) else none) (BitVec.ofNat 4 f) p.drainE p.anchor
        p.g p.m false 0 0
      let k1 := k.setPass set Pass.reset
      (s.setCore c (k1.setMat { k1.mat with dq := k1.mat.dq ++ [o] })).stepPc c

def xMClear (c : Nat) (w : IWord) (s : State) : State :=
  let set := wMod w 0 0
  s.present c 0x23 w (fun _ => checkWord w 0x01 (List.replicate 6 .unused)) Core.matAccepts
    fun s t =>
      let k := s.core c
      let o : DOp := .clear t (set == 1) (k.pass set).scaleTag false
      let k1 := k.setPass set Pass.reset
      (s.setCore c (k1.setMat { k1.mat with dq := k1.mat.dq ++ [o] })).stepPc c

/-! ### Products (R91 to R95) -/

/-- An operand element: its value, and whether it breaks the bound of R94. -/
structure ArrElem where
  v : Val
  beyond : Bool
  deriving DecidableEq, Repr, Inhabited

/-- What a product brings to a lane. -/
inductive Prod where
  | none
  | nan (f : Flags)
  | inf (neg : Bool)
  | fin (x : Int) (window : Bool)
  deriving DecidableEq, Repr, Inhabited

/-- The product of two elements on the grid of 2^(A - 40) (R92, R94, R95). A zero element beside a finite one brings
nothing, whatever the bounds (log 9); any other product of an element beyond its bound is NaN with invalid. DESIGN CHOICE
(log 9): two infinities give the infinity of the product's sign with no flag; R95 gives that product no result. -/
def arrProduct (anchor : Int) (a b : ArrElem) : Prod :=
  let out := a.beyond || b.beyond
  let f : Flags := if out then fInvalid else 0
  match a.v, b.v with
  | .nan x, .nan y => .nan (fNanIn ||| f ||| (if x || y then fInvalid else 0))
  | .nan x, _ => .nan (fNanIn ||| f ||| (if x then fInvalid else 0))
  | _, .nan y => .nan (fNanIn ||| f ||| (if y then fInvalid else 0))
  | .inf x, .inf y => if out then .nan fInvalid else .inf (x != y)
  | .inf x, .num n m _ => if m = 0 || out then .nan fInvalid else .inf (x != n)
  | .num n m _, .inf y => if m = 0 || out then .nan fInvalid else .inf (n != y)
  | .num n1 m1 e1, .num n2 m2 e2 =>
    if m1 = 0 ∨ m2 = 0 then .none
    else if out then .nan fInvalid
    else
      let (r, ex) := rne (m1 * m2) (e1 + e2) (anchor - 40)
      .fin (if n1 != n2 then -(r : Int) else r) (!ex)

/-- One product into a lane (R92, R95). -/
def laneAdd (l : Lane) (p : Prod) : Lane × Flags :=
  match p with
  | .none => (l, 0)
  | .nan f => ({ l with st := .nan }, f)
  | .inf neg =>
    match l.st with
    | .nan => (l, 0)
    | .finite => ({ l with st := if neg then .negInf else .posInf }, 0)
    | .posInf => if neg then ({ l with st := .nan }, fInvalid) else (l, 0)
    | .negInf => if neg then (l, 0) else ({ l with st := .nan }, fInvalid)
  | .fin x w =>
    match l.st with
    | .finite => ({ l with acc := l.acc + BitVec.ofInt 64 x }, if w then fWindow else 0)
    | _ => (l, 0)

def laneSum (anchor : Int) (l : Lane) (ps : List (ArrElem × ArrElem)) : Lane × Flags :=
  ps.foldl (fun a p => let (l1, f) := laneAdd a.1 (arrProduct anchor p.1 p.2); (l1, a.2 ||| f)) (l, 0)

/-- Element number `e` of a packed line (R86, R106). -/
def packedElem (bits : Nat) (d : List Byte) (e : Nat) : Nat :=
  let o := e * bits
  natAt d (o / 8) 5 / 2 ^ (o % 8) % 2 ^ bits

/-- Value of operand A: format, element bits, array row, K position within the run (R87 to R89, R109). -/
def elemA (c : Nat) (m : Matrix) (fa : Nat) (scaleA : Int) (x row kpos : Nat) : ArrElem :=
  if fa = 1 then
    let t := 17 * (kpos / 1024 * arrY c + row)
    let entry := (memGet m.flight (t + x)).toNat
    let sc := (memGet m.flight (t + 16)).toNat
    { v := scaledVal 5 entry sc, beyond := decide (sc ≠ 255) && decide (scaleA < (sc : Int) - 127) }
  else if isBlockFmt fa then
    let sc := match m.liveMode with
      | .uniform => m.liveUnif.toNat
      | _ => (memGet m.flight (kpos / 32 * arrY c + row)).toNat
    { v := scaledVal fa x sc, beyond := decide (sc ≠ 255) && decide (scaleA < (sc : Int) - 127) }
  else if fa = 8 then
    match decodeVal 8 x with
    | .num n mm e => { v := .num n mm e, beyond := decide (mm ≠ 0) && decide (scaleA < floorLog2 mm e) }
    | v => { v := v, beyond := false }
  else
    match decodeVal fa x with
    | .num n mm e => { v := .num n mm (e + scaleA), beyond := false }
    | v => { v := v, beyond := false }

/-- Value of operand B at K position `kp` of the half, column n (R110). DESIGN CHOICE (log 40): where the run's format is not
the one the half was loaded with, its bytes are read as they stand in the run's format, and as 0 past the element area. -/
def elemB (c : Nat) (m : Matrix) (h fb : Nat) (scaleB : Int) (kp n : Nat) : ArrElem :=
  let b := fmtBits fb / 8
  let x := leNat (memRead (tget [] m.xElem h) ((kp * arrN c + n) * b) b)
  if hasPlane fb then
    let sc := (memGet (tget [] m.xScale h) (kp / 32 * arrN c + n)).toNat
    { v := scaledVal fb x sc, beyond := decide (sc ≠ 255) && decide (scaleB < (sc : Int) - 127) }
  else if fb = 8 then
    match decodeVal 8 x with
    | .num g mm e => { v := .num g mm e, beyond := decide (mm ≠ 0) && decide (scaleB < floorLog2 mm e) }
    | v => { v := v, beyond := false }
  else
    match decodeVal fb x with
    | .num g mm e => { v := .num g mm (e + scaleB), beyond := false }
    | v => { v := v, beyond := false }

/-- Lanes that a line of a run touches: array row and column (R108, R112; columns below the column count, R95). -/
def runLanes (c g m cols : Nat) : List (Nat × Nat) :=
  ((List.range g).map fun i => (List.range m).map fun rho =>
    (List.range (min cols (arrN c))).map fun n => (i * (arrY c / g) + rho, n)).flatten.flatten

/-- The products of one lane in line j of a run (R112, R199). -/
def laneProducts (c : Nat) (m : Matrix) (h fa fb g koff j : Nat) (sa sb : Int) (d : List Byte) (row n : Nat) :
    List (ArrElem × ArrElem) :=
  let st := kStep fa fb
  let i := row / (arrY c / g)
  (List.range st).map fun t =>
    let kpos := (j * g + i) * st + t
    (elemA c m fa sa (packedElem (fmtBits fa) d (row * st + t)) row kpos, elemB c m h fb sb (koff + kpos) n)

/-- Accumulate a line: the set's lanes afterwards and the lanes that raised flags. -/
def lineSum (c : Nat) (m : Matrix) (set h fa fb g mm koff j : Nat) (sa sb anchor : Int) (d : List Byte) :
    Tbl Lane × List (Nat × Nat × Flags) :=
  (runLanes c g mm (tget 0 m.xLive h)).foldl (fun a rn =>
    let id := rn.1 * 32 + rn.2
    let (l, f) := laneSum anchor (tget Lane.zero a.1 id) (laneProducts c m h fa fb g koff j sa sb d rn.1 rn.2)
    (tset a.1 id l, if f = 0 then a.2 else a.2 ++ [(rn.1, rn.2, f)])) (tget [] m.acc set, [])

/-- Auxiliary word of a matrix trap (Table 4.10). -/
def trapAux (set row col : Nat) (f : Flags) : BitVec 64 :=
  BitVec.ofNat 64 (set * 4194304 + row * 8192 + col * 256 + f.toNat)

/-- The trap that a cycle's flags fire (R104): 0x50 before 0x51, at the lowest row, then the lowest column. -/
def trapOf (vflags : BitVec 10) (fl : List (Nat × Nat × Flags)) : Option (BitVec 8 × Nat × Nat) :=
  match (if vflags.getLsbD 8 then fl.filter (fun x => x.2.2.getLsbD 6) else []) with
  | x :: l => let b := l.foldl (fun a y => if y.1 < a.1 ∨ (y.1 = a.1 ∧ y.2.1 < a.2.1) then y else a) x
              some (0x50, b.1, b.2.1)
  | [] =>
    match (if vflags.getLsbD 9 then fl.filter (fun x => x.2.2.getLsbD 0) else []) with
    | x :: l => let b := l.foldl (fun a y => if y.1 < a.1 ∨ (y.1 = a.1 ∧ y.2.1 < a.2.1) then y else a) x
                some (0x51, b.1, b.2.1)
    | [] => none

def orFlags (l : List (Nat × Nat × Flags)) : Flags := l.foldl (fun a x => a ||| x.2.2) 0

/-! ### ARRAY_LINE -/

/-- Bytes of a line of a run (Table 5.2). -/
def lineBytes (c fa fb : Nat) : Nat := arrY c * kStep fa fb * fmtBits fa / 8

/-- A run may take a line (Table 5.6): earlier loads of its half are complete, earlier drains and clears of its set
have taken their snapshot. -/
def runFree (k : Core) (ord : Nat) (set h : Bool) : Bool :=
  k.mat.xq.all (fun x => x.half != h || decide (ord < x.tag.ord)) &&
  k.mat.dq.all (fun d => d.set != set || d.free || decide (ord < d.tag.ord))

/-- Replace the first A-unit instruction that has lines left. -/
def setAOp (m : Matrix) (o : AOp) : Matrix :=
  { m with aq := updFirst (fun a => a.tag.ord == o.tag.ord) (fun _ => o) m.aq }

/-- ARRAY_LINE (R117): the A unit takes one line, or freezes. The M.SCALE of the pass completes with the first line (R116). -/
def xArrayLine (c : Nat) (s : State) : State :=
  let k := s.core c
  if !k.engineOn then s else
  match k.mat.aq.find? (fun a => !a.done) with
  | none => s
  | some o =>
    if !k.begun o.tag.ord then s else
    match o with
    | .flight t mode base q unif lines taken =>
      if mode = .uniform then
        s.setCore c (k.setMat { setAOp k.mat (.flight t mode base q unif lines (taken + 1)) with
          liveMode := .uniform, liveUnif := unif })
      else
        let total := if mode = .flight then 17 * q * arrY c else q * arrY c
        let n := min (arrZ c) (total - taken * arrZ c)
        match k.readAcc (s.coreBanner c) .matrixR (lineAddr c base.toNat taken) n with
        | .done k1 d =>
          let k2 := k1.served .matrix t.ord 0
          let m := k2.mat
          s.setCore c (k2.setMat { setAOp m (.flight t mode base q unif lines (taken + 1)) with
            flight := memWrite (memErase m.flight (taken * arrZ c) n) (taken * arrZ c) d, liveMode := mode })
        | .wait k1 slot => (s.setCore c k1).refused c slot false t 0 .matrix
        | .bad k1 r aux => (s.setCore c k1).haltCore c r t.pc (.of .matrix) aux
    | .run t set h base fa fb g mm lines koff sa sb anchor taken flags scaleTag =>
      if !runFree k t.ord set h then s else
      match k.readAcc (s.coreBanner c) .matrixR (lineAddr c base.toNat taken) (lineBytes c fa.toNat fb.toNat) with
      | .done k1 d =>
        let k2 := k1.served .matrix t.ord 0
        let m := k2.mat
        let si := half set
        let (acc, fl) := lineSum c m si (half h) fa.toNat fb.toNat g mm koff taken sa sb anchor d
        let flags1 := flags ||| orFlags fl
        let m1 := { setAOp m (.run t set h base fa fb g mm lines koff sa sb anchor (taken + 1) flags1 none) with
                    acc := tset m.acc si acc }
        let s0 := s.setCore c (k2.setMat m1)
        let s1 := match scaleTag with | some x => s0.signal c x .matrix | none => s0
        match trapOf k2.vflags fl with
        | some (r, row, col) => s1.haltCore c r t.pc (.of .matrix) (trapAux si row col flags1)
        | none => s1
      | .wait k1 slot => (s.setCore c k1).refused c slot false t 0 .matrix
      | .bad k1 r aux => (s.setCore c k1).haltCore c r t.pc (.of .matrix) aux

/-! ### The drain unit -/

/-- Every earlier M.RUN into the set has been accumulated (R113, Table 5.6). -/
def drainFree (k : Core) (ord : Nat) (set : Bool) : Bool :=
  k.mat.aq.all fun a => match a with
    | .run (t := t) (set := c) .. => a.done || decide (ord < t.ord) || c != set
    | .flight .. => true

/-- DRAIN_SNAPSHOT (R113 step 2): the set is copied into the drain buffer and is free. -/
def xDrainSnapshot (c : Nat) (s : State) : State :=
  let k := s.core c
  if !k.engineOn then s else
  match k.mat.dq with
  | .drain t set sat fold dst scale fmt dE anchor g mm false w f :: l =>
    if k.begun t.ord && drainFree k t.ord set then
      s.setCore c (k.setMat { k.mat with
        drainBuf := tget [] k.mat.acc (half set), acc := tset k.mat.acc (half set) [],
        dq := .drain t set sat fold dst scale fmt dE anchor g mm true w f :: l })
    else s
  | _ => s

/-- Lanes of all groups added into the first (R115). -/
def foldLane (a b : Lane) : Lane × Flags :=
  match a.st, b.st with
  | .nan, _ => (a, 0)
  | _, .nan => ({ a with st := .nan }, 0)
  | .finite, .finite => ({ a with acc := a.acc + b.acc }, 0)
  | .finite, x => ({ a with st := x }, 0)
  | _, .finite => (a, 0)
  | x, y => if x = y then (a, 0) else ({ a with st := .nan }, fInvalid)

/-- Value of a lane for the drain (R96). -/
def laneVal (anchor dE : Int) (l : Lane) : Val :=
  match l.st with
  | .nan => .nan false
  | .posInf => .inf false
  | .negInf => .inf true
  | .finite => .num (decide (l.acc.toInt < 0)) l.acc.toInt.natAbs (anchor - 40 - dE)

/-- One result element: its bits and flags. -/
def drainElem (c : Nat) (buf : Tbl Lane) (fold sat : Bool) (fmt : Nat) (dE anchor : Int) (g row n : Nat) :
    Nat × Flags :=
  let lane (r : Nat) := tget Lane.zero buf (r * 32 + n)
  let (l, f) := if fold then
      (List.range (g - 1)).foldl (fun a i => let (x, f) := foldLane a.1 (lane ((i + 1) * (arrY c / g) + row)); (x, a.2 ||| f))
        (lane row, 0)
    else (lane row, 0)
  let (b, f2) := convert fmt sat (laneVal anchor dE l)
  (b, f ||| f2)

/-- What the drain's writes come to: the core, the writes made and the summary so far. -/
inductive DrainRes where
  | done (k : Core) (f : Flags)
  | wait (k : Core) (slot n : Nat) (f : Flags)
  | bad (k : Core) (r : BitVec 8) (aux : BitVec 64)

/-- One write of a drain: the slot of the destination, or the scale slot, with the elements it holds. -/
structure DrainWr where
  addr : Nat
  data : List Byte
  lanes : List (Nat × Nat × Flags)

/-- Make the writes in order; a lane's invalid traps in the cycle in which its slot's write would be served (R104). -/
def drainWrites (banner : Banner) (set : Nat) : List DrainWr → Core → Nat → Flags → DrainRes
  | [], k, _, f => .done k f
  | w :: rest, k, n, f =>
    match k.writeAcc banner .matrixW w.addr w.data with
    | .wait k1 t => .wait k1 t n f
    | .bad k1 r aux => .bad k1 r aux
    | .done k1 _ =>
      let f1 := f ||| orFlags w.lanes
      match trapOf (k.vflags &&& 0x200) w.lanes with
      | some (r, row, col) => .bad k r (trapAux set row col f1)
      | none => drainWrites banner set rest k1 (n + 1) f1

/-- The writes of steps 3 and 4 of R113 for a drain whose snapshot is taken. DESIGN CHOICE (log 40): a drain with fold
writes m rows, as R108 and R114 say, where R115 says Y / g rows; the scale slot is written last. -/
def drainList (c : Nat) (k : Core) (sat fold : Bool) (dst : Nat) (scale : Option (BitVec 32))
    (fmt : Nat) (dE anchor : Int) (g mm : Nat) : List DrainWr :=
  let n := arrN c
  let rows := if fold || g == 1 then mm else arrY c
  let eb := fmtBits fmt / 8
  let per := 256 / eb
  let slot (sl : Nat) : DrainWr :=
    let es := ((List.range per).filter (fun i => decide (sl * per + i < rows * n))).map fun i =>
      let e := sl * per + i
      (e / n, e % n, drainElem c k.mat.drainBuf fold sat fmt dE anchor g (e / n) (e % n))
    let bytes := (es.map fun e => leBytes eb e.2.2.1).flatten
    { addr := dst + sl * 256, data := bytes ++ zeros (256 - bytes.length), lanes := es.map fun e => (e.1, e.2.1, e.2.2.2) }
  let nb := ceilDiv rows 32 * n
  (pairOrder 8 (ceilDiv (rows * n * eb) 256)).map slot ++
    (match scale with
     | none => []
     | some sp => [{ addr := sp.toNat, lanes := [],
                     data := List.replicate (min nb 256) (BitVec.ofNat 8 (dE + 127).toNat) ++ zeros (256 - nb) }])

/-- Make the writes of a drain that are still to come. -/
def drainAll (c : Nat) (k : Core) (banner : Banner) (set sat fold : Bool) (dst : Nat) (scale : Option (BitVec 32))
    (fmt : Nat) (dE anchor : Int) (g mm n : Nat) (f : Flags) : DrainRes :=
  drainWrites banner (half set) ((drainList c k sat fold dst scale fmt dE anchor g mm).drop n) k n f

/-! ### MATRIX_COMPLETION -/

/-- OR a summary into VFLAGS (R103). -/
def Core.orVflags (k : Core) (f : Flags) : Core := { k with vflags := k.vflags ||| f.setWidth 10 }

/-- A completion that can be tried. -/
inductive MCand where
  | a (o : AOp)
  | x (o : XOp)
  | d (o : DOp)

def MCand.ord : MCand → Nat
  | .a o => o.tag.ord
  | .x o => o.tag.ord
  | .d o => o.tag.ord

/-- The earliest instruction of each unit that is at its completion point, or whose remaining work nothing but a flag can
hold. -/
def matCands (k : Core) : List MCand :=
  let l := ((k.mat.aq.find? (·.done)).map MCand.a).toList ++
    (match k.mat.xq with
     | o :: _ => if o.copied || (k.begun o.tag.ord && xFree k o) then [MCand.x o] else []
     | [] => []) ++
    (match k.mat.dq with
     | .drain t set sat fold dst scale fmt dE anchor g mm true w f :: _ =>
       [MCand.d (.drain t set sat fold dst scale fmt dE anchor g mm true w f)]
     | .clear t set st b :: _ => if k.begun t.ord && drainFree k t.ord set then [MCand.d (.clear t set st b)] else []
     | _ => [])
  sortBy (fun p q => decide (p.ord ≤ q.ord)) l

/-- The order in which completions are tried. Which unit's instruction completes first is a matter of cycles, which the model
does not count: it is free (log 9). -/
def State.matOrder (s : State) (c : Nat) : List MCand :=
  let l := matCands (s.core c)
  let n := s.freshAt 4 % l.length
  l.drop n ++ l.take n

/-- A matrix access that a flag holds: its slot, whether it writes, and its instruction. -/
structure MHeld where
  slot : Nat
  write : Bool
  tag : Tag

/-- Try one completion: the state afterwards, and the access whose flag still holds it. -/
def tryComplete (s : State) (c : Nat) (x : MCand) : State × Option MHeld :=
  let k := s.core c
  match x with
  | .a o =>
    let f : Flags := match o with | .run (flags := f) .. => f | .flight .. => 0
    let k1 := (k.setMat { k.mat with aq := remFirst (fun y => y.tag.ord == o.tag.ord) k.mat.aq }).orVflags f
    ((s.setCore c k1).signal c o.tag .matrix, none)
  | .x o =>
    let fin (k1 : Core) : State :=
      (s.setCore c (k1.setMat { k1.mat with xq := remFirst (fun y => y.tag.ord == o.tag.ord) k1.mat.xq })).signal
        c o.tag .matrix
    if o.copied then (fin k, none) else
    match tryLoad s c o with
    | .done k1 _ => (fin k1, none)
    | .wait k1 slot => (s.setCore c k1, some { slot := slot, write := false, tag := o.tag })
    | .bad k1 r aux => ((s.setCore c k1).haltCore c r o.tag.pc (.of .matrix) aux, none)
  | .d (.clear t set st _) =>
    let k1 := k.setMat { k.mat with dq := k.mat.dq.tail, acc := tset k.mat.acc (half set) [] }
    let s1 := (s.setCore c k1).signal c t .matrix
    (match st with | some x => s1.signal c x .matrix | none => s1, none)
  | .d (.drain t set sat fold dst scale fmt dE anchor g mm b n f) =>
    match drainAll c k (s.coreBanner c) set sat fold dst.toNat scale fmt.toNat dE anchor g mm n f with
    | .done k1 f1 =>
      let k2 := ((k1.setMat { k1.mat with dq := k1.mat.dq.tail, drainBuf := [] }).orVflags f1).served .matrix t.ord 0
      ((s.setCore c k2).signal c t .matrix, none)
    | .wait k1 slot n1 f1 =>
      let k2 := k1.setMat { k1.mat with dq := .drain t set sat fold dst scale fmt dE anchor g mm b n1 f1 :: k1.mat.dq.tail }
      (s.setCore c (if n1 = n then k2 else k2.served .matrix t.ord 0), some { slot := slot, write := true, tag := t })
    | .bad k1 r aux => ((s.setCore c k1).haltCore c r t.pc (.of .matrix) aux, none)

/-- Every access that a flag holds is refused once (R76). -/
def refuseHeld (c : Nat) (s : State) (l : List MHeld) : State :=
  if (s.core c).st = .halted then s else l.foldl (fun s h => s.refused c h.slot h.write h.tag 0 .matrix) s

/-- The first candidate that a flag does not hold completes; the accesses that flags hold are refused. -/
def completeFirst (c : Nat) : List MCand → State → List MHeld → State
  | [], s, held => refuseHeld c s held
  | x :: l, s, held =>
    match tryComplete s c x with
    | (s1, none) => refuseHeld c s1 held
    | (s1, some h) => completeFirst c l s1 (held ++ [h])

/-- MATRIX_COMPLETION (R111, R113, R116): the earliest instruction of one unit completes, if it can. -/
def xMatrixCompletion (c : Nat) (s : State) : State :=
  if !(s.core c).engineOn then s else completeFirst c (s.matOrder c) s.tick []

abbrev OutM := Host.Outcome State Fault Refusal

def execMLoadx (c : CoreId) (w : IWord) (s : State) : OutM := .next (xMLoadx c w s)
def execMRun (c : CoreId) (w : IWord) (s : State) : OutM := .next (xMRun c w s)
def execMDrain (c : CoreId) (w : IWord) (s : State) : OutM := .next (xMDrain c w s)
def execMClear (c : CoreId) (w : IWord) (s : State) : OutM := .next (xMClear c w s)
def execMScale (c : CoreId) (w : IWord) (s : State) : OutM := .next (xMScale c w s)
def execMFlight (c : CoreId) (w : IWord) (s : State) : OutM := .next (xMFlight c w s)
def execArrayLine (c : CoreId) (s : State) : OutM := .next (xArrayLine c s)
def execDrainSnapshot (c : CoreId) (s : State) : OutM := .next (xDrainSnapshot c s)
def execMatrixCompletion (c : CoreId) (s : State) : OutM := .next (xMatrixCompletion c s)

end Sys2Proof.Machine
end

