-- ==== Sys2Proof/Machine/Power.lean ====
section
/-! DEFINITION. Power, thermal and coolant (R454 to R464), their coincidences (R465), and the SMBus (R469). -/

namespace Sys2Proof.Machine

/-! ### The adaptive voltage loop (R454) -/

/-- A trim stays within -50 mV and +25 mV of the fused value. -/
def clampTrim (x : Int) : Int := if x < -50 then -50 else if 25 < x then 25 else x

/-- AVS_TRIM: the loop moves a hall's rail against its monitor. -/
def xAvsTrim (h : Nat) (delta : Int) (s : State) : State :=
  if s.rst.off || !s.hallOn h then s else
  s.updHall h fun x =>
    let t := clampTrim (x.fused + delta)
    { x with fused := t, mv := BitVec.ofNat 16 ((fusedMv h x.stepCur.toNat : Int) + t).toNat }

/-! ### Which task is asked for a step (R458) -/

/-- Tasks of a banner in the order in which their steps are lowered: prompt first. -/
def State.lowerOrder (s : State) (b : Banner) : List Task :=
  let l := s.tasks.filter fun t => t.live && t.banner == b
  let prompt (t : Task) : Bool := match t.serving with | some x => x.role != 1 | none => false
  l.filter prompt ++ l.filter fun t => !prompt t

/-- The next task to be lowered: one above its minimum step. -/
def State.toLower (s : State) (b : Banner) : Option Task := (s.lowerOrder b).find? (s.mayMove · false)

/-- The next task to be raised: decode first; none above the step to which a throttle or an emergency holds it. -/
def State.toRaise (s : State) (b : Banner) : Option Task :=
  (s.lowerOrder b).reverse.find? (s.mayMove · true)

/-! ### Budgets (R456 to R458) -/

/-- B_b. -/
def budgetOfShare (share ce : Nat) : Nat := share * (ce - 600) / 100

/-- C_e and every budget as they follow from the policy, the warnings and the input voltage (R456, R457). -/
def State.recap (s : State) : State :=
  let ce := s.effCap s.pwr.capModule s.pwr.vIn.toNat
  { s with
    pwr := { s.pwr with capEff := ce },
    parts := s.parts.map fun (p : Nat × Part) => (p.1, if p.2.valid then { p.2 with budgetW := budgetOfShare p.2.power ce } else p.2) }

/-- Power of a banner's halls, in units of 0.1 W. -/
def State.bannerPower (s : State) (b : Banner) : Nat :=
  ((s.halls.filter fun h => h.2.assigned && h.2.banner == b).map fun h => h.2.power.toNat).sum

/-- A window over budget: one step lower, or prompts held when every task is at its minimum (R458). -/
def State.windowOver (s : State) (b : Banner) : State :=
  let p := s.part b
  let s1 := s.setPart b { p with overNow := true, underMs := 0, overMs := if p.promptHold then p.overMs + 1 else 0 }
  if s.clk.treadCount < p.stepAt + 1000 then s1
  else match s.toLower b with
    | some t =>
      let (s2, ok) := s1.askStep t false
      if ok then s2.updPart b fun p => { p with downSteps := p.downSteps + 1, stepAt := s.clk.treadCount + 6 } else s2
    | none => s1.updPart b fun p => { p with promptHold := true }

/-- A window below 85 % of the budget: after 100 ms one step higher, and prompts admitted again. A request that meets
a pending change is retried by the next window (R458). -/
def State.windowUnder (s : State) (b : Banner) : State :=
  let p := s.part b
  if p.underMs + 1 < 100 then s.setPart b { p with overNow := false, overMs := 0, underMs := p.underMs + 1 }
  else
    let s1 := s.setPart b { p with overNow := false, overMs := 0, underMs := 0, promptHold := false }
    match s.toRaise b with
    | some t =>
      let (s2, ok) := s1.askStep t true
      if ok then s2.updPart b fun p => { p with downSteps := p.downSteps - 1, stepAt := s.clk.treadCount + 6 }
      else s2.updPart b fun p => { p with underMs := 100 }
    | none => s1.updPart b fun p => { p with downSteps := 0 }

/-- One banner at the end of a window. -/
def State.windowOf (s : State) (b : Banner) : State :=
  if !(s.part b).valid then s else
  let tenths := s.bannerPower b
  let s1 := s.updPart b fun p => { p with powerW := tenths / 10 }
  let bb := (s.part b).budgetW
  if bb * 10 < tenths then s1.windowOver b
  else if tenths * 10 < 85 * bb then s1.windowUnder b
  else s1.updPart b fun p => { p with overNow := false, overMs := 0, underMs := 0 }

/-- POWER_WINDOW: the measurements of a 1 ms window, then every banner against its budget. -/
def xPowerWindow (v i : Nat) (halls : List (HallId × Nat)) (s : State) : State :=
  if s.rst.off then s else
  let s1 := { s with pwr := { s.pwr with vIn := BitVec.ofNat 16 (min 65535 v), iIn := BitVec.ofNat 16 (min 65535 i) } }
  let s2 := halls.foldl (fun s h => s.updHall h.1.val fun x => { x with power := BitVec.ofNat 16 (min 65535 h.2) }) s1
  ([0, 1, 2, 3, 4, 5, 6, 7] : List Banner).foldl (fun s b => s.windowOf b) s2.recap

/-- POWER_EXHAUSTION (R458): over budget for 1 s with prompts held. -/
def xPowerExhaustion (b : Banner) (s : State) : State :=
  let p := s.part b
  if p.valid && p.promptHold && decide (1000 ≤ p.overMs) then
    let s1 := (s.tasks.filter fun t => t.live && t.banner == b).foldl (fun s t => s.abortTask t 0x72 0x32) s
    (s1.updPart b fun p => { p with overMs := 0 }).logEvent 5 4 (maskOf p.halls) (some b) [0, 0, 0, p.overMs]
  else s

/-! ### Thermal (R459 to R463) -/

/-- The logic-die sensors: halls, then the others. -/
def logicTemps (t : ThermalReadings) : List (Nat × Int) := (t.hall.map fun h => (h.1.val, h.2)) ++ [(31, t.die)]

/-- The hottest of them, with its hall or 0x1F. -/
def hottest (t : ThermalReadings) : Nat × Int :=
  (logicTemps t).foldl (fun m x => if m.2 < x.2 then x else m) (31, t.die)

/-- A reading at or above a trip threshold, and its cause (R463). -/
def tripOf (t : ThermalReadings) : Option (BitVec 4) :=
  if 1150 ≤ (hottest t).2 then some 1
  else if t.near.any (fun x => decide (1050 ≤ x.2)) then some 2
  else if 1150 ≤ t.gallery then some 8
  else if decide (850 ≤ t.farTier) || decide (800 ≤ t.plate) then some 9
  else none

/-- Every sensor of Table 21.6 reads below a temperature (R460, R461, R463). -/
def allBelow (t : ThermalReadings) (x : Int) : Bool :=
  decide ((hottest t).2 < x) && t.near.all (fun n => decide (n.2 < x)) && decide (t.gallery < x) &&
  decide (t.farTier < x) && decide (t.plate < x)

/-- Every sensor below 85 degrees (R463). -/
def allCool (t : ThermalReadings) : Bool := allBelow t 850

/-- A throttle that a hall starts is logged for its partition (Table 20.6). -/
def State.logHot (s : State) (h : Nat) (temp : Int) : State :=
  let x := s.hall h
  s.logEvent 5 4 (2 ^ h) (if x.assigned then some x.banner else none) [temp.toNat, x.stepCur.toNat, x.stepCur.toNat, 0]

/-- The throttle and the gallery, near-tier and far-tier thresholds (R460, R462, Table 21.6). -/
def State.thermalActs (s : State) (t : ThermalReadings) : State :=
  let now := s.clk.treadCount
  let hot := (t.hall.filter fun h => decide (1050 ≤ h.2)).map fun h => h.1.val
  let fresh := (t.hall.filter fun h => decide (1050 ≤ h.2) && !(s.pwr.throttleHalls.contains h.1.val))
  let cool := if allBelow t 1000 then (match s.pwr.coolFrom with | some a => some a | none => some now) else none
  let susp := if 950 ≤ t.gallery then true else if t.gallery < 900 then false else s.gal.suspend
  let s1 := { s with
    pwr := { s.pwr with hotHalls := hot, throttle := s.pwr.throttle || !hot.isEmpty, throttleHalls := distinct (s.pwr.throttleHalls ++ hot), coolFrom := cool },
    gal := { s.gal with suspend := susp }, far := { s.far with slowed := decide (700 ≤ t.farTier) } }
  let s2 := t.near.foldl (fun s n => s.setStack n.1.val { s.stack n.1.val with hotRefresh := decide (850 ≤ n.2) }) s1
  let s3 := fresh.foldl (fun s h => s.logHot h.1.val h.2) s2
  s3.galResume

/-- THERM_MAX, and as tenants read it: 2 degree steps, once per second (R405, R472). -/
def State.thermMax (s : State) (t : ThermalReadings) : State :=
  let now := s.clk.treadCount
  let m := hottest t
  let due := s.pwr.tMaxAt == 0 || decide (s.pwr.tMaxAt + 1000000 ≤ now)
  { s with pwr := { s.pwr with
    tMaxHall := BitVec.ofNat 5 m.1, tMax := BitVec.ofInt 16 m.2, tMaxTenant := if due then BitVec.ofInt 16 (m.2 / 20 * 20) else s.pwr.tMaxTenant, tMaxAt := if due then now else s.pwr.tMaxAt, sample := some t } }

/-- The emergency begins at its threshold and ends when every sensor reads below 105 degrees (R461, R468). -/
def State.emergencyActs (s : State) (t : ThermalReadings) : State :=
  let m := hottest t
  if 1100 ≤ m.2 && !s.pwr.emergency then
    ({ s with pwr := { s.pwr with emergency := true, emergForce := true, thermN := true } }).logEvent 5 4 0xFFFFF none
      [m.2.toNat, s.clk.stepSel.toNat, 1, 0]
  else if s.pwr.emergency && !s.pwr.emergForce && allBelow t 1050 then
    { s with pwr := { s.pwr with emergency := false, thermN := false } }
  else s

/-- THERMAL_SAMPLE. Which number a sensor has in PWR_TRIP the manual does not say (log 1). -/
def xThermalSample (t : ThermalReadings) (s : State) : State :=
  if s.rst.off then s else
  match tripOf t with
  | some c => (s.tick.thermMax t).trip c (BitVec.ofNat 16 s.freshVal) true
  | none =>
    let s1 := ((s.thermMax t).thermalActs t).emergencyActs t
    if allCool t then { s1 with pwr := { s1.pwr with thermHold := false } } else s1

/-- EMERGENCY_STEP: at the boundary every hall is forced to S1, the pending step change is cancelled, and tasks with a
higher minimum halt with 0x32 and abort (R461, R465). -/
def xEmergencyStep (s : State) : State :=
  if !s.pwr.emergForce then s else
  let s1 := { s with pwr := { s.pwr with emergForce := false }, clk := { s.clk with armAt := none, armSteps := [] } }
  let s2 := (List.range 20).foldl (fun s h => if s.hallOn h then s.setStep h 1 else s) s1
  let stamp := BitVec.ofNat 32 s.clk.treadCount
  (s.tasks.filter Task.live).foldl (fun s t =>
    if 1 < t.minStep.toNat then (s.haltTask t 0x32 .none 0).abortOut t 0x32 noAddr stamp
    else s.updTask t.loadId fun t => { t with step := 1 }) s2

/-- THROTTLE_STEP: while a hall is at the threshold, one step lower for each task of its partition above its minimum. -/
def xThrottleStep (h : Nat) (s : State) : State :=
  if !s.pwr.throttle || !s.pwr.hotHalls.contains h || !(s.hall h).assigned then s else
  ((s.lowerOrder (s.hall h).banner).filter fun t => decide (t.minStep.toNat < t.step.toNat)).foldl (fun s t => (s.askStep t false).1) s

/-- THROTTLE_END: every sensor below 100 degrees for 1 s. -/
def xThrottleEnd (s : State) : State :=
  match s.pwr.coolFrom with
  | some a =>
    if s.pwr.throttle && decide (a + 1000000 ≤ s.clk.treadCount) then
      { s with pwr := { s.pwr with throttle := false, throttleHalls := [], hotHalls := [] } }
    else s
  | none => s

/-! ### Coolant (R464) -/

/-- The readings of J7, in units of 10 mL/min and 0.1 degree. -/
def State.coolRead (s : State) (flow : Nat) (inlet : Int) : State :=
  { s with pwr := { s.pwr with flow := BitVec.ofNat 16 (min 65535 flow), inlet := BitVec.ofInt 16 inlet } }

/-- COOLANT_WARNING: a warning threshold has held for its time. -/
def xCoolantWarning (flow : Nat) (inlet : Int) (s : State) : State :=
  if s.rst.off || !s.pwr.sensing then s else
  let s1 := s.coolRead flow inlet
  if decide (flow < 160) || decide (450 < inlet) then
    (({ s1 with pwr := { s1.pwr with
      flowWarn := s.pwr.flowWarn || decide (flow < 160), inletWarn := s.pwr.inletWarn || decide (450 < inlet) } }).recap).logEvent
      5 4 0 none [inlet.toNat, 0, 0, 0]
  else s1

/-- COOLANT_WARNING_END: the end of a warning has held for 10 s. -/
def xCoolantWarningEnd (flow : Nat) (inlet : Int) (s : State) : State :=
  if s.rst.off || !s.pwr.sensing then s else
  let s1 := s.coolRead flow inlet
  ({ s1 with pwr := { s1.pwr with
    flowWarn := s.pwr.flowWarn && !decide (180 < flow), inletWarn := s.pwr.inletWarn && !decide (inlet < 430) } }).recap

/-- COOLANT_TRIP: cause 0x3 for flow, 0x4 for the inlet. -/
def xCoolantTrip (flow : Nat) (inlet : Int) (s : State) : State :=
  if s.rst.off || !s.pwr.sensing then s
  else if flow < 100 then (s.coolRead flow inlet).tick.trip 3 (BitVec.ofNat 16 s.freshVal) false
  else if 500 < inlet then (s.coolRead flow inlet).tick.trip 4 (BitVec.ofNat 16 s.freshVal) false
  else s.coolRead flow inlet

/-! ### The SMBus (R469) -/

/-- An episode was reported less than a minute ago. -/
def State.smbLately (s : State) : Bool :=
  s.loggedWithin 60000000 fun e => e.kind == 0x0B && e.subject == 0x11

/-- SMBUS_STUCK: MCTP commands in progress end without a reply; with a line still low after the recovery clocks the
interface is off for 1 s. -/
def xSmbusStuck (datLow stillLow : Bool) (s : State) : State :=
  if s.rst.off then s else
  let s1 := { s with accepted := s.accepted.map fun (a : Accepted) => if a.ref.fn.val = 4 then { a with discard := true } else a }
  let q := s.queue 4 0
  let s1 := s1.setQueue 4 0 { q with pending := 0, cache := q.cache.filter fun e => e.final.isSome }
  let s2 := if s.smbLately then s1 else s1.log 0 0x0B 0x11 none 0 [b2n datLow]
  if stillLow then { s2 with pwr := { s2.pwr with smbUntil := s.clk.treadCount + 1000000 } } else s2

def execAvsTrim (h : HallId) (d : Int) (s : State) : Out := .next (xAvsTrim h.val d s)
def execPowerWindow (v i : Nat) (l : List (HallId × Nat)) (s : State) : Out := .next (xPowerWindow v i l s)
def execPowerExhaustion (b : Banner) (s : State) : Out := .next (xPowerExhaustion b s)
def execThermalSample (t : ThermalReadings) (s : State) : Out := .next (xThermalSample t s)
def execEmergencyStep (s : State) : Out := .next (xEmergencyStep s)
def execThrottleStep (h : HallId) (s : State) : Out := .next (xThrottleStep h.val s)
def execThrottleEnd (s : State) : Out := .next (xThrottleEnd s)
def execCoolantWarning (f : Nat) (i : Int) (s : State) : Out := .next (xCoolantWarning f i s)
def execCoolantWarningEnd (f : Nat) (i : Int) (s : State) : Out := .next (xCoolantWarningEnd f i s)
def execCoolantTrip (f : Nat) (i : Int) (s : State) : Out := .next (xCoolantTrip f i s)
def execSmbusStuck (d l : Bool) (s : State) : Out := .next (xSmbusStuck d l s)

end Sys2Proof.Machine
end

