-- ==== Sys2Proof/Machine/Regs.lean ====
section
/-! DEFINITION. BAR0 (22): what each function reads of every register, the reads that latch, and register writes (R7, R8,
R370, R394, R395, R473 to R479). -/

namespace Sys2Proof.Machine

/-! ### Register words -/

/-- Fields of equal width, lowest first. -/
def pack (w : Nat) : List Nat → Nat
  | [] => 0
  | x :: l => x % 2 ^ w + 2 ^ w * pack w l

/-- A 32-bit part of a number: word i. -/
def wordOf (v i : Nat) : Nat := v / 2 ^ (32 * i) % 4294967296

/-- Word i of a byte list. -/
def wordAt (l : List Byte) (i : Nat) : Nat := natAt l (4 * i) 4

/-- MOD (Table 22.2); no image runs before the boot of a reset that reaches the SEC block. -/
def State.modWord (s : State) (o : Nat) : Nat :=
  let g := s.otp.grade
  if o = 0 then s.otp.rev.toNat * 16777216 + maxStep g * 65536 + g * 16384 + pCores g * 256 + gCores g
  else if o < 0x14 then wordOf s.otp.serial.toNat (o / 4 - 1)
  else if o = 0x14 then s.fw.compat.toNat * 65536 + s.fw.version.toNat
  else if o = 0x18 then
    if s.fullBoot && (decide (s.rst.step.toNat < 3) || s.rst.step == 14) then 0
    else s.fw.secver.toNat * 65536 + b2n s.fw.nextB * 2 + b2n s.fw.activeB
  else if o = 0x20 then b2n s.rst.straps.mgmtPortSel * 8 + s.rst.straps.clkMode.toNat * 2
  else if o = 0x24 then s.rst.straps.bootSrc.toNat
  else if o = 0x30 then lcOf s.sec.lcBits
  else 0

/-- RST (Tables 19.8, 19.9). -/
def State.rstWord (s : State) (o : Nat) : Nat :=
  let r := s.rst
  if o = 0 then r.causeWord
  else if o = 4 then r.countWord
  else if o = 8 then r.statWord
  else if o = 0x10 then maskOf r.blockHall
  else if o = 0x14 ∨ o = 0x18 then wordOf (maskOf r.blockLink) (o / 4 - 5)
  else if 0x20 ≤ o ∧ o ≤ 0x30 then wordOf (maskOf (r.blockCore.filter s.enabled)) (o / 4 - 8)
  else if o = 0x34 then maskOf r.blockNear + 256 * b2n r.blockFar + 512 * b2n r.blockStrm + 1024 * b2n r.blockMesh + 2048 * maskOf r.blockSc
  else if 0x40 ≤ o ∧ o ≤ 0x5C then (tget 0 r.stepUs (o / 4 - 16)).toNat
  else 0

def RefState.code : RefState → Nat
  | .acquire => 0 | .locked => 1 | .switching => 2 | .holdover => 3 | .free => 4

def RefSource.code : RefSource → Nat
  | .l62 => 0 | .l63 => 1 | .tref => 2 | .tcxo => 3

/-- REF_STAT (Table 2.14); `cs` are the candidates of the module. -/
def Clk.refStat (c : Clk) (cs : List RefCand) : Nat :=
  c.qualCount cs * 65536 + b2n c.qualTref * 2048 + b2n c.qual63 * 1024 + b2n c.qual62 * 512 +
  b2n c.clkModeErr * 256 + (match c.target with | some t => t.code | none => 3) * 64 + c.source.code * 16 + c.refState.code

def Clk.dateWord (c : Clk) : Nat := c.year * 65536 + c.month * 256 + c.day
def Clk.timeWord (c : Clk) : Nat := c.hour * 65536 + c.minute * 256 + c.second
def Clk.calStat (c : Clk) : Nat := c.subsec * 4096 + b2n c.calSat * 2 + b2n c.calValid

/-- Steps of ten halls, those the function may see (Tables 2.12, 22.3). -/
def State.stepWord (s : State) (f : FnId) (first : Nat) (get : Hall → BitVec 3) : Nat :=
  pack 3 ((List.range 10).map fun k =>
    if s.filtered f && !s.ownHall f (first + k) then 0 else (get (s.hall (first + k))).toNat)

/-- CLK (Tables 2.10 to 2.18). -/
def State.clkWord (s : State) (f : FnId) (o : Nat) : Nat :=
  let c := s.clk
  if o = 0 then wordOf c.treadCount 0
  else if o = 4 then c.countHiLatch.toNat
  else if o = 8 then c.stepSel.toNat
  else if o = 0x10 then c.stepAtLo.toNat
  else if o = 0x14 then c.stepAtHi.toNat
  else if o = 0x18 then s.stepWord f 0 (·.stepNext)
  else if o = 0x1C then s.stepWord f 10 (·.stepNext)
  else if o = 0x20 then s.stepWord f 0 (·.stepCur)
  else if o = 0x24 then s.stepWord f 10 (·.stepCur)
  else if o = 0x28 then
    if s.filtered f then 0 else b2n c.armBad * 8 + b2n c.armBusy * 4 + b2n c.armLate * 2 + b2n c.armAt.isSome
  else if o = 0x30 then c.refStat s.candsNow
  else if o = 0x34 then b2n c.phaseValid * 2147483648 + c.phasePs.toNat
  else if o = 0x38 then c.holdTimer.toNat
  else if 0x40 ≤ o ∧ o ≤ 0x54 then
    let i := o / 4 - 16
    crossCap i * 16777216 + (tget 0 c.crossWorst i).toNat * 65536 + (tget 0 c.crossFixed i).toNat * 256
  else if o = 0x58 then c.crossStat
  else if o = 0x60 then c.dateWord
  else if o = 0x64 then c.timeLatch.toNat
  else if o = 0x68 then c.statLatch.toNat
  else 0

/-- PWR_STAT: to a tenant, the fields of R472 describe its own banners. -/
def State.pwrStat (s : State) (f : FnId) : Nat :=
  let t := s.filtered f
  let parts := s.parts.filter fun p => p.2.valid && (!t || s.ownsIdx f p.1)
  let cap := parts.any fun p => p.2.overNow || decide (0 < p.2.downSteps)
  let hot := if t then (List.range 20).any fun h => s.ownHall f h && s.hotHall h else s.pwr.throttle
  b2n cap * 2147483648 + b2n (s.pwr.flowWarn || s.pwr.inletWarn) * 1073741824 + b2n hot * 536870912 +
  b2n s.pwr.emergency * 268435456 + b2n (parts.any fun p => p.2.promptHold) * 134217728 + b2n s.gal.suspend * 67108864 +
  b2n s.pwr.sensing * 33554432

/-- PWR (Tables 21.15, 21.16). -/
def State.pwrWord (s : State) (f : FnId) (o : Nat) : Nat :=
  let t := s.filtered f
  let p := s.pwr
  if o = 0 then s.pwrStat f
  else if o = 0x10 then (if t then 31 else p.tMaxHall.toNat) * 65536 + (s.tempSeen f).toNat
  else if 0x40 ≤ o ∧ o < 0x90 then
    let h := o / 4 - 16
    if t && !s.ownHall f h then 0 else (s.hall h).mv.toNat * 65536 + (s.hall h).power.toNat
  else if 0xA0 ≤ o ∧ o < 0xC0 then
    let b := o / 4 - 40
    if t && !s.ownsIdx f b then 0 else min 65535 (s.part b).budgetW * 65536 + min 65535 (s.part b).powerW
  else if t then 0
  else if o = 4 then p.vIn.toNat * 65536 + p.iIn.toNat
  else if o = 8 then p.capEff * 65536 + p.capModule
  else if o = 0xC then p.flow.toNat * 65536 + p.inlet.toNat
  else if o = 0x14 then p.tripSensor.toNat * 65536 + p.tripCause.toNat
  else 0

/-- CMDQ_CFG and CMDQ_STAT (Table 17.12). -/
def Queue.cfgWord (q : Queue) : Nat := b2n q.enable * 2147483648 + q.size.toNat * 256 + q.vector.toNat
def Queue.statWord (q : Queue) : Nat :=
  b2n q.err * 2147483648 + q.cause.toNat * 268435456 + q.pending * 1048576 + q.replyTail % q.n % 1024 * 1024 + q.cmdHead % q.n % 1024

/-- CMD, a function's own block (Tables 17.11, 17.12). -/
def State.cmdWord (s : State) (f : FnId) (o : Nat) : Nat :=
  let h := s.fn f.val
  if o = 0 then b2n s.fetching * 2147483648 + b2n (s.isMgmt f) * 1073741824 + maskOf (s.bannersOf f) * 256
  else if o = 4 then f.val * 256 + h.rate.toNat * 32 + h.width.toNat
  else if o = 8 then s.rcView f (.cmdEvLost f)
  else if 0x100 ≤ o ∧ o < 0x300 then
    let q := s.queue f.val ((o - 0x100) / 32)
    match o % 32 / 4 with
    | 0 => wordOf q.cbase.toNat 0
    | 1 => wordOf q.cbase.toNat 1
    | 2 => wordOf q.rbase.toNat 0
    | 3 => wordOf q.rbase.toNat 1
    | 4 => q.cfgWord
    | 5 => q.statWord
    | _ => 0
  else 0

/-- PART (Tables 18.16, 18.17). -/
def State.partWord (s : State) (f : FnId) (o : Nat) : Nat :=
  let b := o / 64
  let p := s.part b
  if 8 ≤ b ∨ (s.filtered f && !s.ownsIdx f b) = true then 0
  else match o % 64 / 4 with
    | 0 => b2n p.valid * 2147483648 + b2n p.teardown * 1073741824 + maskOf p.halls
    | 1 => wordOf p.links.toNat 0
    | 2 => wordOf p.links.toNat 1
    | 3 => p.gallery * 65536 + p.power
    | 4 => b2n p.erasing * 2147483648 + p.ns
    | 5 => wordOf p.tag.toNat 0
    | 6 => wordOf p.tag.toNat 1
    | _ => 0

/-- SEC (Tables 18.14, 18.15). -/
def State.secWord (s : State) (f : FnId) (o : Nat) : Nat :=
  let x := s.sec
  let t := s.filtered f
  if o = 0 then b2n x.resumed * 256 + x.lcBits.toNat * 16 + lcOf x.lcBits
  else if o = 4 then (if t then 0 else x.confirm.toNat * 16 + x.intent.toNat)
  else if o = 8 then (if t then 0 else x.rollback.toNat)
  else if o = 0x10 then protCtl x
  else if o = 0x14 then b2n x.lock
  else if o = 0x20 then
    (x.keys.filter fun k => s.ownsIdx f k.2.banner.val).length * 256 + (if s.isMgmt f then x.keys.length else 0)
  else 0

/-- A link page (Tables 12.8 to 12.10). -/
def State.linkWord (s : State) (f : FnId) (l : LinkId) (o : Nat) : Nat :=
  if s.filtered f && !s.ownLink f l.val then 0 else (s.linkPage f l).getD (o / 4) 0

/-- The task on a banner: the latest that is loaded. -/
def State.taskOnBanner (s : State) (b : Nat) : Option Task := (s.tasks.filter fun t => t.live && t.banner.val == b && t.id != 0).getLast?

/-- The FAB common page (Tables 13.6, 13.7). -/
def State.fabWord (s : State) (f : FnId) (o : Nat) : Nat :=
  let t := s.filtered f
  if 0x40 ≤ o ∧ o < 0x80 then
    let b := o / 8 - 8
    if t && !s.ownsIdx f b then 0
    else match s.taskOnBanner b with
      | some k => if o % 8 = 0 then k.id.toNat else k.epoch.toNat
      | none => 0
  else if t then 0
  else if o = 0 then (match s.fabAddr with | some a => 2147483648 + a.toNat | none => 0)
  else if o = 4 then (match s.manifest with | some m => 2147483648 + m.rows * 256 + m.columns | none => 0)
  else if 0x10 ≤ o ∧ o < 0x40 then wordOf s.manifestDigest.toNat (o / 4 - 4)
  else 0

/-- Wheel entries as nibbles (Table 15.5). -/
def nibble (o : Option Banner) : Nat := match o with | some b => 8 + b.val | none => 0

/-- A stack page. A tenant reads it where it holds granules on the stack (R332); what tells of other banners reads as 0 to
it: their wheel entries and granules, and on a shared stack the loads, uncorrectable units and armed changes (R405, log 45). -/
def State.nearWord (s : State) (f : FnId) (n : StackId) (o : Nat) : Nat :=
  let t := s.stack n.val
  let tenant := s.filtered f
  let shared := tenant && s.sharedStack n.val
  let nibble (b : Option Banner) : Nat := if tenant && !b.any fun b => s.ownsIdx f b.val then 0 else nibble b
  if tenant && !s.ownStack f n.val then 0
  else if o = 0 then
    b2n t.trained * 2147483648 + b2n t.selfRefresh * 1073741824 + b2n t.hotRefresh * 536870912 +
    if shared then 0 else b2n (t.beyond.contains f.val) * 268435456 + b2n t.armAt.isSome * 134217728
  else if shared && (o == 4 || o == 0xC || o == 0x10 || o == 0x30 || o == 0x34) then 0
  else if o = 4 then s.rcView f (.nearLoad n)
  else if o = 8 then s.rcView f (.nearCe n)
  else if o = 0xC then s.rcView f (.nearUe n)
  else if o = 0x10 then t.ueAddr.toNat
  else if o = 0x20 ∨ o = 0x24 then pack 4 ((List.range 8).map fun k => nibble (tget none t.wheel (k + 8 * (o / 4 - 8))))
  else if o = 0x28 ∨ o = 0x2C then pack 4 ((List.range 8).map fun k => nibble (tget none t.wheelNext (k + 8 * (o / 4 - 10))))
  else if o = 0x30 then t.atLo.toNat
  else if o = 0x34 then t.atHi.toNat
  else if 0x40 ≤ o ∧ o ≤ 0x50 then
    pack 4 ((List.range 8).map fun k =>
      let i := 8 * (o / 4 - 16) + k
      if 33 ≤ i then 0 else nibble (s.granule (33 * n.val + i)).owner)
  else 0

/-- A park that still runs waits for room in the journal (R336). -/
def State.parksWait (s : State) : Bool :=
  s.far.parkWait.any fun w => s.streams.any fun p => sidOf p.1 p.2 == w && p.2.parkRun

/-- FAR (Table 15.6); a tenant reads FAR_STAT. What firmware takes from the tier reads as reset until it has (R9). -/
def State.farWord (s : State) (f : FnId) (o : Nat) : Nat :=
  let x := s.far
  if o = 0 then b2n x.ready * 2147483648 + b2n x.holdupLow * 1073741824 + b2n (!x.waiting.isEmpty || s.parksWait) * 536870912 + x.holdupMs.toNat
  else if s.filtered f then 0
  else if o = 4 then (if x.surveyed then min 4294967295 x.journal else 0)
  else if o = 8 then (if x.surveyed then min 4294967295 (x.written / 1000000000000) else 0)
  else if o = 0xC then s.rcView f .farRetry
  else if o = 0x10 then s.rcView f .farUe
  else 0

def SlotSt.code : SlotSt → Nat
  | .empty => 0 | .open_ => 1 | .verifying => 2 | .valid => 3 | .invalid => 4 | .erasing => 5

/-- GB/s held by loaded tasks (Table 14.7). -/
def State.galGranted (s : State) : Nat := ((s.tasks.filter Task.live).map (·.grant)).sum

/-- GAL_SWAP: the swap that is applying, the layer its copy has reached, and the treads since it began. -/
def State.galSwapWord (s : State) : Nat :=
  match s.tasks.find? fun t => t.swap.any (·.applying) with
  | some t => match t.swap with
    | some w => 2147483648 + w.slot * 268435456 + layerAt (s.slot w.slot) (t.refLayers w.gref) w.read % 1024 * 65536 +
        min 65535 (s.clk.treadCount - w.startAt)
    | none => 0
  | none => 0

/-- GAL (Tables 14.6 to 14.8); what comes from the directory reads as reset until firmware has read it (R9). -/
def State.galWord (s : State) (f : FnId) (o : Nat) : Nat :=
  let t := s.filtered f
  let g := s.gal
  if 0x40 ≤ o ∧ o < 0xC0 then
    let i := (o - 0x40) / 16
    let x := s.slot i
    if !g.dirRead || t && (x.st == .empty || x.revoked || !s.ownsIdx f x.banner.val) then 0
    else match o % 16 / 4 with
      | 0 => x.st.code * 268435456 + x.banner.val * 33554432 + b2n x.suspect * 16777216 +
          b2n (x.keyId != 0) * 8388608 + x.extents.length
      | 1 => if x.header.isEmpty then 0 else x.keyId.toNat
      | 2 => ((s.tasks.filter fun k => k.live && k.grefs.any fun r => r.slot == i).length) % 16
      | _ => 0
  else if t then 0
  else if o = 0 && !g.dirRead then 384
  else if o = 0 then
    b2n g.pulse * 2147483648 + b2n (g.slots.any fun x => x.2.st == .verifying) * 1073741824 +
    b2n (g.slots.any fun x => x.2.st == .open_ && (g.pulses.any (·.isSome) || g.waiting.any fun y => y.2.1.val == x.1)) * 536870912 + g.worn.length * 512 + s.freeExtents.length
  else if o = 4 then s.galGranted * 65536 + (4000 - s.galGranted)
  else if o = 8 then s.rcView f .galCe
  else if o = 0xC then s.rcView f .galUe
  else if o = 0x10 then s.galSwapWord
  else 0

/-- STRM (Tables 16.11, 16.12). -/
def State.strmWord (s : State) (f : FnId) (o : Nat) : Nat :=
  let t := s.filtered f
  if o = 0 then (s.streams.filter fun e => e.2.st != .free).length
  else if 0x10 ≤ o ∧ o < 0x30 then
    let b := o / 4 - 4
    let p := s.part b
    if t && !s.ownsIdx f b then 0
    else if p.rangeCount = 0 then 0 else 2147483648 + p.rangeCount * 65536 + p.rangeBase
  else if t then 0
  else if o = 4 then s.strmLead.toNat * 65536 + s.strmLeadAddr.toNat
  else if o = 0x40 then s.parkHigh * 65536 + s.parkLow
  else 0

/-- HALL_STAT (Table 3.10). -/
def State.hallWord (s : State) (f : FnId) (h o : Nat) : Nat :=
  if o ≠ 0 ∨ (s.filtered f && !s.ownHall f h) = true then 0
  else
    let bits (p : Nat → Bool) : Nat := maskOf (((hallCores h).filter p).map posInHall)
    bits (fun c => (s.core c).runsTask) * 65536 + bits s.enabled * 256 + b2n (s.hall h).assigned * 128 +
    (s.hall h).banner.val * 16 + b2n (decide (16 ≤ h)) * 8

/-- A core page (Tables 3.11 to 3.13, 7.13, 10.11). -/
def State.coreWord (s : State) (f : FnId) (c o : Nat) : Nat :=
  let k := s.core c
  if s.filtered f && !s.ownHall f (hallOf c) then 0
  else if o = 0 then s.coreStat c
  else if !s.enabled c then 0
  else if o = 4 then b2n k.eccUe * 2147483648 + b2n k.eccUeScrub * 1073741824 + b2n k.eccFlag * 536870912 + k.ceCount.toNat
  else if o = 8 then k.eccAddr.toNat
  else if o = 0xC then k.scrubPasses.toNat * 65536 + k.scrubMs.toNat
  else if o = 0x10 then k.strmStat
  else if 0x100 ≤ o ∧ o < 0x500 then wordOf (tget 0 k.rgn ((o - 0x100) / 16)).toNat (o % 16 / 4)
  else if 0x800 ≤ o ∧ o < 0x820 then (match k.fault with | some r => wordAt r.bytes ((o - 0x800) / 4) | none => 0)
  else 0

/-- DIAG (Tables 20.7, 20.8). -/
def State.diagWord (s : State) (f : FnId) (o : Nat) : Nat :=
  let t := s.filtered f
  if 0x100 ≤ o ∧ o < 0x300 then
    let b := (o - 0x100) / 64
    let p := s.part b
    let i := o % 64 / 4
    if t && !s.ownsIdx f b then 0
    else if i < 4 then p.latestPen.words.getD i 0
    else if i < 12 then (match p.latestPen.first with | some r => wordAt r (i - 4) | none => 0)
    else if i = 12 then
      b2n p.crash.isSome * 2147483648 + b2n (s.capturing (Fin.ofNat 8 b)) * 1073741824 + min 160 p.capCores
    else 0
  else if t then 0
  else if o = 0 then s.diag.statWord
  else if o = 4 then s.diag.nextSeq.toNat
  else 0

/-- The stream table window (R344, R479). -/
def State.windowWord (s : State) (f : FnId) (o : Nat) : Nat :=
  let i := o / 64
  let own := (List.range 8).any fun b => s.ownsIdx f b && (s.part b).inRange i
  if s.filtered f && !own then 0 else wordAt (entryBytes i (s.stream i)) (o % 64 / 4)

/-- The register at a 4-byte aligned BAR0 offset as the work of the module leaves it, as a function reads it (R473, R475,
Table 22.1). -/
def State.workWord (s : State) (f : FnId) (o : Nat) : Nat :=
  if o < 0x1000 then s.modWord o
  else if 0x10000 ≤ o ∧ o < 0x11000 then
    if s.filtered f && o - 0x10000 != 0 && o - 0x10000 != 8 then 0 else s.rstWord (o - 0x10000)
  else if 0x20000 ≤ o ∧ o < 0x21000 then s.clkWord f (o - 0x20000)
  else if 0x30000 ≤ o ∧ o < 0x31000 then s.pwrWord f (o - 0x30000)
  else if 0x40000 ≤ o ∧ o < 0x41000 then s.cmdWord f (o - 0x40000)
  else if 0x50000 ≤ o ∧ o < 0x50200 then s.partWord f (o - 0x50000)
  else if 0x60000 ≤ o ∧ o < 0x61000 then s.secWord f (o - 0x60000)
  else if 0x80000 ≤ o ∧ o < 0x90000 then s.linkWord f (Fin.ofNat 64 ((o - 0x80000) / 1024)) (o % 1024)
  else if 0x90000 ≤ o ∧ o < 0x91000 then s.fabWord f (o - 0x90000)
  else if 0xA0000 ≤ o ∧ o < 0xA8000 then s.nearWord f (Fin.ofNat 8 ((o - 0xA0000) / 4096)) (o % 4096)
  else if 0xB0000 ≤ o ∧ o < 0xB1000 then s.farWord f (o - 0xB0000)
  else if 0xC0000 ≤ o ∧ o < 0xC1000 then s.galWord f (o - 0xC0000)
  else if 0xD0000 ≤ o ∧ o < 0xD1000 then s.strmWord f (o - 0xD0000)
  else if 0x100000 ≤ o ∧ o < 0x150000 then s.hallWord f ((o - 0x100000) / 0x4000) (o % 0x4000)
  else if 0x200000 ≤ o ∧ o < 0x2A0000 then s.coreWord f ((o - 0x200000) / 4096) (o % 4096)
  else if 0x300000 ≤ o ∧ o < 0x301000 then s.diagWord f (o - 0x300000)
  else if 0x800000 ≤ o ∧ o < 0xC00000 then s.windowWord f (o - 0x800000)
  else 0

/-- FW fields of the registers that report what firmware finds: bits that a service core's write sets (Tables 2.12, 3.10,
10.11, 13.7, 14.7, 14.8, 15.4, 15.6, 16.12, 18.15, 20.8, 21.16, 22.2). The other FW registers are controls, or the banner
assignments of R394. -/
def fwMask (o : Nat) : BitVec 32 :=
  if o % 4 ≠ 0 then 0
  else if o = 0x14 then 0xFFFFFFFF
  else if o = 0x18 then 0xFFFF0003
  else if o = 0x20028 then 0xF
  else if o = 0x30000 then 0xFE000000
  else if o = 0x30008 then 0xFFFFFFFF
  else if o = 0x30014 then 0xFFFF000F
  else if 0x300A0 ≤ o ∧ o < 0x300C0 then 0xFFFFFFFF
  else if o = 0x40000 then 0x8000FF00
  else if o = 0x60020 then 0xFFFF
  else if o = 0x90000 then 0x800003FF
  else if o = 0x90004 then 0x8000FFFF
  else if 0x90010 ≤ o ∧ o < 0x90080 then 0xFFFFFFFF
  else if 0xA0000 ≤ o ∧ o < 0xA8000 ∧ o % 4096 = 0 then 0xF8000000
  else if o = 0xB0000 then 0xE000FFFF
  else if o = 0xB0004 ∨ o = 0xB0008 ∨ o = 0xC0004 then 0xFFFFFFFF
  else if o = 0xC0000 then 0xE003FFFF
  else if o = 0xC0010 then 0xF3FFFFFF
  else if 0xC0040 ≤ o ∧ o < 0xC00C0 then
    if o % 16 = 0 then 0xFF8001FF else if o % 16 = 4 then 0xFFFFFFFF else if o % 16 = 8 then 0xF else 0
  else if o = 0xD0000 then 0x1FFFF
  else if o = 0xD0004 then 0xFF03FF
  else if 0x100000 ≤ o ∧ o < 0x150000 ∧ o % 0x4000 = 0 then 0xFF0000
  else if 0x200000 ≤ o ∧ o < 0x2A0000 ∧ 0x800 ≤ o % 4096 ∧ o % 4096 < 0x820 then
    if o % 4096 = 0x800 then 0xFFFF03FF else if o % 4096 = 0x808 then 0x3FF else 0xFFFFFFFF
  else if o = 0x300000 then 0xFFFFFF
  else if o = 0x300004 then 0xFFFFFFFF
  else if 0x300100 ≤ o ∧ o < 0x300300 then
    if o % 64 = 0x18 then 0x03FFFFFF else if o % 64 = 0x1C then 0x0100FFFF
    else if o % 64 < 48 then 0xFFFFFFFF else if o % 64 = 48 then 0xC00000FF else 0
  else 0

/-- The function reads what firmware wrote there: the management attachment always, a tenant where the register is its own. -/
def State.fwShown (s : State) (f : FnId) (o : Nat) : Bool :=
  if !s.filtered f || decide (o < 0x1000) || o == 0x40000 || o == 0xB0000 || o == 0xD0000 then true
  else if 0x300A0 ≤ o ∧ o < 0x300C0 then s.ownsIdx f ((o - 0x300A0) / 4)
  else if 0x90040 ≤ o ∧ o < 0x90080 then s.ownsIdx f ((o - 0x90040) / 8)
  else if 0xA0000 ≤ o ∧ o < 0xA8000 then s.ownStack f ((o - 0xA0000) / 4096) && !s.sharedStack ((o - 0xA0000) / 4096)
  else if 0xC0040 ≤ o ∧ o < 0xC00C0 then
    let x := s.slot ((o - 0xC0040) / 16)
    x.st != .empty && s.ownsIdx f x.banner.val
  else if 0x100000 ≤ o ∧ o < 0x150000 then s.ownHall f ((o - 0x100000) / 0x4000)
  else if 0x200000 ≤ o ∧ o < 0x2A0000 then s.ownHall f (hallOf ((o - 0x200000) / 4096))
  else if 0x300100 ≤ o ∧ o < 0x300300 then s.ownsIdx f ((o - 0x300100) / 64)
  else false

/-- The management attachment. -/
def State.mgmtFn (s : State) : FnId := if s.rst.straps.mgmtPortSel then 0 else 4

/-- The register at a BAR0 offset, as a function reads it. An FW register holds what firmware wrote last: a service core's write
stands until the work of the module writes another word (R8, R476, log 28). -/
def State.regWord (s : State) (f : FnId) (a : Nat) : Nat :=
  let o := a / 4 * 4
  let w := s.workWord f o
  match s.fwWords.find? (·.offset == o) with
  | some x =>
    if x.before == s.workWord s.mgmtFn o && s.fwShown f o then
      ((BitVec.ofNat 32 w &&& ~~~fwMask o) ||| (x.value &&& fwMask o)).toNat
    else w
  | none => w

/-- A service core writes an FW register that reports. The page of a disabled core holds CORE_STAT alone (R83). CMD_STAT has one
offset in every function's block, and the word written shows in each of them (DESIGN CHOICE, log 28). -/
def State.fwStore (s : State) (o : Nat) (v : Word) : State :=
  if fwMask o = 0 ∨ (0x200000 ≤ o ∧ o < 0x2A0000 ∧ s.enabled ((o - 0x200000) / 4096) = false) then s
  else { s with fwWords := ⟨o, s.workWord s.mgmtFn o, v⟩ :: s.fwWords.filter fun x => x.offset != o }

/-- Words over which the work of the module has written since are gone (R476). The work of a tread is looked at when the tread
ends (DESIGN CHOICE, log 28). -/
def State.fwSettle (s : State) : State :=
  { s with fwWords := s.fwWords.filter fun x => x.before == s.workWord s.mgmtFn x.offset }

/-- A host read of 1, 2, 4 or 8 aligned bytes (R474). -/
def State.regRead (s : State) (f : FnId) (a size : Nat) : Nat :=
  match size with
  | 1 => s.regWord f a / 2 ^ (8 * (a % 4)) % 256
  | 2 => s.regWord f a / 2 ^ (8 * (a % 4)) % 65536
  | 4 => s.regWord f a
  | 8 => s.regWord f a + s.regWord f (a + 4) * 4294967296
  | _ => 0

/-! ### Reads that latch (R25, R51, R474) -/

/-- TREAD_COUNT_LO_READ: an 8-byte read of the pair returns one count, and a 4-byte read its low half. -/
def xTreadCountLoRead (f : FnId) (s : State) : State :=
  let n := s.clk.treadCount
  let s1 := { s with clk := { s.clk with countHiLatch := BitVec.ofNat 32 (wordOf n 1) } }
  s1.setFn f.val { s1.fn f.val with readData := BitVec.ofNat 64 n }

/-- CAL_DATE_READ: CAL_TIME and CAL_STAT are latched. -/
def xCalDateRead (f : FnId) (s : State) : State :=
  let c := s.clk
  let s1 := { s with clk := { c with timeLatch := BitVec.ofNat 32 c.timeWord, statLatch := BitVec.ofNat 32 c.calStat } }
  s1.setFn f.val { s1.fn f.val with readData := BitVec.ofNat 64 (c.dateWord + c.timeWord * 4294967296) }

/-- CLK_STEP_AT_HI_WRITE: the write that arms, or with count 0 cancels, a step change (R38 to R40). -/
def xClkStepAtHiWrite (v : Word) (s : State) : State :=
  (s.armWrite (v.toNat * 4294967296 + s.clk.stepAtLo.toNat)).1

/-! ### Writes (R7, R8, R370, R394, R395, R474, R476) -/

/-- Replace word i of a number. -/
def setWord (v i w : Nat) : Nat := v - wordOf v i * 2 ^ (32 * i) + w % 4294967296 * 2 ^ (32 * i)

/-- A host write to BAR2 (R369, R371): doorbells, and words of the MSI-X table. A vector that is unmasked while it is pending is
sent, and its pending bit clears (PRESUMED, log 18: PCI Express). -/
def State.bar2Write (s : State) (f : FnId) (o : Nat) (v : Word) : State :=
  if o < 0x80 then
    let q : QueueId := Fin.ofNat 16 (o / 8)
    if o % 8 = 0 then xCommandTailDoorbell f q v s else xReplyHeadDoorbell f q v s
  else if 0x1000 ≤ o ∧ o < 0x2000 then
    let i := (o - 0x1000) / 4
    let h := s.fn f.val
    let h1 := { h with msix := tset h.msix i v }
    s.setFn f.val { h1 with pba := h1.pba.filter fun n => n != i / 4 || (h1.msixWord (i / 4 * 4 + 3)).getLsbD 0 }
  else s

/-- BAR2 as its function reads it: the MSI-X table and the pending-bit array (R369). -/
def State.bar2Word (s : State) (f : FnId) (o : Nat) : Nat :=
  let h := s.fn f.val
  if 0x1000 ≤ o ∧ o < 0x2000 then (h.msixWord ((o - 0x1000) / 4)).toNat
  else if 0x2000 ≤ o ∧ o < 0x2020 then pack 1 ((List.range 32).map fun k => b2n (h.pba.contains (8 * (o - 0x2000) + k)))
  else 0

/-- A host write of an RW register: queue bases and configuration while the queue is disabled (R370). -/
def State.hostWrite (s : State) (f : FnId) (o : Nat) (v : Word) : State :=
  if f.val = 4 ∨ (s.fn f.val).present = false then s
  else if s.rst.step = 14 then
    if f.val = 0 ∧ o + 4 ≤ 0x800000 then { s with rst := { s.rst with window := memWrite s.rst.window o (leBytes 4 v.toNat) } } else s
  else if 0x1000000 ≤ o then s.bar2Write f (o - 0x1000000) v
  else if o < 0x40100 ∨ 0x40300 ≤ o then s
  else
    let qi : QueueId := Fin.ofNat 16 ((o - 0x40100) / 32)
    let q := s.queue f.val qi.val
    let i := o % 32 / 4
    let page := v.toNat / 4096 * 4096
    if i = 4 then
      if v.getLsbD 31 then xQueueEnable f qi v s
      else if q.enable then xQueueDisable f qi s
      else s.setQueue f.val qi.val { q with size := v.extractLsb' 8 4, vector := v.extractLsb' 0 8 }
    else if q.enable then s
    else match i with
      | 0 => s.setQueue f.val qi.val { q with cbase := BitVec.ofNat 64 (setWord q.cbase.toNat 0 page) }
      | 1 => s.setQueue f.val qi.val { q with cbase := BitVec.ofNat 64 (setWord q.cbase.toNat 1 v.toNat) }
      | 2 => s.setQueue f.val qi.val { q with rbase := BitVec.ofNat 64 (setWord q.rbase.toNat 0 page) }
      | 3 => s.setQueue f.val qi.val { q with rbase := BitVec.ofNat 64 (setWord q.rbase.toNat 1 v.toNat) }
      | _ => s

/-- Registers that assign resources to banners (R394). -/
def bannerReg (o : Nat) : Bool :=
  (decide (0x50000 ≤ o) && decide (o < 0x50200) && decide (o % 64 < 0x1C)) ||
  (decide (0xA0000 ≤ o) && decide (o < 0xA8000) && ((o % 4096 == 0x28 || o % 4096 == 0x2C) || (decide (0x40 ≤ o % 4096) && decide (o % 4096 ≤ 0x50)))) ||
  (decide (0xD0010 ≤ o) && decide (o < 0xD0030)) ||
  (decide (0x100000 ≤ o) && decide (o < 0x150000) && o % 0x4000 == 0)

/-- A granule goes to a banner, or to none, with a new key (R331). -/
def State.giveGranule (s : State) (g : Nat) (b : Option Banner) : State :=
  if (s.granule g).owner = b then s
  else
    let s1 := s.setGranule g ((s.granule g).rekey b)
    { s1 with parts := s1.parts.map fun (p : Nat × Part) =>
        (p.1, { p.2 with granules := if b.map (·.val) = some p.1 then insNat g p.2.granules else p.2.granules.filter (· != g) }) }

/-- Banner named by a nibble. -/
def nibbleBanner (v k : Nat) : Option Banner :=
  let n := fieldOf v (4 * k + 3) (4 * k)
  if 8 ≤ n then some (Fin.ofNat 8 n) else none

/-- A write of a banner-assignment field by the enclave; H19 of grade C cannot be assigned (R15). -/
def State.assignWrite (s : State) (o : Nat) (v : Word) : State :=
  let x := v.toNat
  if o < 0x60000 then
    let b := (o - 0x50000) / 64
    s.updPart b fun p => match o % 64 / 4 with
      | 0 => { p with valid := bitOf x 31, teardown := bitOf x 30, halls := (List.range 20).filter fun h => bitOf x h && s.hallOn h }
      | 1 => { p with links := BitVec.ofNat 64 (setWord p.links.toNat 0 x) }
      | 2 => { p with links := BitVec.ofNat 64 (setWord p.links.toNat 1 x) }
      | 3 => { p with gallery := fieldOf x 31 16, power := fieldOf x 7 0 }
      | 4 => { p with erasing := bitOf x 31, ns := fieldOf x 11 0 }
      | 5 => { p with tag := BitVec.ofNat 64 (setWord p.tag.toNat 0 x) }
      | _ => { p with tag := BitVec.ofNat 64 (setWord p.tag.toNat 1 x) }
  else if o < 0xB0000 then
    let n := (o - 0xA0000) / 4096
    let r := o % 4096
    if r < 0x30 then
      let t := s.stack n
      s.setStack n { t with wheelNext :=
        (List.range 8).foldl (fun w k => tset w (k + 8 * (r / 4 - 10)) (nibbleBanner x k)) t.wheelNext }
    else
      (List.range 8).foldl (fun s k =>
        let i := 8 * (r / 4 - 16) + k
        if 33 ≤ i then s else s.giveGranule (33 * n + i) (nibbleBanner x k)) s
  else if o < 0xE0000 then
    let b := (o - 0xD0010) / 4
    s.updPart b fun p =>
      if bitOf x 31 then { p with rangeBase := fieldOf x 3 0, rangeCount := fieldOf x 20 16 } else { p with rangeBase := 0, rangeCount := 0 }
  else
    let i := (o - 0x100000) / 0x4000
    if !s.hallOn i then s else s.updHall i fun h => { h with assigned := bitOf x 7, banner := Fin.ofNat 8 (fieldOf x 6 4) }

/-- A write of PROT_CTL by boot code before the lock (R395, R410, Table 18.15). Test modes open only in RETURNED and with a further Krevore
token, which the manual does not describe: whether boot code holds a valid one is a free value (log 3). -/
def State.protCtlWrite (s : State) (v : Word) : State :=
  if s.sec.lock then s else
  let lc := lcOf s.sec.lcBits
  { s with sec := { s.sec with
    testOpen := v.getLsbD 3 && lc == 3 && Config.testToken s.otp.serial s.fresh, tenantFilter := v.getLsbD 2 || lc != 0, bannerWr := v.getLsbD 1 || lc != 0, jtagLimit := v.getLsbD 0 } }

/-- Block resets that a write asks for: each 1 resets its block (R425). -/
def State.blockWrite (s : State) (o : Nat) (v : Word) : State :=
  let bits := (List.range 32).filter fun i => v.getLsbD i
  bits.foldl (fun s i =>
    if o = 0x10 then (if i < 20 then xBlockResetHall none (Fin.ofNat 20 i) s else s)
    else if o = 0x14 then xBlockResetLink i s
    else if o = 0x18 then xBlockResetLink (32 + i) s
    else if o < 0x34 then
      let c := 32 * (o / 4 - 8) + i
      xBlockResetHall (some (Fin.ofNat 160 c)) (Fin.ofNat 20 (hallOf c)) s
    else if i < 8 then xBlockResetNear i s
    else if i = 8 then xBlockResetFar s
    else if i = 9 then xBlockResetStrm s
    else if i = 10 then xBlockResetMesh s
    else if i < 17 then xBlockResetSc (i - 11) s
    else s) s

/-- Steps of ten halls in CLK_STEP_NEXT0 or CLK_STEP_NEXT1. -/
def State.nextWrite (s : State) (first : Nat) (v : Word) : State :=
  (List.range 10).foldl (fun s k => s.updHall (first + k) fun h => { h with stepNext := v.extractLsb' (3 * k) 3 }) s

/-- Reserved bits of a region table entry (Table 3.6). -/
def rgnReserved : BitVec 128 :=
  BitVec.ofNat 128 (31 * 2 ^ 107 + 0x1FFFFFF * 2 ^ 74 + 0xFF * 2 ^ 56 + 0xFF * 2 ^ 24)

/-- A word of a region table entry: written by SC4, while the core is IDLE, LOADED or LANDED (R72); reserved bits read
as 0 (R7). No region covers an address beyond the scratchpad (R59, R73): a write that would make an enabled entry reach
there has no effect (DESIGN CHOICE, log 39). -/
def State.rgnWrite (s : State) (n c i word : Nat) (v : Word) : State :=
  let st := s.coreState c
  let e := BitVec.ofNat 128 (setWord (tget 0 (s.core c).rgn i).toNat word v.toNat) &&& ~~~rgnReserved
  if n = 4 ∧ (st = .idle ∨ st = .loaded ∨ st = .landed) ∧ (rgnSize e = 0 ∨ rgnBase e + rgnSize e ≤ scratchSize c) then
    s.updCore c fun k => { k with rgn := tset k.rgn i e }
  else s

/-- A service core's write of a register of its own: the controls act, and a register that reports holds the value (R476). -/
def State.serviceWrite (s : State) (n : Nat) (o : Nat) (v : Word) : State :=
  if o = 0x1000C then (if v.getLsbD 0 then xSwr s else s)
  else if 0x10010 ≤ o ∧ o ≤ 0x10034 ∧ o ≠ 0x1001C then s.blockWrite (o - 0x10000) v
  else if o = 0x20008 then (if maxStep s.otp.grade < (v.extractLsb' 0 3).toNat then s else { s with clk := { s.clk with stepSel := v.extractLsb' 0 3 } })
  else if o = 0x20010 then { s with clk := { s.clk with stepAtLo := v } }
  else if o = 0x20014 then xClkStepAtHiWrite v s
  else if o = 0x20018 then s.nextWrite 0 v
  else if o = 0x2001C then s.nextWrite 10 v
  else if 0x80000 ≤ o ∧ o < 0x90000 ∧ o % 1024 = 4 then s.linkCtl ((o - 0x80000) / 1024) v.toNat
  else if 0xA0000 ≤ o ∧ o < 0xA8000 ∧ o % 4096 = 0x30 then
    s.setStack ((o - 0xA0000) / 4096) { s.stack ((o - 0xA0000) / 4096) with atLo := v }
  else if 0xA0000 ≤ o ∧ o < 0xA8000 ∧ o % 4096 = 0x34 then xNearWheelAtHiWrite ((o - 0xA0000) / 4096) v s
  else if o = 0xD0040 then { s with parkHigh := fieldOf v.toNat 31 16, parkLow := fieldOf v.toNat 15 0 }
  else if 0x200000 ≤ o ∧ o < 0x2A0000 ∧ 0x100 ≤ o % 4096 ∧ o % 4096 < 0x500 then
    s.rgnWrite n ((o - 0x200000) / 4096) ((o % 4096 - 0x100) / 16) (o % 16 / 4) v
  else s.fwStore o v

/-- A 4-byte write by one of the three kinds of writer. -/
def State.write4 (s : State) (w : Writer) (o : Nat) (v : Word) : State :=
  match w with
  | .host f => s.hostWrite f o v
  | .service n =>
    if !s.rst.scRunning.contains n.val then s
    else if bannerReg o then
      if s.sec.bannerWr then (s.log n.val 0x0C o none 0 [o, v.toNat]).fwStore o v else (s.assignWrite o v).fwStore o v
    else s.serviceWrite n.val o v
  | .enclave =>
    if s.rst.off then s
    else if o = 0x60010 then s.protCtlWrite v
    else if o = 0x60014 then xProtLockWrite v s
    else if bannerReg o then s.assignWrite o v
    else s

/-- REGISTER_WRITE: narrower or unaligned writes have no effect, and 8 bytes are two writes, the lower address first. -/
def xRegisterWrite (w : Writer) (o size : Nat) (v : BitVec 64) (s : State) : State :=
  if size = 4 ∧ o % 4 = 0 then s.write4 w o (v.extractLsb' 0 32)
  else if size = 8 ∧ o % 8 = 0 then (s.write4 w o (v.extractLsb' 0 32)).write4 w (o + 4) (v.extractLsb' 32 32)
  else s

def execTreadBoundary (s : State) : Out := .next (xTreadBoundary s).fwSettle
def execTreadCountLoRead (f : FnId) (s : State) : Out := .next (xTreadCountLoRead f s)
def execCalDateRead (f : FnId) (s : State) : Out := .next (xCalDateRead f s)
def execClkStepAtHiWrite (v : Word) (s : State) : Out := .next (xClkStepAtHiWrite v s)
def execRegisterWrite (w : Writer) (o : BitVec 25) (n : Nat) (v : BitVec 64) (s : State) : Out :=
  .next (xRegisterWrite w o.toNat n v s)

end Sys2Proof.Machine
end

