-- ==== Sys2Proof/Machine/Dispatch.lean ====
section
/-! DEFINITION. One arm per command: a direct call of its meaning. -/

namespace Sys2Proof.Machine

/-- What a command does to everything but the queue. -/
def exec (i : Instr) (s : State) : Host.Outcome State Fault Refusal :=
  match i with
  | .nop c w => Sys2Proof.Machine.execNop c w s
  | .halt c w => Sys2Proof.Machine.execHalt c w s
  | .loop c w => Sys2Proof.Machine.execLoop c w s
  | .jump c w => Sys2Proof.Machine.execJump c w s
  | .call c w => Sys2Proof.Machine.execCall c w s
  | .ret c w => Sys2Proof.Machine.execRet c w s
  | .setkSet c w => Sys2Proof.Machine.execSetkSet c w s
  | .setkAdd c w => Sys2Proof.Machine.execSetkAdd c w s
  | .setkCopy c w => Sys2Proof.Machine.execSetkCopy c w s
  | .setkLoad c w => Sys2Proof.Machine.execSetkLoad c w s
  | .setkFlags c w => Sys2Proof.Machine.execSetkFlags c w s
  | .setkFlagClear c w => Sys2Proof.Machine.execSetkFlagClear c w s
  | .setkFlagSet c w => Sys2Proof.Machine.execSetkFlagSet c w s
  | .waitcc c w => Sys2Proof.Machine.execWaitcc c w s
  | .signalCc c w => Sys2Proof.Machine.execSignalCc c w s
  | .land c w => Sys2Proof.Machine.execLand c w s
  | .untilTread c w => Sys2Proof.Machine.execUntilTread c w s
  | .fence c w => Sys2Proof.Machine.execFence c w s
  | .exitRound c w => Sys2Proof.Machine.execExitRound c w s
  | .instructionFetch c => Sys2Proof.Machine.execInstructionFetch c s
  | .mLoadx c w => Sys2Proof.Machine.execMLoadx c w s
  | .mRun c w => Sys2Proof.Machine.execMRun c w s
  | .mDrain c w => Sys2Proof.Machine.execMDrain c w s
  | .mClear c w => Sys2Proof.Machine.execMClear c w s
  | .mScale c w => Sys2Proof.Machine.execMScale c w s
  | .mFlight c w => Sys2Proof.Machine.execMFlight c w s
  | .arrayLine c => Sys2Proof.Machine.execArrayLine c s
  | .drainSnapshot c => Sys2Proof.Machine.execDrainSnapshot c s
  | .matrixCompletion c => Sys2Proof.Machine.execMatrixCompletion c s
  | .vAdd c w => Sys2Proof.Machine.execVAdd c w s
  | .vSub c w => Sys2Proof.Machine.execVSub c w s
  | .vMul c w => Sys2Proof.Machine.execVMul c w s
  | .vFma c w => Sys2Proof.Machine.execVFma c w s
  | .vMax c w => Sys2Proof.Machine.execVMax c w s
  | .vMin c w => Sys2Proof.Machine.execVMin c w s
  | .vCmp c w => Sys2Proof.Machine.execVCmp c w s
  | .vSelect c w => Sys2Proof.Machine.execVSelect c w s
  | .vCvt c w => Sys2Proof.Machine.execVCvt c w s
  | .vExp2 c w => Sys2Proof.Machine.execVExp2 c w s
  | .vLog2 c w => Sys2Proof.Machine.execVLog2 c w s
  | .vRcp c w => Sys2Proof.Machine.execVRcp c w s
  | .vRsqrt c w => Sys2Proof.Machine.execVRsqrt c w s
  | .vTanh c w => Sys2Proof.Machine.execVTanh c w s
  | .vSigm c w => Sys2Proof.Machine.execVSigm c w s
  | .vSum c w => Sys2Proof.Machine.execVSum c w s
  | .vNorm c w => Sys2Proof.Machine.execVNorm c w s
  | .vRope c w => Sys2Proof.Machine.execVRope c w s
  | .vGather c w => Sys2Proof.Machine.execVGather c w s
  | .vScatter c w => Sys2Proof.Machine.execVScatter c w s
  | .vTopk c w => Sys2Proof.Machine.execVTopk c w s
  | .vSort c w => Sys2Proof.Machine.execVSort c w s
  | .vRand c w => Sys2Proof.Machine.execVRand c w s
  | .vectorCompletion c => Sys2Proof.Machine.execVectorCompletion c s
  | .sCopy c w => Sys2Proof.Machine.execSCopy c w s
  | .sFill c w => Sys2Proof.Machine.execSFill c w s
  | .sGather c w => Sys2Proof.Machine.execSGather c w s
  | .sScatter c w => Sys2Proof.Machine.execSScatter c w s
  | .sAtomadd c w => Sys2Proof.Machine.execSAtomadd c w s
  | .sPennantClear c w => Sys2Proof.Machine.execSPennantClear c w s
  | .sPennantStore c w => Sys2Proof.Machine.execSPennantStore c w s
  | .sPennantFold c w => Sys2Proof.Machine.execSPennantFold c w s
  | .sPennantEmit c w => Sys2Proof.Machine.execSPennantEmit c w s
  | .streamElementGenerate c => Sys2Proof.Machine.execStreamElementGenerate c s
  | .streamElementComplete c instr elem => Sys2Proof.Machine.execStreamElementComplete c instr elem s
  | .xSend c w => Sys2Proof.Machine.execXSend c w s
  | .xCast c w => Sys2Proof.Machine.execXCast c w s
  | .xReduce c w => Sys2Proof.Machine.execXReduce c w s
  | .xReducea c w => Sys2Proof.Machine.execXReducea c w s
  | .xExpect c w => Sys2Proof.Machine.execXExpect c w s
  | .messageCompletion c => Sys2Proof.Machine.execMessageCompletion c s
  | .reductionCombine c => Sys2Proof.Machine.execReductionCombine c s
  | .inboundPacket packet => Sys2Proof.Machine.execInboundPacket packet s
  | .acceptanceNotice packet => Sys2Proof.Machine.execAcceptanceNotice packet s
  | .refusal packet => Sys2Proof.Machine.execRefusal packet s
  | .lateNotice c pc receiver seq => Sys2Proof.Machine.execLateNotice c pc receiver seq s
  | .seqGapNotice c pc receiver seq => Sys2Proof.Machine.execSeqGapNotice c pc receiver seq s
  | .eccWriteBack c bank => Sys2Proof.Machine.execEccWriteBack c bank s
  | .scrubStep c bank => Sys2Proof.Machine.execScrubStep c bank s
  | .flagTimeout c => Sys2Proof.Machine.execFlagTimeout c s
  | .hardwareClear c => Sys2Proof.Machine.execHardwareClear c s
  | .treadBoundary => Sys2Proof.Machine.execTreadBoundary s
  | .landingRelease task => Sys2Proof.Machine.execLandingRelease task s
  | .landingHoldLimit task => Sys2Proof.Machine.execLandingHoldLimit task s
  | .armedStepChange => Sys2Proof.Machine.execArmedStepChange s
  | .armedWheelChange n => Sys2Proof.Machine.execArmedWheelChange n s
  | .landingReport task epoch report => Sys2Proof.Machine.execLandingReport task epoch report s
  | .releaseMessage task epoch newEpoch kind r => Sys2Proof.Machine.execReleaseMessage task epoch newEpoch kind r s
  | .armedChangeNotice task epoch what step => Sys2Proof.Machine.execArmedChangeNotice task epoch what step s
  | .abortCore task => Sys2Proof.Machine.execAbortCore task s
  | .abortModule task epoch originReason originAddr stamp => Sys2Proof.Machine.execAbortModule task epoch originReason originAddr stamp s
  | .taskFault task => Sys2Proof.Machine.execTaskFault task s
  | .referenceQualified r => Sys2Proof.Machine.execReferenceQualified r s
  | .referenceLost r => Sys2Proof.Machine.execReferenceLost r s
  | .referenceSwitchEnd => Sys2Proof.Machine.execReferenceSwitchEnd s
  | .holdoverLimit => Sys2Proof.Machine.execHoldoverLimit s
  | .beat e phasePs10 => Sys2Proof.Machine.execBeat e phasePs10 s
  | .calendarSecond => Sys2Proof.Machine.execCalendarSecond s
  | .treadCountLoRead f => Sys2Proof.Machine.execTreadCountLoRead f s
  | .calDateRead f => Sys2Proof.Machine.execCalDateRead f s
  | .clkStepAtHiWrite v => Sys2Proof.Machine.execClkStepAtHiWrite v s
  | .nearWheelAtHiWrite n v => Sys2Proof.Machine.execNearWheelAtHiWrite n v s
  | .linkCtlRetrain l => Sys2Proof.Machine.execLinkCtlRetrain l s
  | .linkCtlDisable l => Sys2Proof.Machine.execLinkCtlDisable l s
  | .linkCtlEnable l => Sys2Proof.Machine.execLinkCtlEnable l s
  | .linkOffExit l => Sys2Proof.Machine.execLinkOffExit l s
  | .blockResetHall core h => Sys2Proof.Machine.execBlockResetHall core h s
  | .blockResetLink l => Sys2Proof.Machine.execBlockResetLink l s
  | .blockResetNear n => Sys2Proof.Machine.execBlockResetNear n s
  | .blockResetFar => Sys2Proof.Machine.execBlockResetFar s
  | .blockResetStrm => Sys2Proof.Machine.execBlockResetStrm s
  | .blockResetMesh => Sys2Proof.Machine.execBlockResetMesh s
  | .blockResetSc n => Sys2Proof.Machine.execBlockResetSc n s
  | .queueEnable f q v => Sys2Proof.Machine.execQueueEnable f q v s
  | .queueDisable f q => Sys2Proof.Machine.execQueueDisable f q s
  | .commandTailDoorbell f q v => Sys2Proof.Machine.execCommandTailDoorbell f q v s
  | .replyHeadDoorbell f q v => Sys2Proof.Machine.execReplyHeadDoorbell f q v s
  | .protLockWrite v => Sys2Proof.Machine.execProtLockWrite v s
  | .rcCounterRead f r => Sys2Proof.Machine.execRcCounterRead f r s
  | .registerWrite who offset size v => Sys2Proof.Machine.execRegisterWrite who offset size v s
  | .frameSlot l slot => Sys2Proof.Machine.execFrameSlot l slot s
  | .frameReceipt l f => Sys2Proof.Machine.execFrameReceipt l f s
  | .statusFrame l rx p => Sys2Proof.Machine.execStatusFrame l rx p s
  | .messageAssembled l head group => Sys2Proof.Machine.execMessageAssembled l head group s
  | .twoHopForward l head frame => Sys2Proof.Machine.execTwoHopForward l head frame s
  | .linkMessageLate l head => Sys2Proof.Machine.execLinkMessageLate l head s
  | .rekeyArm l at_ => Sys2Proof.Machine.execRekeyArm l at_ s
  | .epochChange l => Sys2Proof.Machine.execEpochChange l s
  | .oldKeyDestroy l => Sys2Proof.Machine.execOldKeyDestroy l s
  | .leaseExpiry l => Sys2Proof.Machine.execLeaseExpiry l s
  | .noValidFrame l => Sys2Proof.Machine.execNoValidFrame l s
  | .detect l r => Sys2Proof.Machine.execDetect l r s
  | .equalise l => Sys2Proof.Machine.execEqualise l s
  | .align l => Sys2Proof.Machine.execAlign l s
  | .identify l r => Sys2Proof.Machine.execIdentify l r s
  | .secure l cert => Sys2Proof.Machine.execSecure l cert s
  | .timeLink l partnerCount delay offsetPs10 => Sys2Proof.Machine.execTimeLink l partnerCount delay offsetPs10 s
  | .trainingTimeout l => Sys2Proof.Machine.execTrainingTimeout l s
  | .presenceLost l => Sys2Proof.Machine.execPresenceLost l s
  | .backoffExpiry l => Sys2Proof.Machine.execBackoffExpiry l s
  | .trainingLimit l => Sys2Proof.Machine.execTrainingLimit l s
  | .presenceProbe l found => Sys2Proof.Machine.execPresenceProbe l found s
  | .commandFetch f q packet => Sys2Proof.Machine.execCommandFetch f q packet s
  | .eventHoldRelease f => Sys2Proof.Machine.execEventHoldRelease f s
  | .functionReset f => Sys2Proof.Machine.execFunctionReset f s
  | .moduleIdentify r => Sys2Proof.Machine.execModuleIdentify r s
  | .moduleStatus r => Sys2Proof.Machine.execModuleStatus r s
  | .moduleEvents r q => Sys2Proof.Machine.execModuleEvents r q s
  | .moduleReset r => Sys2Proof.Machine.execModuleReset r s
  | .moduleShutdown r => Sys2Proof.Machine.execModuleShutdown r s
  | .modulePowerPolicy r => Sys2Proof.Machine.execModulePowerPolicy r s
  | .moduleFwStage r img => Sys2Proof.Machine.execModuleFwStage r img s
  | .moduleFwActivate r slotB => Sys2Proof.Machine.execModuleFwActivate r slotB s
  | .partitionCreate r => Sys2Proof.Machine.execPartitionCreate r s
  | .partitionDestroy r => Sys2Proof.Machine.execPartitionDestroy r s
  | .partitionAssignHost r owner => Sys2Proof.Machine.execPartitionAssignHost r owner s
  | .partitionQuery r => Sys2Proof.Machine.execPartitionQuery r s
  | .partitionSetTag r tag => Sys2Proof.Machine.execPartitionSetTag r tag s
  | .programLoad r image => Sys2Proof.Machine.execProgramLoad r image s
  | .programAbort r task => Sys2Proof.Machine.execProgramAbort r task s
  | .programUnload r task => Sys2Proof.Machine.execProgramUnload r task s
  | .programStatus r task => Sys2Proof.Machine.execProgramStatus r task s
  | .programSetKey r position id key => Sys2Proof.Machine.execProgramSetKey r position id key s
  | .memberLoadReport b member status membersDigest => Sys2Proof.Machine.execMemberLoadReport b member status membersDigest s
  | .loadReportTimeout b => Sys2Proof.Machine.execLoadReportTimeout b s
  | .loadFailNotice b status failedMember => Sys2Proof.Machine.execLoadFailNotice b status failedMember s
  | .galleryOpen r slot length keyId => Sys2Proof.Machine.execGalleryOpen r slot length keyId s
  | .galleryWrite r slot offset data => Sys2Proof.Machine.execGalleryWrite r slot offset data s
  | .galleryCommit r slot header => Sys2Proof.Machine.execGalleryCommit r slot header s
  | .commitVerifyDone slot => Sys2Proof.Machine.execCommitVerifyDone slot s
  | .galleryErase r slot => Sys2Proof.Machine.execGalleryErase r slot s
  | .eraseDone slot => Sys2Proof.Machine.execEraseDone slot s
  | .galleryGrant r slot owner => Sys2Proof.Machine.execGalleryGrant r slot owner s
  | .gallerySwap r swapId task gref replace slot => Sys2Proof.Machine.execGallerySwap r swapId task gref replace slot s
  | .galleryStatus r slot => Sys2Proof.Machine.execGalleryStatus r slot s
  | .swapReady task member status => Sys2Proof.Machine.execSwapReady task member status s
  | .swapReadyTimeout task => Sys2Proof.Machine.execSwapReadyTimeout task s
  | .swapApply task => Sys2Proof.Machine.execSwapApply task s
  | .swapCopyDone task => Sys2Proof.Machine.execSwapCopyDone task s
  | .swapReport task member result => Sys2Proof.Machine.execSwapReport task member result s
  | .backgroundVerify slot corrected uncorrectable => Sys2Proof.Machine.execBackgroundVerify slot corrected uncorrectable s
  | .streamAppend r indirect => Sys2Proof.Machine.execStreamAppend r indirect s
  | .streamPause r sid => Sys2Proof.Machine.execStreamPause r sid s
  | .streamResume r sid => Sys2Proof.Machine.execStreamResume r sid s
  | .streamEnd r sid => Sys2Proof.Machine.execStreamEnd r sid s
  | .streamFree r sid => Sys2Proof.Machine.execStreamFree r sid s
  | .streamQuery r sid position => Sys2Proof.Machine.execStreamQuery r sid position s
  | .servingLanding turn => Sys2Proof.Machine.execServingLanding turn s
  | .parkComplete sid member result => Sys2Proof.Machine.execParkComplete sid member result s
  | .resumeComplete sid member result => Sys2Proof.Machine.execResumeComplete sid member result s
  | .memoryCreate r store => Sys2Proof.Machine.execMemoryCreate r store s
  | .memoryWrite r store first entries => Sys2Proof.Machine.execMemoryWrite r store first entries s
  | .memoryRead r store first count media => Sys2Proof.Machine.execMemoryRead r store first count media s
  | .memoryDelete r store => Sys2Proof.Machine.execMemoryDelete r store s
  | .memoryAttach r store sid => Sys2Proof.Machine.execMemoryAttach r store sid s
  | .fabricSetManifest r manifest => Sys2Proof.Machine.execFabricSetManifest r manifest s
  | .fabricGetManifest r offset length => Sys2Proof.Machine.execFabricGetManifest r offset length s
  | .fabricLinkCtl r l v => Sys2Proof.Machine.execFabricLinkCtl r l v s
  | .fabricLinkStatus r l => Sys2Proof.Machine.execFabricLinkStatus r l s
  | .securityKeyStatus r => Sys2Proof.Machine.execSecurityKeyStatus r s
  | .securityKeyDiscard r gallery keyId force => Sys2Proof.Machine.execSecurityKeyDiscard r gallery keyId force s
  | .securityLifecycleQuery r => Sys2Proof.Machine.execSecurityLifecycleQuery r s
  | .securityLifecycle r target nonce token => Sys2Proof.Machine.execSecurityLifecycle r target nonce token s
  | .securityCertRead r => Sys2Proof.Machine.execSecurityCertRead r s
  | .diagPennantRead r => Sys2Proof.Machine.execDiagPennantRead r s
  | .diagLogRead r first count => Sys2Proof.Machine.execDiagLogRead r first count s
  | .diagCrashRead r => Sys2Proof.Machine.execDiagCrashRead r s
  | .diagCounters r => Sys2Proof.Machine.execDiagCounters r s
  | .timeSetCalendar r => Sys2Proof.Machine.execTimeSetCalendar r s
  | .timeGet r => Sys2Proof.Machine.execTimeGet r s
  | .keyDeliver session payload => Sys2Proof.Machine.execKeyDeliver session payload s
  | .keyDiscard session payload => Sys2Proof.Machine.execKeyDiscard session payload s
  | .setWriteKey session payload => Sys2Proof.Machine.execSetWriteKey session payload s
  | .getCertificate => Sys2Proof.Machine.execGetCertificate s
  | .challenge nonce => Sys2Proof.Machine.execChallenge nonce s
  | .getMeasurements => Sys2Proof.Machine.execGetMeasurements s
  | .keyExchange p => Sys2Proof.Machine.execKeyExchange p s
  | .pldmFirmwareUpdate img => Sys2Proof.Machine.execPldmFirmwareUpdate img s
  | .keyExpiry slot => Sys2Proof.Machine.execKeyExpiry slot s
  | .nearTierRequest n c instr elem => Sys2Proof.Machine.execNearTierRequest n c instr elem s
  | .patrolScrub n => Sys2Proof.Machine.execPatrolScrub n s
  | .journalFlush bytes => Sys2Proof.Machine.execJournalFlush bytes s
  | .pennantRecord record => Sys2Proof.Machine.execPennantRecord record s
  | .eventLogFlush => Sys2Proof.Machine.execEventLogFlush s
  | .inputOvervoltage => Sys2Proof.Machine.execInputOvervoltage s
  | .inputOvercurrent => Sys2Proof.Machine.execInputOvercurrent s
  | .railFault => Sys2Proof.Machine.execRailFault s
  | .tripRestart q_s => Sys2Proof.Machine.execTripRestart q_s s
  | .avsTrim h deltaMv => Sys2Proof.Machine.execAvsTrim h deltaMv s
  | .powerWindow vIn10mV iIn10mA halls => Sys2Proof.Machine.execPowerWindow vIn10mV iIn10mA halls s
  | .powerExhaustion b => Sys2Proof.Machine.execPowerExhaustion b s
  | .thermalSample t => Sys2Proof.Machine.execThermalSample t s
  | .emergencyStep => Sys2Proof.Machine.execEmergencyStep s
  | .throttleStep h => Sys2Proof.Machine.execThrottleStep h s
  | .throttleEnd => Sys2Proof.Machine.execThrottleEnd s
  | .coolantWarning flow inlet => Sys2Proof.Machine.execCoolantWarning flow inlet s
  | .coolantWarningEnd flow inlet => Sys2Proof.Machine.execCoolantWarningEnd flow inlet s
  | .coolantTrip flow inlet => Sys2Proof.Machine.execCoolantTrip flow inlet s
  | .smbusStuck datLow stillLow => Sys2Proof.Machine.execSmbusStuck datLow stillLow s
  | .por q_s => Sys2Proof.Machine.execPor q_s s
  | .bor rail => Sys2Proof.Machine.execBor rail s
  | .pin lowNs => Sys2Proof.Machine.execPin lowNs s
  | .dbg => Sys2Proof.Machine.execDbg s
  | .wdtSystem => Sys2Proof.Machine.execWdtSystem s
  | .wdtServiceCore n => Sys2Proof.Machine.execWdtServiceCore n s
  | .ckf pll => Sys2Proof.Machine.execCkf pll s
  | .swr => Sys2Proof.Machine.execSwr s
  | .lck n => Sys2Proof.Machine.execLck n s
  | .cmdReset => Sys2Proof.Machine.execCmdReset s
  | .resetTakesEffect => Sys2Proof.Machine.execResetTakesEffect s
  | .rstCountExpiry => Sys2Proof.Machine.execRstCountExpiry s
  | .rails us => Sys2Proof.Machine.execRails us s
  | .optionReader copyA copyB us => Sys2Proof.Machine.execOptionReader copyA copyB us s
  | .enclaveBoot enclaveOk activeOk otherOk img us => Sys2Proof.Machine.execEnclaveBoot enclaveOk activeOk otherOk img us s
  | .hostPush enclaveOk imageOk img => Sys2Proof.Machine.execHostPush enclaveOk imageOk img s
  | .serviceCores us => Sys2Proof.Machine.execServiceCores us s
  | .crossingCalibration worst us => Sys2Proof.Machine.execCrossingCalibration worst us s
  | .nearTierBringup trained us => Sys2Proof.Machine.execNearTierBringup trained us s
  | .farTierBringup holdupMs ready us => Sys2Proof.Machine.execFarTierBringup holdupMs ready us s
  | .linksBringup us => Sys2Proof.Machine.execLinksBringup us s
  | .ready => Sys2Proof.Machine.execReady s
  | .illegalInstruction c word => Sys2Proof.Machine.execIllegalInstruction c word s
  | .inputRestored q_s => Sys2Proof.Machine.execInputRestored q_s s
  | .fecLockLost l presence => Sys2Proof.Machine.execFecLockLost l presence s
  | .pcieLinkUp port rate wide => Sys2Proof.Machine.execPcieLinkUp port rate wide s
  | .blockBackInService b => Sys2Proof.Machine.execBlockBackInService b s
  | .farTierReady => Sys2Proof.Machine.execFarTierReady s
  | .namespaceEraseDone b => Sys2Proof.Machine.execNamespaceEraseDone b s
  | .zeroFillDone b => Sys2Proof.Machine.execZeroFillDone b s

end Sys2Proof.Machine
end

