-- ==== Sys2Proof/Safety.lean ====
section
/-! DEFINITION. The terms in which claims are stated: completion of a command, what a command leaves unchanged,
and when an instruction word issues on a core (R171, R173 to R176). -/

namespace Sys2Proof.Safety

open Sys2Proof.Machine

/-- The command completes in state `s`: exec answers a next state, and `P` holds of it. -/
def Gives (i : Instr) (s : State) (P : State → Prop) : Prop := ∃ t, exec i s = .next t ∧ P t

/-- A safe step: the machine goes on. -/
def SafeStep (s : State) : Prop := ∃ t, step s = .next t

/-- Nothing outside core `c` differs between `s` and `t`. -/
def OnlyCore (c : Nat) (s t : State) : Prop :=
  t = { s with cores := t.cores } ∧ ∀ d, d ≠ c → t.core d = s.core d

/-- Nothing outside core `c` differs, but for the model's own counter of free values (log 1). -/
def OnlyCoreFresh (c : Nat) (s t : State) : Prop :=
  t = { s with cores := t.cores, fresh := t.fresh } ∧ ∀ d, d ≠ c → t.core d = s.core d

/-- Nothing outside core `c` differs, but for the free-value counter, the origin a task keeps of its abort (R235), and packets
and messages of the core's own puts, which a halt may take back (R162). -/
def OnlyCoreHalt (c : Nat) (s t : State) : Prop :=
  t = { s with cores := t.cores, fresh := t.fresh, tasks := t.tasks, mesh := t.mesh, links := t.links } ∧
  (∀ d, d ≠ c → t.core d = s.core d) ∧ t.mesh.Sublist s.mesh ∧
  (∀ p ∈ s.mesh, (p.kind ≠ 3 ∨ p.source ≠ s.globalAddr c) → p ∈ t.mesh) ∧
  ∀ l, (t.link l).txQ.Sublist (s.link l).txQ ∧ t.link l = { s.link l with txQ := (t.link l).txQ } ∧
    ∀ m ∈ (s.link l).txQ, (m.head.kind ≠ 3 ∨ m.head.source ≠ s.globalAddr c) → m ∈ (t.link l).txQ

/-- On one core, nothing but the issue stage's own registers differs: constants, VFLAGS, counters, loops, return
stack, program counter, the tread's state and the exit outcome. Its scratchpad, flags, vector registers, engines, regions and
descriptors are as before. -/
def IssueOnly (k k' : Core) : Prop :=
  k' = { k with k := k'.k, cc := k'.cc, vflags := k'.vflags, loops := k'.loops, lcs := k'.lcs,
                retStack := k'.retStack, pc := k'.pc, fetchBuf := k'.fetchBuf, ord := k'.ord,
                firstPc := k'.firstPc, treadSt := k'.treadSt, exitOut := k'.exitOut, trace := k'.trace }

/-- The word of opcode `op` with fields `w` is at the head of core `c`, which may issue, its wait is met, and no armed
change of the tread is still to be applied (R41). -/
def Presented (s : State) (c op : Nat) (w : IWord) : Prop :=
  (s.core c).mayIssue = true ∧ (s.core c).head = some (.word (encodeWord op w)) ∧ (s.core c).waitMet w = true ∧
  s.changeDue = false

/-- The value of a completion counter. -/
def ccVal (k : Core) (i : Nat) : Nat := (tget 0 k.cc i).toNat

/-- What counter `i` holds once word `w` has issued and consumed its wait (R175). -/
def ccWaited (k : Core) (w : IWord) (i : Nat) : Nat :=
  ccVal k i - (if i = w.wCc.toNat then w.wAmt.toNat else 0)

/-- Whether word `w` signals counter `i` at its completion: 1 or 0. -/
def sigOf (w : IWord) (i : Nat) : Nat := if w.sEn = true ∧ i = w.sCc.toNat then 1 else 0

/-- The signal of word `w` does not take its counter beyond 2^32 - 1. -/
def SignalFits (k : Core) (w : IWord) : Prop :=
  w.sEn = true → ccWaited k w w.sCc.toNat + 1 < 4294967296

/-- The core is HALTED with reason `r` at address `pc`, its fault record names engine `e` and auxiliary word `aux`. -/
def HaltedAt (t : State) (c : Nat) (r : BitVec 8) (pc : BitVec 32) (e : FaultEngine) (aux : BitVec 64) : Prop :=
  (t.core c).st = .halted ∧ (t.core c).reason = r ∧
  ∃ f, (t.core c).fault = some f ∧ f.reason = r ∧ f.address = pc ∧ f.engine = e ∧ f.aux = aux ∧ f.valid = true ∧
    f.stamp = BitVec.ofNat 32 t.clk.treadCount

/-- Word `w` has issued on core `c` and has given its wait and its signal; nothing else of the module differs but the
issue stage's registers of that core. -/
def Issued (s t : State) (c : Nat) (w : IWord) : Prop :=
  OnlyCore c s t ∧ IssueOnly (s.core c) (t.core c) ∧
  ∀ i, ccVal (t.core c) i = ccWaited (s.core c) w i + sigOf w i

/-- The program counter, the loop levels, the return stack, the tread's state and the exit outcome are those of the
sequential step of R183. -/
def NextInOrder (k k' : Core) : Prop :=
  k'.pc = k.advance.pc ∧ k'.loops = k.advance.loops ∧ k'.lcs = k.advance.lcs ∧ k'.retStack = k.retStack ∧
  k'.treadSt = k.treadSt ∧ k'.exitOut = k.exitOut

/-- Constants and VFLAGS are as before. -/
def SameConstants (k k' : Core) : Prop := k'.k = k.k ∧ k'.vflags = k.vflags

/-- An engine instruction has issued: its wait is consumed, the sequencer has stepped on, its signal is still to come;
scratchpad, flags, vector registers, constants, regions, descriptors and the module outside core `c` are as before. -/
def Queued (s t : State) (c : Nat) (w : IWord) : Prop :=
  OnlyCore c s t ∧ NextInOrder (s.core c) (t.core c) ∧ SameConstants (s.core c) (t.core c) ∧
  (∀ i, ccVal (t.core c) i = ccWaited (s.core c) w i) ∧
  (t.core c).mem = (s.core c).mem ∧ (t.core c).flags = (s.core c).flags ∧ (t.core c).vreg = (s.core c).vreg ∧
  (t.core c).rgn = (s.core c).rgn ∧ (t.core c).ad = (s.core c).ad ∧ (t.core c).st = (s.core c).st

/-- A completion gives the signal of tag `g` (R176), and no other counter changes. -/
def Signalled (k k' : Core) (g : Tag) : Prop :=
  ∀ i, ccVal k' i = ccVal k i + (if g.sig.map BitVec.toNat = some i then 1 else 0)

/-- The signal of a tag does not take its counter beyond 2^32 - 1. -/
def TagFits (k : Core) (g : Tag) : Prop := ∀ i, g.sig = some i → ccVal k i.toNat + 1 < 4294967296

/-- On one core, an access or an execution touches the scratchpad, its flags and check bits, the vector registers and
the error counters, and nothing else. -/
def DataOnly (k k' : Core) : Prop :=
  k' = { k with mem := k'.mem, flags := k'.flags, vreg := k'.vreg, badWord := k'.badWord, badFlag := k'.badFlag,
                wback := k'.wback, fback := k'.fback, eccFlag := k'.eccFlag, ceCount := k'.ceCount, eccAddr := k'.eccAddr }

/-! ### Host commands (17) -/

/-- Command `a`, named `r`, of opcode `op` is the next of its queue to be taken up: it has not begun, an ordered one has none
before it under way, its queue is enabled, and no event waits for its function. -/
def CmdReady (s : State) (r : CmdRef) (op : Nat) (a : Accepted) : Prop :=
  s.accepted.find? (fun x => x.on r && !x.started) = some a ∧ a.ref = r ∧ a.opcode.toNat = op ∧ a.discard = false ∧
  (∀ x ∈ s.accepted, x.ref = r → x.started = false) ∧
  (a.ordered = true → ∀ x ∈ s.accepted, x.on r = true → x.started = false) ∧
  s.queueOn r.fn.val r.queue.val = true ∧ s.ringRoom r.fn.val r.queue.val = true ∧ (s.fn r.fn.val).held = []

/-- The newest entry of a queue's reply ring. -/
def newestReply (t : State) (r : CmdRef) : Reply :=
  let q := t.queue r.fn.val r.queue.val
  tget default q.ring ((q.replyTail - 1) % q.n)

/-- The newest reply of a queue is the final reply to `r`, and the command is no longer accepted. -/
def FinalReply (s t : State) (r : CmdRef) (op : Nat) (st : BitVec 16) (p : Payload) : Prop :=
  t.accepted = remFirst (fun x => x.ref == r && !x.started) s.accepted ∧
  (newestReply t r).opcode = BitVec.ofNat 16 op ∧
  (newestReply t r).status = st ∧ (newestReply t r).tag = r.tag ∧ (newestReply t r).payload = p ∧
  (newestReply t r).final = true ∧ (newestReply t r).replayed = false ∧ (newestReply t r).event = false

/-- The command completes at once: its one reply is the final one (R377). -/
def Replied (s t : State) (r : CmdRef) (op : Nat) (st : BitVec 16) (p : Payload) : Prop :=
  FinalReply s t r op st p ∧ (t.queue r.fn.val r.queue.val).replyTail = (s.queue r.fn.val r.queue.val).replyTail + 1

/-- The command's data comes or goes by a transfer: PENDING, then the final reply (R377). -/
def RepliedAfter (s t : State) (r : CmdRef) (op : Nat) (st : BitVec 16) (p : Payload) : Prop :=
  FinalReply s t r op st p ∧ (t.queue r.fn.val r.queue.val).replyTail = (s.queue r.fn.val r.queue.val).replyTail + 2

/-- The command has begun and has replied PENDING; its final reply is to come. -/
def Begun (s t : State) (r : CmdRef) (a : Accepted) : Prop :=
  t.accepted = updFirst (fun x => x.ref == r && !x.started) (fun _ => { a with started := true, begun := true }) s.accepted ∧
  (t.queue r.fn.val r.queue.val).replyTail = (s.queue r.fn.val r.queue.val).replyTail + 1 ∧
  (newestReply t r).status = stPending ∧ (newestReply t r).tag = r.tag ∧ (newestReply t r).final = false

/-- Nothing of the module but the transport differs. -/
def HostOnly (s t : State) : Prop := t = { s with accepted := t.accepted, fns := t.fns }

/-- Of the transport, nothing but one queue, the list of accepted commands and pending bits of vectors differs. -/
def OneQueue (s t : State) (f q : Nat) : Prop :=
  (∀ g, t.fn g = { s.fn g with queues := (t.fn g).queues, pba := (t.fn g).pba }) ∧ (∀ g, g ≠ f → t.fn g = s.fn g) ∧ ∀ g n, g ≠ f ∨ n ≠ q → t.queue g n = s.queue g n

/-- Command `i`, named `r`, replies `st` with `p` and is done; outside its queue the module is as in `u`. -/
def Answers (i : Instr) (s : State) (r : CmdRef) (op : Nat) (st : BitVec 16) (p : Payload) (u : State) : Prop :=
  Gives i s fun t => Replied s t r op st p ∧ OneQueue s t r.fn.val r.queue.val ∧
    t = { u with accepted := t.accepted, fns := t.fns }

/-- Command `i`, named `r`, replies PENDING and then `st` with `p`, and is done; outside its queue the module is as in `u`. -/
def AnswersAfter (i : Instr) (s : State) (r : CmdRef) (op : Nat) (st : BitVec 16) (p : Payload) (u : State) : Prop :=
  Gives i s fun t => RepliedAfter s t r op st p ∧ OneQueue s t r.fn.val r.queue.val ∧
    t = { u with accepted := t.accepted, fns := t.fns }

/-- Command `i` begins, with PENDING; outside its queue the module is as in `u`. -/
def Starts (i : Instr) (s : State) (r : CmdRef) (a : Accepted) (u : State) : Prop :=
  Gives i s fun t => Begun s t r a ∧ OneQueue s t r.fn.val r.queue.val ∧
    t = { u with accepted := t.accepted, fns := t.fns }

/-- Command `a`, named `r`, has begun and waits for its final reply. -/
def Awaits (s : State) (r : CmdRef) (a : Accepted) : Prop :=
  s.accepted.find? (fun x => x.ref == r && x.started) = some a ∧ a.discard = false ∧
  s.queueOn r.fn.val r.queue.val = true ∧ (s.fn r.fn.val).held = []

/-- The final reply of a command that waited is the newest in its ring, and the command is no longer accepted. -/
def Ended (s t : State) (r : CmdRef) (st : BitVec 16) (p : Payload) : Prop :=
  t.accepted = remFirst (fun x => x.ref == r && x.started) s.accepted ∧
  (t.queue r.fn.val r.queue.val).replyTail = (s.queue r.fn.val r.queue.val).replyTail + 1 ∧
  (newestReply t r).status = st ∧ (newestReply t r).tag = r.tag ∧ (newestReply t r).payload = p ∧
  (newestReply t r).final = true

/-- No function has named a queue for its events. -/
def Quiet (s : State) : Prop := ∀ f, (s.fn f).eventQ = none

end Sys2Proof.Safety
end

