-- ==== Sys2Proof/Certificates/Slice0/Obligations.lean ====
section
/-! DEFINITION. The statements for the provers, one `Obligations.<Name>` each; a statement of several parts is the
conjunction of its parts, which stand under `Sys2Proof.Claims`. `Gives i s P` says that exec completes command `i` in state
`s` with a next state of which P holds (Sys2Proof/Safety.lean). -/

open Sys2Proof Sys2Proof.Machine Sys2Proof.Safety

/-! ### The queue -/

/-- A step takes the command at the front of the queue and executes it with the queue's rest; an empty queue idles
(the model's choice, log 7). -/
def Sys2Proof.Claims.StepRunsTheFrontCommand : Prop :=
  ∀ (s : State), (s.pending = [] → step s = .next s) ∧
    ∀ (i : Instr) (rest : List Instr), s.pending = i :: rest → step s = exec i { s with pending := rest }

/-! ### Control instructions (08) -/

/-- NOP and the register modes of SETK (R181, R189, Table 8.5), with wait, signal, sequential step and frame. -/
def Sys2Proof.Claims.SetkModesWriteConstantsAndFlags : Prop :=
  ∀ (s : State) (c : CoreId) (w : IWord), SignalFits (s.core c) w →
    (Presented s c 0x00 w → checkWord w 0 (List.replicate 6 .unused) = none →
      Gives (.nop c w) s fun t => Issued s t c w ∧ NextInOrder (s.core c) (t.core c) ∧
        SameConstants (s.core c) (t.core c)) ∧
    (Presented s c 0x06 w → wMod w 2 0 = 0 → setkBad s c w 0 (s.core c) = none →
      Gives (.setkSet c w) s fun t => Issued s t c w ∧ NextInOrder (s.core c) (t.core c) ∧
        (t.core c).vflags = (s.core c).vflags ∧
        ∀ j, (t.core c).getK j = if j = kIdx w.o0 then wImm w else (s.core c).getK j) ∧
    (Presented s c 0x06 w → wMod w 2 0 = 1 → setkBad s c w 1 (s.core c) = none →
      Gives (.setkAdd c w) s fun t => Issued s t c w ∧ NextInOrder (s.core c) (t.core c) ∧
        (t.core c).vflags = (s.core c).vflags ∧
        ∀ j, (t.core c).getK j = if j = kIdx w.o0 then (s.core c).getK (kIdx w.o0) + wImm w else (s.core c).getK j) ∧
    (Presented s c 0x06 w → wMod w 2 0 = 2 → setkBad s c w 2 (s.core c) = none →
      Gives (.setkCopy c w) s fun t => Issued s t c w ∧ NextInOrder (s.core c) (t.core c) ∧
        (t.core c).vflags = (s.core c).vflags ∧
        ∀ j, (t.core c).getK j = if j = kIdx w.o0 then (s.core c).getK (kIdx w.o1) else (s.core c).getK j) ∧
    (Presented s c 0x06 w → wMod w 2 0 = 4 → setkBad s c w 4 (s.core c) = none →
      Gives (.setkFlags c w) s fun t => Issued s t c w ∧ NextInOrder (s.core c) (t.core c) ∧
        (t.core c).vflags = (s.core c).vflags ∧
        ∀ j, (t.core c).getK j = if j = kIdx w.o0 then (s.core c).vflags.setWidth 32 else (s.core c).getK j) ∧
    (Presented s c 0x06 w → wMod w 2 0 = 5 → setkBad s c w 5 (s.core c) = none →
      Gives (.setkFlagClear c w) s fun t => Issued s t c w ∧ NextInOrder (s.core c) (t.core c) ∧
        (t.core c).k = (s.core c).k ∧
        ∀ i < 10, (t.core c).vflags.getLsbD i = ((s.core c).vflags.getLsbD i && !(wImm w).getLsbD i)) ∧
    (Presented s c 0x06 w → wMod w 2 0 = 6 → setkBad s c w 6 (s.core c) = none →
      Gives (.setkFlagSet c w) s fun t => Issued s t c w ∧ NextInOrder (s.core c) (t.core c) ∧
        (t.core c).k = (s.core c).k ∧
        ∀ i < 10, (t.core c).vflags.getLsbD i = ((s.core c).vflags.getLsbD i || (wImm w).getLsbD i))

/-- SETK in load mode (R75, R181): the 32-bit word that the descriptor names goes to the constant, no flag is emptied and
the scratchpad keeps its bytes. -/
def Sys2Proof.Claims.SetkLoadReadsTheScratchpad : Prop :=
  ∀ (s : State) (c : CoreId) (w : IWord) (k1 : Core) (d : List Byte), SignalFits (s.core c) w →
    Presented s c 0x06 w → wMod w 2 0 = 3 → setkBad s c w 3 (s.core c) = none →
    ((s.core c).take w).readAcc (s.coreBanner c) .control ((s.core c).baseOf w.o1) 4 = .done k1 d →
      Gives (.setkLoad c w) s fun t => OnlyCore c s t ∧
        d = memRead (s.core c).mem ((s.core c).baseOf w.o1) 4 ∧
        (∀ j, (t.core c).getK j = if j = kIdx w.o0 then BitVec.ofNat 32 (leNat d) else (s.core c).getK j) ∧
        (t.core c).mem = (s.core c).mem ∧ (t.core c).flags = (s.core c).flags ∧
        (t.core c).vreg = (s.core c).vreg ∧ (t.core c).vflags = (s.core c).vflags ∧
        ∀ i, ccVal (t.core c) i = ccWaited (s.core c) w i + sigOf w i

/-- WAITCC, SIGNAL and FENCE (R175, R176, R187): what they take from and add to the completion counters. -/
def Sys2Proof.Claims.CountersWaitAndSignal : Prop :=
  ∀ (s : State) (c : CoreId) (w : IWord),
    (Presented s c 0x07 w → checkWord w 0 ([.num 15, .sel [.konst, .imm], .unused, .unused] ++ immUse (isImm w.o1)) = none →
      SignalFits (s.core c) w → constOrImm (s.core c) w w.o1 ≠ 0 →
      constOrImm (s.core c) w w.o1 + (if w.wCc.toNat = ccIdx w.o0 then w.wAmt.toNat else 0) ≤
        ccVal (s.core c) (ccIdx w.o0) →
      Gives (.waitcc c w) s fun t => OnlyCore c s t ∧ IssueOnly (s.core c) (t.core c) ∧
        NextInOrder (s.core c) (t.core c) ∧ SameConstants (s.core c) (t.core c) ∧
        ∀ i, ccVal (t.core c) i = ccWaited (s.core c) w i -
          (if i = ccIdx w.o0 then constOrImm (s.core c) w w.o1 else 0) + sigOf w i) ∧
    (Presented s c 0x08 w → checkWord w 0 ([.num 15, .sel [.konst, .imm], .unused, .unused] ++ immUse (isImm w.o1)) = none →
      constOrImm (s.core c) w w.o1 ≠ 0 →
      (∀ i, ccWaited (s.core c) w i + (if i = ccIdx w.o0 then constOrImm (s.core c) w w.o1 else 0) + sigOf w i < 4294967296) →
      Gives (.signalCc c w) s fun t => OnlyCore c s t ∧ IssueOnly (s.core c) (t.core c) ∧
        NextInOrder (s.core c) (t.core c) ∧ SameConstants (s.core c) (t.core c) ∧
        ∀ i, ccVal (t.core c) i = ccWaited (s.core c) w i +
          (if i = ccIdx w.o0 then constOrImm (s.core c) w w.o1 else 0) + sigOf w i) ∧
    (Presented s c 0x0B w → checkWord w 15 (List.replicate 6 .unused) = none → SignalFits (s.core c) w →
      (s.core c).fenceMet (wMod w 3 0) = true →
      Gives (.fence c w) s fun t => Issued s t c w ∧ NextInOrder (s.core c) (t.core c) ∧
        SameConstants (s.core c) (t.core c))

/-- NOP, SETK, WAITCC, SIGNAL and FENCE (R75, R175, R176, R181, R187, R189). -/
def Obligations.ConstantsAndCountersAreWritten : Prop :=
  Sys2Proof.Claims.SetkModesWriteConstantsAndFlags ∧
  Sys2Proof.Claims.SetkLoadReadsTheScratchpad ∧
  Sys2Proof.Claims.CountersWaitAndSignal

/-- JUMP, CALL and RET (R185): where the program counter goes and what the return stack holds. -/
def Obligations.JumpCallReturnRedirect : Prop :=
  ∀ (s : State) (c : CoreId) (w : IWord), SignalFits (s.core c) w →
    (Presented s c 0x03 w → checkWord w 0 (List.replicate 4 .unused ++ [.half, .half]) (pcRsv w) = none →
      jumpBad (s.core c) (wImm w) = false →
      Gives (.jump c w) s fun t => Issued s t c w ∧ SameConstants (s.core c) (t.core c) ∧
        (t.core c).pc = wImm w ∧ (t.core c).retStack = (s.core c).retStack ∧ (t.core c).lcs = (s.core c).lcs) ∧
    (Presented s c 0x04 w → checkWord w 0 (List.replicate 4 .unused ++ [.half, .half]) (pcRsv w) = none →
      (s.core c).lastOfBody = false → (s.core c).retStack.length < 8 →
      Gives (.call c w) s fun t => Issued s t c w ∧ SameConstants (s.core c) (t.core c) ∧
        (t.core c).pc = wImm w ∧ (t.core c).retStack = ((s.core c).pc + 16) :: (s.core c).retStack ∧
        (t.core c).lcs = (s.core c).lcs) ∧
    (Presented s c 0x05 w → checkWord w 0 (List.replicate 6 .unused) = none →
      (s.core c).lastOfBody = false → (s.core c).innermost = none →
      ∀ a l, (s.core c).retStack = a :: l →
      Gives (.ret c w) s fun t => Issued s t c w ∧ SameConstants (s.core c) (t.core c) ∧
        (t.core c).pc = a ∧ (t.core c).retStack = l ∧ (t.core c).lcs = (s.core c).lcs) ∧
    (Presented s c 0x04 w → checkWord w 0 (List.replicate 4 .unused ++ [.half, .half]) (pcRsv w) = none →
      (s.core c).lastOfBody = false → 8 ≤ (s.core c).retStack.length →
      Gives (.call c w) s fun t => (t.core c).st = .halted ∧ (t.core c).reason = 0x04) ∧
    (Presented s c 0x05 w → checkWord w 0 (List.replicate 6 .unused) = none →
      (s.core c).lastOfBody = false → (s.core c).innermost = none → (s.core c).retStack = [] →
      Gives (.ret c w) s fun t => (t.core c).st = .halted ∧ (t.core c).reason = 0x04) ∧
    (pcRsv w = true →
      (Presented s c 0x03 w → Gives (.jump c w) s fun t => (t.core c).st = .halted ∧ (t.core c).reason = 0x01) ∧
      (Presented s c 0x04 w → Gives (.call c w) s fun t => (t.core c).st = .halted ∧ (t.core c).reason = 0x01) ∧
      (Presented s c 0x0C w → (s.core c).following ≠ none →
        Gives (.exitRound c w) s fun t => (t.core c).st = .halted ∧ (t.core c).reason = 0x01))

/-- LOOP (R182): a count of 0 goes past the body; any other count opens the level with that many iterations, and the
body begins at the next instruction. -/
def Sys2Proof.Claims.LoopOpensItsLevelOrSkips : Prop :=
  ∀ (s : State) (c : CoreId) (w : IWord), Presented s c 0x02 w → SignalFits (s.core c) w →
    checkWord w 3 ([.sel [.konst, .imm], .num 65535, .unused, .unused] ++ immUse (isImm w.o0)) = none →
    loopBad (s.core c) (wMod w 1 0) w.o1.toNat = false →
    Gives (.loop c w) s fun t => Issued s t c w ∧ SameConstants (s.core c) (t.core c) ∧
      (t.core c).retStack = (s.core c).retStack ∧
      (BitVec.ofNat 32 (constOrImm (s.core c) w w.o0) = 0 →
        (t.core c).pc = (s.core c).pc + BitVec.ofNat 32 (16 * (w.o1.toNat + 1)) ∧
        (t.core c).loops = (s.core c).loops) ∧
      (BitVec.ofNat 32 (constOrImm (s.core c) w w.o0) ≠ 0 →
        (t.core c).pc = (s.core c).advance.pc ∧
        ∃ l, tget default (t.core c).loops (wMod w 1 0) = l ∧
          l.count = BitVec.ofNat 32 (constOrImm (s.core c) w w.o0) ∧ l.first = (s.core c).pc + 16 ∧
          l.last = (s.core c).pc + BitVec.ofNat 32 (16 * w.o1.toNat) ∧ l.depth = (s.core c).retStack.length)

/-- LAND and EXIT (R27, R186, R188): the tread is closed, and the exit outcome is kept for the landing. -/
def Obligations.LandClosesAndExitChooses : Prop :=
  ∀ (s : State) (c : CoreId) (w : IWord), SignalFits (s.core c) w →
    (Presented s c 0x09 w → checkWord w 0 (List.replicate 6 .unused) = none →
      Gives (.land c w) s fun t => OnlyCoreFresh c s t ∧ IssueOnly (s.core c) (t.core c) ∧
        SameConstants (s.core c) (t.core c) ∧ (t.core c).treadSt = .landed ∧ (t.core c).pc = (s.core c).advance.pc ∧
        ∀ i, ccVal (t.core c) i = ccWaited (s.core c) w i + sigOf w i) ∧
    (∀ (x : BitVec 128) (k1 : Core) (d : List Byte), Presented s c 0x0C w →
      (s.core c).following = some (.word x) → opcodeOf x = 0x09 → s.lastTread c = true →
      (s.core c).lastOfBody = false →
      checkWord w 0 [.sel [.desc], .unused, .unused, .unused, .half, .half] (pcRsv w) = none →
      s.checkDesc c (s.core c) w.o0 [0] = none → (s.core c).baseOf w.o0 % 8 = 0 →
      ((s.core c).take w).readAcc (s.coreBanner c) .control ((s.core c).baseOf w.o0) 8 = .done k1 d →
      Gives (.exitRound c w) s fun t => OnlyCore c s t ∧
        (t.core c).exitOut = (if leNat (memRead (s.core c).mem ((s.core c).baseOf w.o0) 8) = 0 then none
                              else some (wImm w)) ∧
        (t.core c).mem = (s.core c).mem ∧ (t.core c).flags = (s.core c).flags ∧
        (t.core c).pc = (s.core c).advance.pc ∧ (t.core c).k = (s.core c).k ∧
        ∀ i, ccVal (t.core c) i = ccWaited (s.core c) w i + sigOf w i)

/-- UNTIL (R29): with tread n current it completes at once, for a later one the core waits until the boundary that begins tread n,
and a tread that has passed halts the core with 0x30. -/
def Obligations.UntilWaitsForItsTread : Prop :=
  ∀ (s : State) (c : CoreId) (w : IWord), SignalFits (s.core c) w →
    (Presented s c 0x0A w →
      checkWord w 0 ([.sel [.konst, .imm], .unused, .unused, .unused] ++ immUse (isImm w.o0)) = none →
      (constOrImm (s.core c) w w.o0 = s.treadOf c →
        Gives (.untilTread c w) s fun t => Issued s t c w ∧ NextInOrder (s.core c) (t.core c) ∧
          SameConstants (s.core c) (t.core c)) ∧
      (s.treadOf c < constOrImm (s.core c) w w.o0 →
        Gives (.untilTread c w) s fun t => OnlyCore c s t ∧ IssueOnly (s.core c) (t.core c) ∧
          SameConstants (s.core c) (t.core c) ∧ (t.core c).pc = (s.core c).advance.pc ∧
          (∃ g : Tag, (t.core c).treadSt = .untilT (constOrImm (s.core c) w w.o0) g ∧
            g.sig = if w.sEn then some w.sCc else none) ∧
          ∀ i, ccVal (t.core c) i = ccWaited (s.core c) w i) ∧
      (constOrImm (s.core c) w w.o0 < s.treadOf c →
        Gives (.untilTread c w) s fun t => OnlyCoreHalt c s t ∧ HaltedAt t c 0x30 (s.core c).pc .none 0)) ∧
    (∀ n g next, (s.core c).st = .running → (s.core c).treadSt = .untilT n g →
      (n ≠ next → ((s.openTread c next false).core c).treadSt = .untilT n g ∧
        ((s.openTread c next false).core c).cc = (s.core c).cc) ∧
      (n = next → TagFits (s.core c) g → ((s.openTread c next false).core c).treadSt = .open_ ∧
        ((s.openTread c next false).core c).pc = (s.core c).pc ∧
        Signalled (s.core c) ((s.openTread c next false).core c) g))

/-- HALT, an unassigned opcode, an overrun of grace and the fetch unit (R168, R171, R189, R191, R76). -/
def Obligations.HaltIllegalFetchAndFlagTimeout : Prop :=
  ∀ (s : State) (c : CoreId),
    (∀ w, Presented s c 0x01 w → checkWord w 0 (List.replicate 4 .unused ++ [.half, .half]) = none →
      Gives (.halt c w) s fun t => OnlyCoreHalt c s t ∧
        HaltedAt t c 0x0F (s.core c).pc (.of .control) (BitVec.ofNat 64 (wImm w).toNat) ∧
        (t.core c).mem = (s.core c).mem ∧ (t.core c).vreg = (s.core c).vreg ∧ (t.core c).k = (s.core c).k) ∧
    (∀ x, (s.core c).mayIssue = true → s.changeDue = false → (s.core c).head = some (.word x) →
      assignedOp (opcodeOf x) = false →
      Gives (.illegalInstruction c x) s fun t => OnlyCoreHalt c s t ∧
        HaltedAt t c 0x00 (s.core c).pc (.of (engineOf (opcodeOf x))) 0 ∧
        (t.core c).mem = (s.core c).mem ∧ (t.core c).cc = (s.core c).cc) ∧
    (∀ a, (s.core c).st = .running → nextFetch (s.core c).fetchBuf 32 (s.core c).pc = some a →
      (∀ k1 d, (s.core c).readAcc (s.coreBanner c) .fetch a.toNat 16 = .done k1 d →
        Gives (.instructionFetch c) s fun t => OnlyCore c s t ∧ (t.core c).mem = (s.core c).mem ∧
          (t.core c).flags = (s.core c).flags ∧ (t.core c).pc = (s.core c).pc ∧ (t.core c).cc = (s.core c).cc ∧
          (t.core c).fetchBuf = (s.core c).fetchBuf ++
            [(a, .word (BitVec.ofNat 128 (leNat (memRead (s.core c).mem a.toNat 16))))]) ∧
      (∀ k1 r aux, (s.core c).readAcc (s.coreBanner c) .fetch a.toNat 16 = .bad k1 r aux →
        Gives (.instructionFetch c) s fun t => OnlyCore c s t ∧ (t.core c).st = .running ∧
          (t.core c).mem = (s.core c).mem ∧ (t.core c).pc = (s.core c).pc ∧ (t.core c).cc = (s.core c).cc ∧
          (t.core c).fetchBuf = (s.core c).fetchBuf ++ [(a, .fault r aux)])) ∧
    ((s.core c).st ≠ .halted → (s.core c).refusals ≠ [] →
      Gives (.flagTimeout c) s fun t => OnlyCoreHalt c s t ∧ ∃ r ∈ (s.core c).refusals,
        HaltedAt t c (if r.write then 0x21 else 0x20) r.pc (.of r.engine) 0)

/-- The end of a loop body (R183): with one body ending at the program counter, its level repeats while iterations
remain and closes at the last; no body ending there, the next instruction follows. -/
def Sys2Proof.Claims.LoopEndRepeatsOrCloses : Prop :=
  ∀ (k : Core), (k.lastOfBody = false → k.advance.pc = k.pc + 16) ∧
    ∀ i l, k.innermost = some (i, l) → l.last = k.pc →
      (l.count ≠ 1 → k.advance.pc = l.first ∧ tget default k.advance.lcs i = l.count - 1) ∧
      (l.count = 1 → (∀ j m, { k with loops := tdel k.loops i }.innermost = some (j, m) → m.last ≠ k.pc) →
        tget 0 k.advance.lcs i = 0 ∧ k.advance.pc = k.pc + 16)

/-- Hardware loops (R182, R183). -/
def Obligations.LoopsOpenRepeatAndClose : Prop :=
  Sys2Proof.Claims.LoopOpensItsLevelOrSkips ∧
  Sys2Proof.Claims.LoopEndRepeatsOrCloses

/-! ### Matrix (05, 09) -/

/-- M.SCALE, M.RUN, M.DRAIN and M.CLEAR at issue (R89, R91, R113, R198, R199): the pass they open, extend or close; the
accumulators keep their lanes, and the other set keeps its pass. -/
def Sys2Proof.Claims.MatrixPassesOpenRunAndClose : Prop :=
  ∀ (s : State) (c : CoreId) (w : IWord), (s.core c).matAccepts = true →
    (Presented s c 0x24 w → checkWord w 1 [.num 511, .num 511, .num 511, .unused, .unused, .unused] = none →
      ((s.core c).pass (wMod w 0 0)).isOpen = false →
      Gives (.mScale c w) s fun t => Queued s t c w ∧ (t.core c).mat.acc = (s.core c).mat.acc ∧
        (∀ x, x ≠ wMod w 0 0 → (t.core c).pass x = (s.core c).pass x) ∧
        ((t.core c).pass (wMod w 0 0)).isOpen = true ∧ ((t.core c).pass (wMod w 0 0)).hasRun = false ∧
        ((t.core c).pass (wMod w 0 0)).kTotal = 0 ∧
        ((t.core c).pass (wMod w 0 0)).scaleA = sextInt 9 w.o0.toNat ∧
        ((t.core c).pass (wMod w 0 0)).scaleB = sextInt 9 w.o1.toNat ∧
        ((t.core c).pass (wMod w 0 0)).drainE = sextInt 9 w.o2.toNat) ∧
    (Presented s c 0x21 w →
      checkWord w 0x0F [.sel [.desc], .num 0xFF, .num 0xFFFF, .num 0x3FFF, .num 0x3FF, .unused] = none →
      s.checkDesc c (s.core c) w.o0 [0] = none → mRunBad c w (s.core c) = none →
      Gives (.mRun c w) s fun t => Queued s t c w ∧ (t.core c).mat.acc = (s.core c).mat.acc ∧
        (∀ x, x ≠ wMod w 0 0 → (t.core c).pass x = (s.core c).pass x) ∧
        ((t.core c).pass (wMod w 0 0)).isOpen = true ∧ ((t.core c).pass (wMod w 0 0)).hasRun = true ∧
        ((t.core c).pass (wMod w 0 0)).kTotal = ((s.core c).pass (wMod w 0 0)).kTotal +
          w.o2.toNat * 2 ^ wMod w 3 2 * kStep (fieldOf w.o1.toNat 7 4) (fieldOf w.o1.toNat 3 0) ∧
        (((s.core c).pass (wMod w 0 0)).hasRun = true →
          ((t.core c).pass (wMod w 0 0)).anchor = ((s.core c).pass (wMod w 0 0)).anchor) ∧
        (((s.core c).pass (wMod w 0 0)).hasRun = false → ((t.core c).pass (wMod w 0 0)).anchor =
          anchorOf (fieldOf w.o1.toNat 7 4) (fieldOf w.o1.toNat 3 0)
            (clampScale (fieldOf w.o1.toNat 7 4) ((s.core c).pass (wMod w 0 0)).scaleA)
            (clampScale (fieldOf w.o1.toNat 3 0) ((s.core c).pass (wMod w 0 0)).scaleB)) ∧
        ∃ o, (t.core c).mat.aq = (s.core c).mat.aq ++ [o] ∧ o.tag = s.tagOf c w) ∧
    (Presented s c 0x22 w →
      checkWord w 0x07 [.sel [.desc], scaleUse w.o2.toNat, .num 15, .unused, .unused, .unused] = none →
      s.checkDesc c (s.core c) w.o0 [0] = none →
      (hasPlane w.o2.toNat = true → s.checkDesc c (s.core c) w.o1 [0] = none) → mDrainBad w (s.core c) = none →
      Gives (.mDrain c w) s fun t => Queued s t c w ∧ (t.core c).mat.acc = (s.core c).mat.acc ∧
        (∀ x, x ≠ wMod w 0 0 → (t.core c).pass x = (s.core c).pass x) ∧ (t.core c).pass (wMod w 0 0) = Pass.reset ∧
        ∃ o, (t.core c).mat.dq = (s.core c).mat.dq ++ [o] ∧ o.tag = s.tagOf c w ∧ o.free = false ∧
          o.set = (wMod w 0 0 == 1)) ∧
    (Presented s c 0x23 w → checkWord w 0x01 (List.replicate 6 .unused) = none →
      Gives (.mClear c w) s fun t => Queued s t c w ∧ (t.core c).mat.acc = (s.core c).mat.acc ∧
        (∀ x, x ≠ wMod w 0 0 → (t.core c).pass x = (s.core c).pass x) ∧ (t.core c).pass (wMod w 0 0) = Pass.reset ∧
        ∃ o, (t.core c).mat.dq = (s.core c).mat.dq ++ [o] ∧ o.tag = s.tagOf c w ∧ o.free = false ∧
          o.set = (wMod w 0 0 == 1))

/-- The checks of M.LOADX at issue (R90, R110, R111, R121). -/
def Sys2Proof.Safety.LoadxPasses (s : State) (c : Nat) (w : IWord) : Prop :=
  checkWord w 0x01 [.sel [.desc], scaleUse w.o2.toNat, .num 15, .num 0x7FFF, .num 63, .unused] = none ∧
  s.checkDesc c (s.core c) w.o0 [0] = none ∧
  (hasPlane w.o2.toNat = true → s.checkDesc c (s.core c) w.o1 [0] = none) ∧ bFmtOk w.o2.toNat = true ∧
  w.o3.toNat ≠ 0 ∧ w.o3.toNat % 8 = 0 ∧ w.o3.toNat ≤ maxK c w.o2.toNat ∧ w.o4.toNat ≠ 0 ∧ w.o4.toNat ≤ arrN c ∧
  (s.core c).baseOf w.o0 % 2048 = 0 ∧ (hasPlane w.o2.toNat = true → (s.core c).baseOf w.o1 % 2048 = 0)

/-- M.FLIGHT and M.LOADX at issue (R109 to R111): what they queue, and the loaded K and coverage that later issue checks
see. An M.LOADX that cannot start yet leaves the half's elements. -/
def Sys2Proof.Claims.FlightAndLoadxQueue : Prop :=
  ∀ (s : State) (c : CoreId) (w : IWord), (s.core c).matAccepts = true →
    (Presented s c 0x25 w → wMod w 1 0 = 0 →
      checkWord w 0x03 [.sel [.desc], .num 0xFF, .unused, .unused, .unused, .unused] = none →
      s.checkDesc c (s.core c) w.o0 [0] = none → 1 ≤ w.o1.toNat → w.o1.toNat ≤ 4 →
      tileAligned c ((s.core c).baseOf w.o0) = true →
      Gives (.mFlight c w) s fun t => Queued s t c w ∧ (t.core c).mat.flight = (s.core c).mat.flight ∧
        (t.core c).mat.flMode = .flight ∧ (t.core c).mat.flQ = w.o1.toNat ∧
        ∃ o, (t.core c).mat.aq = (s.core c).mat.aq ++ [o] ∧ o.tag = s.tagOf c w ∧ o.done = false) ∧
    (Presented s c 0x25 w → wMod w 1 0 = 1 →
      checkWord w 0x03 [.sel [.desc], .num 0xFF, .unused, .unused, .unused, .unused] = none →
      s.checkDesc c (s.core c) w.o0 [0] = none → 1 ≤ w.o1.toNat → w.o1.toNat ≤ 128 →
      tileAligned c ((s.core c).baseOf w.o0) = true →
      Gives (.mFlight c w) s fun t => Queued s t c w ∧ (t.core c).mat.flight = (s.core c).mat.flight ∧
        (t.core c).mat.flMode = .scale ∧ (t.core c).mat.flQ = w.o1.toNat ∧
        ∃ o, (t.core c).mat.aq = (s.core c).mat.aq ++ [o] ∧ o.tag = s.tagOf c w ∧ o.done = false) ∧
    (Presented s c 0x25 w → wMod w 1 0 = 2 →
      checkWord w 0x03 [.unused, .unused, .unused, .unused, .half, .half] (fieldOf (wImm w).toNat 31 8 != 0) = none →
      Gives (.mFlight c w) s fun t => Queued s t c w ∧ (t.core c).mat.flight = (s.core c).mat.flight ∧
        (t.core c).mat.flMode = .uniform ∧
        ∃ o, (t.core c).mat.aq = (s.core c).mat.aq ++ [o] ∧ o.tag = s.tagOf c w ∧ o.done = false) ∧
    (Presented s c 0x20 w → LoadxPasses s c w →
      (∃ a ∈ (s.core c).mat.aq, a.done = false ∧ a.tag.ord < (s.core c).ord ∧
        ∃ g st b fa fb gg m l ko sa sb an tk fl sc,
          a = .run g st (wMod w 0 0 == 1) b fa fb gg m l ko sa sb an tk fl sc) →
      Gives (.mLoadx c w) s fun t => Queued s t c w ∧ (t.core c).mat.xElem = (s.core c).mat.xElem ∧
        tget 0 (t.core c).mat.xK (half (wMod w 0 0 == 1)) = w.o3.toNat ∧
        tget 0 (t.core c).mat.xCols (half (wMod w 0 0 == 1)) = w.o4.toNat ∧
        ∃ o, (t.core c).mat.xq = (s.core c).mat.xq ++ [o] ∧ o.tag = s.tagOf c w ∧ o.copied = false)

/-- The matrix instructions at issue (R89 to R91, R109 to R113, R198, R199). -/
def Obligations.MatrixInstructionsQueue : Prop :=
  Sys2Proof.Claims.MatrixPassesOpenRunAndClose ∧
  Sys2Proof.Claims.FlightAndLoadxQueue

/-- One line of the A unit (R106, R109, R112, R116, R117): the products of the line go into the lanes of the run's set, exactly
as `lineSum` adds them, the M.SCALE of the pass gives its signal with the first line, and nothing outside the core changes; a
line of M.FLIGHT goes into the flight store. -/
def Sys2Proof.Claims.ArrayLineAccumulatesOrLoadsTables : Prop :=
  ∀ (s : State) (c : CoreId), (s.core c).engineOn = true →
    (∀ g st h b fa fb gg m l ko sa sb an tk fl sc k1 d,
      (s.core c).mat.aq.find? (fun a => !a.done) = some (.run g st h b fa fb gg m l ko sa sb an tk fl sc) →
      (s.core c).begun g.ord = true → runFree (s.core c) g.ord st h = true →
      (s.core c).readAcc (s.coreBanner c) .matrixR (lineAddr c b.toNat tk) (lineBytes c fa.toNat fb.toNat) = .done k1 d →
      trapOf (s.core c).vflags (lineSum c (s.core c).mat (half st) (half h) fa.toNat fb.toNat gg m ko tk sa sb an d).2 =
        none →
      (∀ x, sc = some x → TagFits (s.core c) x) →
      Gives (.arrayLine c) s fun t => OnlyCore c s t ∧ (t.core c).mem = (s.core c).mem ∧
        tget [] (t.core c).mat.acc (half st) =
          (lineSum c (s.core c).mat (half st) (half h) fa.toNat fb.toNat gg m ko tk sa sb an d).1 ∧
        (∀ x, x ≠ half st → tget [] (t.core c).mat.acc x = tget [] (s.core c).mat.acc x) ∧
        (t.core c).vflags = (s.core c).vflags ∧ (t.core c).k = (s.core c).k ∧
        (t.core c).vreg = (s.core c).vreg ∧ (sc = none → (t.core c).cc = (s.core c).cc) ∧
        ∀ x, sc = some x → Signalled (s.core c) (t.core c) x) ∧
    (∀ g b q u l tk,
      (s.core c).mat.aq.find? (fun a => !a.done) = some (.flight g .uniform b q u l tk) →
      (s.core c).begun g.ord = true →
      Gives (.arrayLine c) s fun t => OnlyCore c s t ∧ (t.core c).mem = (s.core c).mem ∧
        (t.core c).mat.liveMode = .uniform ∧ (t.core c).mat.liveUnif = u ∧
        (t.core c).mat.flight = (s.core c).mat.flight ∧ (t.core c).mat.acc = (s.core c).mat.acc)

/-- A trap of R104 on a line: the core halts with the window or the invalid reason at the run's address. -/
def Sys2Proof.Claims.ArrayLineTraps : Prop :=
  ∀ (s : State) (c : CoreId) (g : Tag) (st h : Bool) (b : BitVec 32) (fa fb : BitVec 4) (gg m l ko : Nat)
    (sa sb an : Int) (tk : Nat) (fl : Flags) (sc : Option Tag) (k1 : Core) (d : List Byte) (r : BitVec 8) (row col : Nat),
    (s.core c).engineOn = true →
    (s.core c).mat.aq.find? (fun a => !a.done) = some (.run g st h b fa fb gg m l ko sa sb an tk fl sc) →
    (s.core c).begun g.ord = true → runFree (s.core c) g.ord st h = true →
    (s.core c).readAcc (s.coreBanner c) .matrixR (lineAddr c b.toNat tk) (lineBytes c fa.toNat fb.toNat) = .done k1 d →
    trapOf (s.core c).vflags (lineSum c (s.core c).mat (half st) (half h) fa.toNat fb.toNat gg m ko tk sa sb an d).2 =
      some (r, row, col) →
    (∀ x, sc = some x → TagFits (s.core c) x) →
    (r = 0x50 ∨ r = 0x51) ∧
    Gives (.arrayLine c) s fun t => OnlyCoreHalt c s t ∧ HaltedAt t c r g.pc (.of .matrix) (trapAux (half st) row col
      (fl ||| orFlags (lineSum c (s.core c).mat (half st) (half h) fa.toNat fb.toNat gg m ko tk sa sb an d).2))

/-- One line of the A unit, with its traps (R104, R106, R109, R112, R117). -/
def Obligations.ArrayLinesAccumulateOrTrap : Prop :=
  Sys2Proof.Claims.ArrayLineAccumulatesOrLoadsTables ∧
  Sys2Proof.Claims.ArrayLineTraps

/-- The snapshot of a drain frees its set (R113); an M.CLEAR discards its set when it completes; a completed M.RUN puts its
flags into VFLAGS (R103); each gives its signal (R116). -/
def Obligations.SnapshotsAndMatrixCompletions : Prop :=
  ∀ (s : State) (c : CoreId), (s.core c).engineOn = true →
    (∀ g st sat fo ds sc fm dE an gg m w f l,
      (s.core c).mat.dq = .drain g st sat fo ds sc fm dE an gg m false w f :: l →
      (s.core c).begun g.ord = true → drainFree (s.core c) g.ord st = true →
      Gives (.drainSnapshot c) s fun t => OnlyCore c s t ∧ (t.core c).mem = (s.core c).mem ∧
        (t.core c).mat.drainBuf = tget [] (s.core c).mat.acc (half st) ∧
        tget [] (t.core c).mat.acc (half st) = [] ∧
        (∀ x, x ≠ half st → tget [] (t.core c).mat.acc x = tget [] (s.core c).mat.acc x) ∧
        (t.core c).mat.dq = .drain g st sat fo ds sc fm dE an gg m true w f :: l ∧ (t.core c).cc = (s.core c).cc) ∧
    (∀ g st b l, s.matOrder c = .d (.clear g st none b) :: l → TagFits (s.core c) g →
      Gives (.matrixCompletion c) s fun t => OnlyCoreFresh c s t ∧ (t.core c).mem = (s.core c).mem ∧
        tget [] (t.core c).mat.acc (half st) = [] ∧
        (∀ x, x ≠ half st → tget [] (t.core c).mat.acc x = tget [] (s.core c).mat.acc x) ∧
        (t.core c).mat.dq = (s.core c).mat.dq.tail ∧ (t.core c).vflags = (s.core c).vflags ∧
        Signalled (s.core c) (t.core c) g) ∧
    (∀ g st h b fa fb gg m n ko sa sb an tk fl sc l,
      s.matOrder c = .a (.run g st h b fa fb gg m n ko sa sb an tk fl sc) :: l → TagFits (s.core c) g →
      Gives (.matrixCompletion c) s fun t => OnlyCoreFresh c s t ∧ (t.core c).mem = (s.core c).mem ∧
        (t.core c).mat.acc = (s.core c).mat.acc ∧
        (t.core c).vflags = (s.core c).vflags ||| fl.setWidth 10 ∧
        (t.core c).mat.aq = remFirst (fun y => y.tag.ord == g.ord) (s.core c).mat.aq ∧
        Signalled (s.core c) (t.core c) g) ∧
    (∀ o l k1, s.matOrder c = .x o :: l → o.copied = false →
      loadHalf c (s.coreBanner c) o ((o.accesses c).drop o.reads) (s.core c) = .done k1 [] → TagFits (s.core c) o.tag →
      Gives (.matrixCompletion c) s fun t => OnlyCoreFresh c s t ∧ (t.core c).mem = (s.core c).mem ∧
        (t.core c).mat.xElem = k1.mat.xElem ∧ (t.core c).mat.xScale = k1.mat.xScale ∧
        tget 0 (t.core c).mat.xLive (half o.half) = o.cols ∧ Signalled (s.core c) (t.core c) o.tag)

/-- The exact accumulation of R92 and R95: products that are finite and in range are summed as 64-bit integers in units
of 2^(anchor - 40), so their order does not matter. -/
def Obligations.ExactSumsDoNotDependOnOrder : Prop :=
  ∀ (anchor : Int) (l : Lane) (ps qs : List (ArrElem × ArrElem)), ps.Perm qs → l.st = .finite →
    (∀ p ∈ ps, arrProduct anchor p.1 p.2 = .none ∨ ∃ x w, arrProduct anchor p.1 p.2 = .fin x w) →
    (laneSum anchor l ps).1 = (laneSum anchor l qs).1 ∧ (laneSum anchor l ps).2 = (laneSum anchor l qs).2

/-! ### Vector and set (06, 09) -/

/-- The 23 V. instructions with their opcodes (Table 9.1). -/
def Sys2Proof.Safety.vectorRows (c : CoreId) (w : IWord) : List (Instr × Nat) :=
  [(.vAdd c w, 0x40), (.vSub c w, 0x41), (.vMul c w, 0x42), (.vFma c w, 0x43), (.vMax c w, 0x44), (.vMin c w, 0x45),
   (.vCmp c w, 0x46), (.vSelect c w, 0x47), (.vCvt c w, 0x48), (.vExp2 c w, 0x49), (.vLog2 c w, 0x4A),
   (.vRcp c w, 0x4B), (.vRsqrt c w, 0x4C), (.vTanh c w, 0x4D), (.vSigm c w, 0x4E), (.vSum c w, 0x4F),
   (.vNorm c w, 0x50), (.vRope c w, 0x51), (.vGather c w, 0x52), (.vScatter c w, 0x53), (.vTopk c w, 0x54),
   (.vSort c w, 0x55), (.vRand c w, 0x56)]

/-- The execution of a V. instruction begins: core `k`, the registers as they stand, nothing read or written yet. -/
def Sys2Proof.Safety.vBegin (k : Core) (b : Banner) (fresh : Nat) : VX :=
  { k := k, banner := b, regs := k.vreg, reads := [], replay := [], writes := 0, skip := 0, emptied := [], old := [],
    others := [], fresh := fresh, idx := 0, flags := 0, stop := .go }

/-- Every V. instruction that issues to an idle engine executes its plan on the core as it stands (R129, R131): when no
flag, check or trap stops it, scratchpad and registers are those of the plan, its flag summary waits for the
completion, and nothing else changes; when a check or trap stops it, the core halts with that reason at its address. -/
def Sys2Proof.Claims.VectorInstructionsExecute : Prop :=
  ∀ (s : State) (c : CoreId) (w : IWord) (i : Instr) (op : Nat), (i, op) ∈ vectorRows c w →
    Presented s c op w → vChecks s c op w (s.core c) = none → (s.core c).vq = [] →
    ∃ k0, k0.mem = (s.core c).mem ∧ k0.vreg = (s.core c).vreg ∧ k0.flags = (s.core c).flags ∧ k0.k = (s.core c).k ∧
      k0.ad = (s.core c).ad ∧ k0.rgn = (s.core c).rgn ∧ k0.vflags = (s.core c).vflags ∧
      k0.badWord = (s.core c).badWord ∧ k0.badFlag = (s.core c).badFlag ∧
      (∀ x, (vPlan op w k0).run (vBegin k0 (s.coreBanner c) s.fresh) = x →
        (x.stop = .go → Gives i s fun t => OnlyCoreFresh c s t ∧ NextInOrder (s.core c) (t.core c) ∧
          SameConstants (s.core c) (t.core c) ∧ (∀ j, ccVal (t.core c) j = ccWaited (s.core c) w j) ∧
          (t.core c).mem = x.k.mem ∧ (t.core c).vreg = x.k.vreg ∧ (t.core c).flags = x.k.flags ∧
          (t.core c).vq = [{ tag := s.tagOf c w, flags := x.flags, old := x.old, todo := none,
                             dsts := (vRegs op w).1, uses := (vRegs op w).2 }]) ∧
        (∀ r aux, x.stop = .bad r aux → Gives i s fun t => OnlyCoreHalt c s t ∧
          HaltedAt t c r (s.core c).pc (.of .vector) aux))

/-- An executed V. instruction completes (R103, R131): its flags go into VFLAGS and its signal is given. -/
def Sys2Proof.Claims.VectorCompletionSignalsAndFlags : Prop :=
  ∀ (s : State) (c : CoreId) (p : VPend), (s.core c).engineOn = true → (s.core c).vq = [p] → p.todo = none →
    TagFits (s.core c) p.tag →
    Gives (.vectorCompletion c) s fun t => OnlyCoreFresh c s t ∧ (t.core c).vq = [] ∧
      (t.core c).vflags = (s.core c).vflags ||| p.flags.setWidth 10 ∧ Signalled (s.core c) (t.core c) p.tag ∧
      (t.core c).mem = (s.core c).mem ∧ (t.core c).vreg = (s.core c).vreg ∧ (t.core c).pc = (s.core c).pc

/-- V. instructions from issue to completion (R103, R129, R131). -/
def Obligations.VectorInstructionsExecuteAndComplete : Prop :=
  Sys2Proof.Claims.VectorInstructionsExecute ∧
  Sys2Proof.Claims.VectorCompletionSignalsAndFlags

/-- Element-wise instructions on registers with 32-bit compute (R101, R122, R123, R125): lane j of the destination, for
each j below n, is the operation of the selected lanes; every other lane of every register, and the rest of the core, is as before. -/
def Sys2Proof.Claims.RegisterLanesAreComputed : Prop :=
  ∀ (w : IWord) (k : Core) (x : VX) (kind op : Nat),
    (kind, op) ∈ [(0, 0x40), (1, 0x41), (2, 0x42), (4, 0x44), (5, 0x45)] → x.stop = .go →
    (vCf w = 0xA ∨ vCf w = 0xB) → bitA w = false → bitB w = false → bitD w = false → vN w ≤ 64 →
    selKind w.o0.toNat = .vreg → selKind w.o1.toNat = .vreg → selKind w.o2.toNat = .vreg →
    x.k.vflags.getLsbD 9 = false →
    ∀ y, (vPlan op w k).run x = y →
      y.stop = .go ∧ y.k = { x.k with vreg := y.k.vreg } ∧
      ∀ r j, j < 64 → tget 0 y.k.vreg (r * 64 + j) =
        if r = fieldOf w.o0.toNat 13 10 ∧ j < vN w then
          BitVec.ofNat 32 (vKeep (vCf w) (vCf w) (vSat w) (vCompute kind (vCf w) (vSat w)
            (decodeVal (vCf w) (regElem x.regs 32 (fieldOf w.o1.toNat 13 10) (j % 2 ^ fieldOf w.o1.toNat 2 0)))
            (decodeVal (vCf w) (regElem x.regs 32 (fieldOf w.o2.toNat 13 10) (j % 2 ^ fieldOf w.o2.toNat 2 0)))
            (decodeVal (vCf w) 0))).1
        else tget 0 x.k.vreg (r * 64 + j)

/-- INT32 addition (R101): modulo 2^32, or with sat clamped to the ends of the range with the saturate flag. -/
def Sys2Proof.Claims.IntegerAddWrapsOrSaturates : Prop :=
  ∀ (a b : BitVec 32) (x : Val),
    (vKeep 0xB 0xB false (vCompute 0 0xB false (decodeVal 0xB a.toNat) (decodeVal 0xB b.toNat) x)).1 = (a + b).toNat ∧
    (2147483647 < a.toInt + b.toInt →
      vKeep 0xB 0xB true (vCompute 0 0xB true (decodeVal 0xB a.toNat) (decodeVal 0xB b.toNat) x) = (0x7FFFFFFF, fSaturate)) ∧
    (a.toInt + b.toInt < -2147483648 →
      vKeep 0xB 0xB true (vCompute 0 0xB true (decodeVal 0xB a.toNat) (decodeVal 0xB b.toNat) x) = (0x80000000, fSaturate))

/-- Register lanes and INT32 addition (R101, R122, R123, R125). -/
def Obligations.VectorLanesAreComputed : Prop :=
  Sys2Proof.Claims.RegisterLanesAreComputed ∧
  Sys2Proof.Claims.IntegerAddWrapsOrSaturates

/-- Top-k and sort order every segment (R142 to R144): each element number appears once, a key never stands after one
it precedes, and keys that compare equal stay in the order of their element numbers. -/
def Obligations.RankingIsAStableSort : Prop :=
  ∀ (asc : Bool) (keys : List Val),
    (ranked asc keys).Perm (List.range keys.length) ∧
    ∀ i, i + 1 < (ranked asc keys).length →
      let a := (ranked asc keys).getD i 0
      let b := (ranked asc keys).getD (i + 1) 0
      keyLe asc (keys.getD a Val.zero) (keys.getD b Val.zero) = true ∧
      (keyLe asc (keys.getD b Val.zero) (keys.getD a Val.zero) = true → a < b)

/-- Each round of V.RAND is a bijection, so distinct counters under one key never give the same state (R145). -/
def Obligations.RandomStatesAreDistinct : Prop :=
  ∀ (key x y : BitVec 64), randState key x = randState key y → x = y

/-! ### Stream (07, 09) -/

/-- The five transfers with their opcodes and the modifiers they use (Table 9.7). -/
def Sys2Proof.Safety.transferRows (c : CoreId) (w : IWord) : List (Instr × Nat × Nat) :=
  [(.sCopy c w, 0x60, 0xE0), (.sFill c w, 0x61, 0xE0), (.sGather c w, 0x62, 0xF0), (.sScatter c w, 0x63, 0xF0),
   (.sAtomadd c w, 0x64, 0xFC)]

/-- The four modes of S.PENNANT (Table 7.9). -/
def Sys2Proof.Safety.pennantRows (c : CoreId) (w : IWord) : List (Instr × Nat) :=
  [(.sPennantClear c w, 0), (.sPennantStore c w, 1), (.sPennantFold c w, 2), (.sPennantEmit c w, 3)]

/-- A transfer that issues joins the queue of its core with its element count, size and due value, captured ends and the
tread of its issue (R149, R153, R160, R179); no element is moved yet. -/
def Sys2Proof.Claims.TransfersQueueAtIssue : Prop :=
  ∀ (s : State) (c : CoreId) (w : IWord), (s.core c).sAccepts = true →
    (∀ i op m, (i, op, m) ∈ transferRows c w → Presented s c op w → sChecks s c op w m (s.core c) = none →
      Gives i s fun t => Queued s t c w ∧ (t.core c).elems = (s.core c).elems ∧ (t.core c).pens = (s.core c).pens ∧
        ∃ x, (t.core c).sq = (s.core c).sq ++ [x] ∧ x.tag = s.tagOf c w ∧
          x.dst = (s.core c).endOf ((s.core c).desc (w.o0.toNat % 256)) ∧
          (op ≠ 0x61 → x.src = (s.core c).endOf ((s.core c).desc (w.o1.toNat % 256))) ∧
          x.esz = 64 * (fieldOf w.o3.toNat 9 0 + 1) ∧ x.due = fieldOf w.o3.toNat 15 12 ∧
          x.issueAt = s.clk.treadCount ∧ x.next = 0 ∧ x.doneCount = 0 ∧
          (op = 0x61 → x.op = .fill ((s.core c).getK (kIdx w.o1)) ((s.core c).getK (kIdx w.o1 + 1)))) ∧
    (∀ i m, (i, m) ∈ pennantRows c w → wMod w 1 0 = m → Presented s c 0x65 w → penChecks s c w m (s.core c) = none →
      Gives i s fun t => Queued s t c w ∧ (t.core c).elems = (s.core c).elems ∧ (t.core c).pens = (s.core c).pens ∧
        ∃ x, (t.core c).sq = (s.core c).sq ++ [x] ∧ x.tag = s.tagOf c w ∧
          x.op = .pennant (BitVec.ofNat 2 m) w.o5 ∧ x.pn = some (Fin.ofNat 4 (sAcc w)))

/-- A due value of 0 halts the core at issue with 0x0A (R160), whatever the transfer, when no check that R173 places earlier
fails. -/
def Sys2Proof.Claims.TransferWithoutDueHalts : Prop :=
  ∀ (s : State) (c : CoreId) (w : IWord) (i : Instr) (op m : Nat), (i, op, m) ∈ transferRows c w →
    Presented s c op w → (s.core c).sAccepts = true → fieldOf w.o3.toNat 15 12 = 0 →
    (∀ r aux, sChecks s c op w m (s.core c) = some (r, aux) → r ≠ 0x01 ∧ r ≠ 0x0D ∧ r ≠ 0x02) →
    Gives i s fun t => OnlyCoreHalt c s t ∧ HaltedAt t c 0x0A (s.core c).pc (.of .stream) (shapeAux 0 0)

/-- Stream transfers at issue (R149, R153, R160, R179). -/
def Obligations.TransfersQueueWithADue : Prop :=
  Sys2Proof.Claims.TransfersQueueAtIssue ∧
  Sys2Proof.Claims.TransferWithoutDueHalts

/-- Generation of one element (R150, R151, R153): a fill of the own scratchpad makes its pattern; a read of the near tier asks
its controller and counts the units of R326; a put to another core of the die sends its packets. -/
def Obligations.ElementsAreGeneratedInOrder : Prop :=
  ∀ (s : State) (c : CoreId) (i : StreamInstr), (s.core c).engineOn = true → (s.core c).generating = some i →
    (s.core c).elems.length < entriesOf c → i.idx = none →
    (∀ lo hi, i.op = .fill lo hi → i.dst.kind = .loc →
      s.endBad c i.dst true (endAddr i.dst none i.next) i.esz i.next = none →
      Gives (.streamElementGenerate c) s fun t => OnlyCore c s t ∧ (t.core c).mem = (s.core c).mem ∧
        (t.core c).flags = (s.core c).flags ∧ (t.core c).cc = (s.core c).cc ∧
        ∃ e, (t.core c).elems = (s.core c).elems ++ [e] ∧ e.ord = i.tag.ord ∧ e.elem = i.next ∧ e.stage = .ready ∧
          e.dst = endAddr i.dst none i.next ∧ e.data.length = i.esz / 8 * 8 ∧
          ∀ j, j < i.esz / 8 → bytesAt e.data (8 * j) 8 = leBytes 4 lo.toNat ++ leBytes 4 hi.toNat) ∧
    (i.op = .copy → i.src.kind = .near → i.dst.kind = .loc →
      s.endBad c i.src false (endAddr i.src none i.next) i.esz i.next = none →
      s.endBad c i.dst true (endAddr i.dst none i.next) i.esz i.next = none →
      Gives (.streamElementGenerate c) s fun t => (t.core c).mem = (s.core c).mem ∧ t.granules = s.granules ∧
        t.mesh = s.mesh ∧
        t.stackTbl = (s.countUnits (s.coreBanner c) (endAddr i.src none i.next) i.esz).stackTbl ∧
        ∃ e, (t.core c).elems = (s.core c).elems ++ [e] ∧ e.ord = i.tag.ord ∧ e.elem = i.next ∧ e.stage = .nearReq ∧
          e.src = endAddr i.src none i.next ∧ e.dst = endAddr i.dst none i.next) ∧
    (i.op = .copy → i.src.kind = .die → i.dst.kind = .loc →
      s.endBad c i.src false (endAddr i.src none i.next) i.esz i.next = none →
      s.endBad c i.dst true (endAddr i.dst none i.next) i.esz i.next = none →
      Gives (.streamElementGenerate c) s fun t => (t.core c).mem = (s.core c).mem ∧ t.granules = s.granules ∧
        (∃ p, t.mesh = s.mesh ++ [p] ∧ p.kind = 4 ∧ p.dest = i.src.core % 256 ∧ p.len = i.esz ∧
          p.source = s.globalAddr c ∧ p.address = BitVec.ofNat 32 (endAddr i.src none i.next)) ∧
        ∃ e, (t.core c).elems = (s.core c).elems ++ [e] ∧ e.ord = i.tag.ord ∧ e.elem = i.next ∧ e.stage = .awaitData)

/-- A near-tier controller serves a waiting element (R155, R326, R328): a read returns the bytes of the banner's space, a
write stores the element's bytes in it; the core's scratchpad is untouched until the element completes. -/
def Sys2Proof.Claims.NearControllersServeElements : Prop :=
  ∀ (s : State) (c : CoreId) (n : StackId) (o ofs g x : Nat) (i : StreamInstr) (e : Elem),
    (s.core c).sq.find? (fun y => y.tag.ord == o) = some i →
    (s.core c).elems.find? (fun y => y.ord == o && y.elem == e.elem) = some e → e.stage = .nearReq →
    s.nearAt (s.coreBanner c) ofs = some (g, x) → stackOf g = n.val → wheelShare (s.stack n) (s.coreBanner c) ≠ 0 →
    (s.stack n).resetBusy = false →
    (nearSide i e = some (ofs, false) →
      Gives (.nearTierRequest n c o e.elem) s fun t => (t.core c).mem = (s.core c).mem ∧ t.tasks = s.tasks ∧
        (∃ f ∈ (t.core c).elems, f.ord = e.ord ∧ f.elem = e.elem ∧ f.stage = .served ∧
          f.data = (s.nearCheck (s.coreBanner c) ofs i.esz).1.nearRead (s.coreBanner c) ofs i.esz)) ∧
    (nearSide i e = some (ofs, true) → i.op = .copy →
      Gives (.nearTierRequest n c o e.elem) s fun t => (t.core c).mem = (s.core c).mem ∧ t.tasks = s.tasks ∧
        t.granules = (s.nearWrite (s.coreBanner c) ofs e.data).granules ∧
        (∃ f ∈ (t.core c).elems, f.ord = e.ord ∧ f.elem = e.elem ∧ f.stage = .served))

/-- Completion of an element (R155): at the own scratchpad its bytes are written, elsewhere nothing is; the last element of
an instruction removes it and gives its signal. -/
def Sys2Proof.Claims.ElementsCompleteAndSignal : Prop :=
  ∀ (s : State) (c : CoreId) (o : Nat) (i : StreamInstr) (e : Elem), (s.core c).engineOn = true →
    (s.core c).sq.find? (fun y => y.tag.ord == o) = some i →
    (s.core c).elems.find? (fun y => y.ord == o && y.elem == e.elem) = some e → e.canComplete = true →
    (∀ m l, i.op ≠ .pennant m l) → i.n ≤ i.doneCount + 1 → TagFits (s.core c) i.tag → (s.core c).penq = [] →
    (i.dst.kind ≠ .loc →
      Gives (.streamElementComplete c o e.elem) s fun t => OnlyCore c s t ∧ (t.core c).mem = (s.core c).mem ∧
        (t.core c).elems = remFirst (fun y => y.ord == e.ord && y.elem == e.elem) (s.core c).elems ∧
        (t.core c).sq = remFirst (fun y => y.tag.ord == i.tag.ord) (s.core c).sq ∧
        Signalled (s.core c) (t.core c) i.tag) ∧
    (∀ k1, i.dst.kind = .loc → e.ue = none →
      writeElem (s.core c) (s.coreBanner c) e.dst e.data (e.data.length / 64 + 2) e.written = (k1, e.data.length, none) →
      Gives (.streamElementComplete c o e.elem) s fun t => OnlyCore c s t ∧ (t.core c).mem = k1.mem ∧
        (t.core c).flags = k1.flags ∧ (t.core c).vreg = (s.core c).vreg ∧
        Signalled (s.core c) (t.core c) i.tag)

/-- What the writing of an element leaves (R155): with no slot cut before, its bytes stand at its destination and every
other byte is as before. -/
def Sys2Proof.Claims.WrittenElementsLeaveOtherBytes : Prop :=
  ∀ (k k1 : Core) (b : Banner) (dst : Nat) (data : List Byte) (fuel w : Nat), Mem.wf k.mem = true →
    writeElem k b dst data fuel 0 = (k1, w, none) → w = data.length →
    memRead k1.mem dst data.length = data ∧ Mem.wf k1.mem = true ∧
    ∀ a, a < dst ∨ dst + data.length ≤ a → memGet k1.mem a = memGet k.mem a

/-- Elements from service to completion (R155, R326, R328). -/
def Obligations.ElementsAreServedAndComplete : Prop :=
  Sys2Proof.Claims.NearControllersServeElements ∧
  Sys2Proof.Claims.ElementsCompleteAndSignal ∧
  Sys2Proof.Claims.WrittenElementsLeaveOtherBytes

/-- S.PENNANT takes its effect when no earlier instruction names its accumulator (R164, Table 7.9): clear zeroes it, emit
sends its record to the control complex, fold appends a stored pair and store writes the pair to memory. -/
def Obligations.PennantModes : Prop :=
  ∀ (s : State) (c : CoreId) (o : Nat) (i : StreamInstr) (m : BitVec 2) (l : BitVec 16) (a : Fin 4),
    (s.core c).engineOn = true → (s.core c).sq.find? (fun y => y.tag.ord == o) = some i → i.op = .pennant m l →
    i.pn = some a → (s.core c).generating.map (·.tag.ord) = some o → TagFits (s.core c) i.tag →
    (s.core c).sq.any (fun x => decide (x.tag.ord < i.tag.ord) && x.pn == some a) = false → ∀ e,
    (m = 0 → Gives (.streamElementComplete c o e) s fun t => OnlyCore c s t ∧ (t.core c).pen a = PenAcc.reset ∧
      (t.core c).mem = (s.core c).mem ∧ Signalled (s.core c) (t.core c) i.tag) ∧
    (m = 3 → Gives (.streamElementComplete c o e) s fun t => t.pensIn = s.pensIn ++ [pennantRecord s c a l] ∧
      (t.core c).pen a = (s.core c).pen a ∧ (t.core c).mem = (s.core c).mem ∧
      Signalled (s.core c) (t.core c) i.tag) ∧
    (∀ k1 d, m = 2 → (s.core c).readAcc (s.coreBanner c) .streamR i.dst.base 16 = .done k1 d →
      Gives (.streamElementComplete c o e) s fun t => OnlyCore c s t ∧ (t.core c).mem = (s.core c).mem ∧
        (t.core c).pen a = ((s.core c).pen a).append (BitVec.ofNat 64 (natAt d 0 8)) (natAt d 8 6) ∧
        Signalled (s.core c) (t.core c) i.tag) ∧
    (∀ k1 x, m = 1 → (s.core c).writeAcc (s.coreBanner c) .streamW i.dst.base
        (leBytes 8 ((s.core c).pen a).digest.toNat ++ leBytes 6 ((s.core c).pen a).length.toNat ++ leBytes 2 0) = .done k1 x →
      Gives (.streamElementComplete c o e) s fun t => OnlyCore c s t ∧
        (t.core c).mem = memWrite (s.core c).mem i.dst.base
          (leBytes 8 ((s.core c).pen a).digest.toNat ++ leBytes 6 ((s.core c).pen a).length.toNat ++ leBytes 2 0) ∧
        (t.core c).pen a = (s.core c).pen a ∧ Signalled (s.core c) (t.core c) i.tag)

/-- The digest of two parts is the digest of the first followed by the second (R163): appending is exact, so an accumulator
holds the CRC of everything appended, in order. -/
def Obligations.AppendedDigestIsTheWhole : Prop :=
  ∀ (x y : List Byte) (p : PenAcc), p.digest = crc64 0 x → p.length = BitVec.ofNat 48 x.length →
    (p.append (crc64 0 y) y.length).digest = crc64 0 (x ++ y) ∧
    (p.append (crc64 0 y) y.length).length = BitVec.ofNat 48 (x ++ y).length

/-! ### Message (09) and mesh (11) -/

/-- Nothing differs but core `c` and the packets on the mesh. -/
def Sys2Proof.Safety.CoreAndMesh (c : Nat) (s t : State) : Prop :=
  t = { s with cores := t.cores, mesh := t.mesh } ∧ ∀ d, d ≠ c → t.core d = s.core d

/-- The source of a message instruction lies in one region that grants the stream port, and its accesses of 64 bytes are
served, with data `d`. -/
def Sys2Proof.Safety.SourceReads (s : State) (c : Nat) (w : IWord) (d : List Byte) : Prop :=
  (∃ e, (s.core c).check (s.coreBanner c) .streamR ((s.core c).baseOf w.o0) (xLen w) = .ok e) ∧
  ∃ k1, (readBeats (s.core c) (s.coreBanner c) ((s.core c).baseOf w.o0) (xLen w) (xLen w / 64 + 1) []).2 = .done k1 d

/-- A message instruction on a die end that issues and begins at once: no other message instruction waits, and its source
is readable with data `d`. -/
def Sys2Proof.Safety.Begins (s : State) (c op : Nat) (w : IWord) (m : Nat) (d : List Byte) : Prop :=
  Presented s c op w ∧ xChecks s c op w m (s.core c) = none ∧ (s.core c).xwait = [] ∧ xRemote (s.core c) w = false ∧
  SourceReads s c w d

/-- The end that slot O1 of a message instruction names. -/
def Sys2Proof.Safety.farEnd (s : State) (c : Nat) (w : IWord) : StreamEnd := (s.core c).endOf ((s.core c).desc (w.o1.toNat % 256))

/-- What a message packet of core `c` carries. -/
def Sys2Proof.Safety.Carries (s : State) (c : Nat) (w : IWord) (p : Packet) (kind : BitVec 4) (lag : Nat) : Prop :=
  p.kind = kind ∧ p.source = s.globalAddr c ∧ p.rcc = xRcc w ∧ p.part = 0 ∧ p.parts = 0 ∧
  p.banner = s.coreBanner c ∧ p.deadline = s.clk.treadCount + lag ∧
  p.payload = memRead (s.core c).mem ((s.core c).baseOf w.o0) (xLen w)

/-- The issuing core after a message has left: its wait is consumed, the sequencer has stepped, the instruction is pending
and the scratchpad keeps its bytes. -/
def Sys2Proof.Safety.Sent (s t : State) (c : Nat) (w : IWord) : Prop :=
  CoreAndMesh c s t ∧ NextInOrder (s.core c) (t.core c) ∧ SameConstants (s.core c) (t.core c) ∧
  (∀ i, ccVal (t.core c) i = ccWaited (s.core c) w i) ∧ (t.core c).mem = (s.core c).mem ∧
  (t.core c).vreg = (s.core c).vreg ∧ (t.core c).xq = (s.core c).xq ++ [{ tag := s.tagOf c w, out := [] }]

/-- X.SEND and X.CAST over the die (R208 to R210): the packets that leave, with their payload, destination and deadline. -/
def Sys2Proof.Claims.SendAndCastLeaveTheCore : Prop :=
  ∀ (s : State) (c : CoreId) (w : IWord) (d : List Byte),
    (Begins s c 0x80 w 0 d →
      Gives (.xSend c w) s fun t => Sent s t c w ∧ ∃ p, t.mesh = s.mesh ++ [p] ∧ Carries s c w p 0 1 ∧
        p.dest = (farEnd s c w).core % 256 ∧ p.address = BitVec.ofNat 32 (farEnd s c w).base ∧
        p.seq = (s.core c).nextSeq (s.globalAddr p.dest)) ∧
    (Begins s c 0x81 w 0x01 d →
      Gives (.xCast c w) s fun t => Sent s t c w ∧ ∃ l, t.mesh = s.mesh ++ l ∧
        l.map (·.dest) = (((xAxis (s.core c) w).positions (wImm w)).filter
          (· != (xAxis (s.core c) w).posOf (s.globalAddr c))).map
            (fun j => if wMod w 0 0 = 1 then 16 * j + coreX c else 16 * coreY c + j) ∧
        ∀ p ∈ l, Carries s c w p 0 1 ∧ p.address = BitVec.ofNat 32 (farEnd s c w).base)

/-- X.SEND to another module (R209, R291): the message joins the link bank of its link schedule entry. -/
def Sys2Proof.Claims.RemoteSendUsesItsLinkEntry : Prop :=
  ∀ (s : State) (c : CoreId) (w : IWord) (d : List Byte) (en : LinkEntry),
    Presented s c 0x80 w → xChecks s c 0x80 w 0 (s.core c) = none → (s.core c).xwait = [] → xRemote (s.core c) w = true →
    SourceReads s c w d →
    (farEnd s c w).core / 256 ≠ s.modAddr → s.entryOk c (xSlot w) (flitsOf (xLen w)) = some en →
    Gives (.xSend c w) s fun t => t.mesh = s.mesh ∧ (∀ l, l ≠ en.link → t.link l = s.link l) ∧
      (∀ x, x ≠ c.val → t.core x = s.core x) ∧ (t.core c).mem = (s.core c).mem ∧
      ∃ m, (t.link en.link).txQ = (s.link en.link).txQ ++ [m] ∧ m.start = en.offset ∧ m.head.kind = 0 ∧
        m.data = memRead (s.core c).mem ((s.core c).baseOf w.o0) (xLen w) ∧ m.head.rcc = xRcc w ∧
        m.head.source = s.globalAddr c ∧ m.head.address = BitVec.ofNat 32 (farEnd s c w).base ∧
        m.head.deadline = s.clk.treadCount + (if en.twoHops then 4 else 2) ∧ m.head.flits = flitsOf (xLen w) ∧
        (t.core c).xq = (s.core c).xq ++ [{ tag := s.tagOf c w, out := [(en.link, m.head)] }]

/-- X.SEND and X.CAST on the die and over a link (R208 to R210, R291). -/
def Obligations.MessagesLeaveTheCore : Prop :=
  Sys2Proof.Claims.SendAndCastLeaveTheCore ∧
  Sys2Proof.Claims.RemoteSendUsesItsLinkEntry

/-- The rows of the two reductions: command, opcode, whether contributions are combined as they arrive. -/
def Sys2Proof.Safety.reduceRows (c : CoreId) (w : IWord) : List (Instr × Nat × Bool) :=
  [(.xReduce c w, 0x82, false), (.xReducea c w, 0x83, true)]

/-- X.REDUCE and X.REDUCEA over the die (R208, R211): the contribution leaves for its place at the root; at the root itself
the reduction is opened first. -/
def Sys2Proof.Claims.ReductionsContribute : Prop :=
  ∀ (s : State) (c : CoreId) (w : IWord) (d : List Byte) (i : Instr) (op : Nat) (arr : Bool),
    (i, op, arr) ∈ reduceRows c w → Begins s c op w 0x3F d → (s.core c).redIn = [] →
    Gives i s fun t => Sent s t c w ∧
      (∃ p, t.mesh = s.mesh ++ [p] ∧ Carries s c w p 1 2 ∧ p.dest = (farEnd s c w).core % 256 ∧
        p.address = BitVec.ofNat 32 (farEnd s c w).base + (if arr then 0 else
          BitVec.ofNat 32 (((if wMod w 0 0 = 1 then coreY c else coreX c) + 1) * xLen w))) ∧
      ((farEnd s c w).core % 256 ≠ c.val → (t.core c).reds = (s.core c).reds) ∧
      ((farEnd s c w).core % 256 = c.val → ∃ r, (t.core c).reds = (s.core c).reds ++ [r] ∧
        r.dst = BitVec.ofNat 32 (farEnd s c w).base ∧ r.len = xLen w ∧ r.mask = wImm w ∧ r.rcc = xRcc w ∧
        r.arrived = [] ∧ r.started = [] ∧ r.shape.arrival = arr ∧ r.shape.all = (wMod w 5 5 == 1) ∧
        r.shape.op = BitVec.ofNat 2 (wMod w 2 1) ∧ r.shape.fmt = BitVec.ofNat 2 (wMod w 4 3))

/-- X.EXPECT begins to wait for its count and tread (R212); a message instruction behind another one waits in order
(Table 8.2); the oldest message that has left completes with its signal (R210). -/
def Obligations.ExpectWaitAndMessageCompletion : Prop :=
  ∀ (s : State) (c : CoreId),
    (∀ w, Presented s c 0x84 w → expectChecks s c w (s.core c) = none → (s.core c).xwait = [] →
      (s.core c).expects.length < 8 →
      Gives (.xExpect c w) s fun t => Queued s t c w ∧ (t.core c).expects = (s.core c).expects ++
        [{ tag := s.tagOf c w, cc := BitVec.ofNat 4 w.o0.toNat, count := expectCount (s.core c) w,
           tread := expectTread (s.core c) w }]) ∧
    (∀ w i op m, (i, op, m) ∈ [(Instr.xSend c w, 0x80, 0), (.xCast c w, 0x81, 1), (.xReduce c w, 0x82, 0x3F),
        (.xReducea c w, 0x83, 0x3F)] → Presented s c op w → xChecks s c op w m (s.core c) = none →
      0 < (s.core c).xwait.length → (s.core c).xwait.length < 4 →
      Gives i s fun t => Queued s t c w ∧ ∃ x, (t.core c).xwait = (s.core c).xwait ++ [x] ∧ x.tag = s.tagOf c w ∧
        x.op = op ∧ x.word = w ∧ x.issued = s.clk.treadCount) ∧
    (∀ x l, (s.core c).engineOn = true → (s.core c).xq = x :: l → (s.core c).xwait = [] → TagFits (s.core c) x.tag →
      (∀ o ∈ x.out, ∀ m ∈ (s.link o.1).txQ, m.head ≠ o.2) →
      Gives (.messageCompletion c) s fun t => OnlyCore c s t ∧ (t.core c).xq = l ∧
        (t.core c).mem = (s.core c).mem ∧ Signalled (s.core c) (t.core c) x.tag)

/-- REDUCTION_COMBINE (R211): with every member's contribution there, the root combines the staged ones in ascending order,
writes the result at its destination and counts it in its own counter. -/
def Sys2Proof.Claims.RootCombinesInAscendingOrder : Prop :=
  ∀ (s : State) (c : CoreId) (r : RootRed) (k1 : Core) (x : List Byte), (s.core c).engineOn = true →
    (s.core c).reds.find? (·.ready) = some r → r.shape.all = false → ccVal (s.core c) r.rcc.toNat + 1 < 4294967296 →
    (r.shape.arrival = false →
      (s.core c).inWrite (s.coreBanner c) r.dst.toNat (redResult (s.core c) r) = .ok k1 x →
      Gives (.reductionCombine c) s fun t => OnlyCore c s t ∧
        (t.core c).mem = memWrite (s.core c).mem r.dst.toNat (redResult (s.core c) r) ∧
        (t.core c).reds = remFirst (fun y => y == r) (s.core c).reds ∧
        ∀ i, ccVal (t.core c) i = ccVal (s.core c) i + (if i = r.rcc.toNat then 1 else 0)) ∧
    (r.shape.arrival = true →
      Gives (.reductionCombine c) s fun t => OnlyCore c s t ∧ (t.core c).mem = (s.core c).mem ∧
        (t.core c).reds = remFirst (fun y => y == r) (s.core c).reds ∧
        ∀ i, ccVal (t.core c) i = ccVal (s.core c) i + (if i = r.rcc.toNat then 1 else 0))

/-- Reductions from issue to the root's combination (R208, R211). -/
def Obligations.ReductionsCombineAtTheRoot : Prop :=
  Sys2Proof.Claims.ReductionsContribute ∧
  Sys2Proof.Claims.RootCombinesInAscendingOrder

/-- The core as a packet finds it once its window has taken its sequence number (R252); a packet from a link bank has been
checked there. -/
def Sys2Proof.Safety.Admits (s : State) (p : Packet) (k : Core) : Prop :=
  (p.fromLink = true ∧ k = s.core p.dest) ∨
  (p.fromLink = false ∧ ∃ w, winCheck (tget { low := 0, seen := [] } (s.core p.dest).rxWin (p.source.toNat % 256))
      p.seq.toNat = .fresh w ∧
    k = { s.core p.dest with rxWin := tset (s.core p.dest).rxWin (p.source.toNat % 256) w })

/-- INBOUND_PACKET (R71, R78, R247, R252, R253): a message is written and counted, a put is written and acknowledged, a get
is answered with the bytes, a failing access is refused with its reason, a repeated number is dropped. -/
def Sys2Proof.Claims.PacketsArrive : Prop :=
  ∀ (s : State) (i : Nat) (p : Packet), s.mesh[i]? = some p → (s.core p.dest).st ≠ .halted →
    (0xD ≤ p.kind.toNat →
      Gives (.inboundPacket i) s fun t => t.mesh = s.mesh.eraseIdx i ∧ t.meshBad = s.meshBad + 1 ∧ t.cores = s.cores ∧
        t.diag.flash = s.diag.flash) ∧
    (p.kind.toNat ≤ 3 → p.fromLink = false →
      winCheck (tget { low := 0, seen := [] } (s.core p.dest).rxWin (p.source.toNat % 256)) p.seq.toNat = .duplicate →
      Gives (.inboundPacket i) s fun t => t = { s with mesh := s.mesh.eraseIdx i }) ∧
    (∀ k k1 x, Admits s p k → p.parts = 0 → p.atom = none →
      k.inWrite p.banner p.address.toNat p.payload = .ok k1 x →
      (p.kind = 0 ∨ p.kind = 2 → ccVal (s.core p.dest) p.rcc.toNat + 1 < 4294967296 →
        Gives (.inboundPacket i) s fun t => CoreAndMesh p.dest s t ∧ t.mesh = s.mesh.eraseIdx i ∧
          (t.core p.dest).mem = memWrite (s.core p.dest).mem p.address.toNat p.payload ∧
          (t.core p.dest).k = (s.core p.dest).k ∧ (t.core p.dest).vreg = (s.core p.dest).vreg ∧
          ∀ j, ccVal (t.core p.dest) j = ccVal (s.core p.dest) j + (if j = p.rcc.toNat then 1 else 0)) ∧
      (p.kind = 3 → p.source.toNat / 256 = s.modAddr →
        Gives (.inboundPacket i) s fun t => CoreAndMesh p.dest s t ∧
          (t.core p.dest).mem = memWrite (s.core p.dest).mem p.address.toNat p.payload ∧
          (t.core p.dest).cc = (s.core p.dest).cc ∧
          ∃ a, t.mesh = s.mesh.eraseIdx i ++ [a] ∧ a.kind = 6 ∧ a.dest = p.source.toNat % 256 ∧ a.seq = p.seq)) ∧
    (∀ k k1 r, Admits s p k → p.kind = 0 ∨ p.kind = 3 → p.atom = none →
      k.inWrite p.banner p.address.toNat p.payload = .refuse k1 r → p.source.toNat / 256 = s.modAddr →
      Gives (.inboundPacket i) s fun t => CoreAndMesh p.dest s t ∧
        (t.core p.dest).mem = (s.core p.dest).mem ∧ (t.core p.dest).cc = (s.core p.dest).cc ∧
        ∃ a, t.mesh = s.mesh.eraseIdx i ++ [a] ∧ a.kind = 7 ∧ a.reason = r ∧ a.dest = p.source.toNat % 256 ∧
          a.seq = p.seq) ∧
    (∀ k1 d, p.kind = 4 → p.len ≤ 65536 → (s.core p.dest).inRead p.banner p.address.toNat p.len = .ok k1 d →
      p.source.toNat / 256 = s.modAddr →
      Gives (.inboundPacket i) s fun t => CoreAndMesh p.dest s t ∧ (t.core p.dest).mem = (s.core p.dest).mem ∧
        ∃ l, t.mesh = s.mesh.eraseIdx i ++ l ∧
          (l.map (·.payload)).flatten = memRead (s.core p.dest).mem p.address.toNat p.len ∧
          ∀ a ∈ l, a.kind = 5 ∧ a.dest = p.source.toNat % 256 ∧ a.seq = p.seq ∧ a.payload.length ≤ 512)

/-- ACCEPTANCE_NOTICE, REFUSAL, LATE_NOTICE and SEQ_GAP_NOTICE (R71, R155, R213, R270, R271): the last notice accepts a put;
the others halt the sender with their reason, its instruction's address and the receiver's address. -/
def Sys2Proof.Claims.NoticesReachTheSender : Prop :=
  ∀ (s : State),
    (∀ i p x e, s.mesh[i]? = some p → p.kind = 6 →
      (s.core p.dest).putOf { s with mesh := s.mesh.eraseIdx i } p.source p.seq = some (x, e) → e.wait = [p.seq] →
      (s.core p.dest).elems.find? (fun y => y.ord == e.ord && y.elem == e.elem) = some e →
      Gives (.acceptanceNotice i) s fun t => CoreAndMesh p.dest s t ∧ t.mesh = s.mesh.eraseIdx i ∧
        (t.core p.dest).mem = (s.core p.dest).mem ∧ (t.core p.dest).cc = (s.core p.dest).cc ∧
        { e with wait := [], stage := .accepted } ∈ (t.core p.dest).elems) ∧
    (∀ i p x e, s.mesh[i]? = some p → p.kind = 7 → p.rcc = 0 → p.reason ≠ 0x43 → (s.core p.dest).st ≠ .halted →
      (s.core p.dest).putOf { s with mesh := s.mesh.eraseIdx i } p.source p.seq = some (x, e) →
      Gives (.refusal i) s fun t => HaltedAt t p.dest p.reason x.tag.pc (.of .stream) (BitVec.ofNat 64 p.source.toNat) ∧
        t.mesh = s.mesh.eraseIdx i ∧ (t.core p.dest).mem = (s.core p.dest).mem ∧ t.links = s.links ∧
        ∀ d, d ≠ p.dest → t.core d = s.core d) ∧
    (∀ (c : CoreId) pc rcv seq, (s.core c).st ≠ .halted →
      (Gives (.lateNotice c pc rcv seq) s fun t => OnlyCoreHalt c s t ∧
        HaltedAt t c 0x40 pc ((s.core c).sender pc) (BitVec.ofNat 64 (rcv.toNat + seq.toNat * 1048576))) ∧
      (Gives (.seqGapNotice c pc rcv seq) s fun t => OnlyCoreHalt c s t ∧
        HaltedAt t c 0x43 pc ((s.core c).sender pc) (BitVec.ofNat 64 (rcv.toNat + seq.toNat * 1048576))))

/-- Inbound packets and the notices that answer them (R71, R78, R155, R213, R247, R252, R253, R270, R271). -/
def Obligations.PacketsAndNoticesArrive : Prop :=
  Sys2Proof.Claims.PacketsArrive ∧
  Sys2Proof.Claims.NoticesReachTheSender

/-! ### Core events (03), treads (02) and tasks (10) -/

/-- ECC_WRITE_BACK, SCRUB_STEP and HARDWARE_CLEAR (R64, R66, R82): a corrected word is written back; a scrub step checks the
next word of its bank and moves on, and an uncorrectable word halts a core that runs a task with 0x60; a clear zeroes the core. -/
def Obligations.CheckBitsAreMendedAndCoresCleared : Prop :=
  ∀ (s : State) (c : CoreId) (bank : Fin 512),
    (∀ p, (s.core c).wback.find? (fun p => p.1 == bank.val) = some p →
      (Gives (.eccWriteBack c bank) s fun t => OnlyCore c s t ∧
        t.core c = { s.core c with badWord := tdel (s.core c).badWord p.2, wback := tdel (s.core c).wback bank.val })) ∧
    (∀ a, s.enabled c = true → (s.core c).wback.any (fun p => p.1 == bank.val) = false → (s.core c).badFlag = [] →
      a = bankWord bank.val (tget 0 (s.core c).scrubPos bank.val % wordsPerBank c) →
      ((∀ p ∈ (s.core c).badWord, p.1 ≠ a / 8) → (s.core c).fback = none →
        Gives (.scrubStep c bank) s fun t => OnlyCore c s t ∧
          t.core c = (s.core c).scrubAdvance (wordsPerBank c) bank.val s.clk.treadCount) ∧
      ((s.core c).badWord = [(a / 8, false)] →
        Gives (.scrubStep c bank) s fun t => OnlyCore c s t ∧ (t.core c).mem = (s.core c).mem ∧
          (t.core c).ceCount = BitVec.ofNat 16 (satAdd 65535 (s.core c).ceCount.toNat 1) ∧
          (t.core c).eccAddr = BitVec.ofNat 32 a ∧ tget 0 (t.core c).wback (bankOf a) = a / 8) ∧
      ((s.core c).badWord = [(a / 8, true)] → (s.core c).runsTask = true →
        Gives (.scrubStep c bank) s fun t => OnlyCoreHalt c s t ∧
          HaltedAt t c 0x60 (s.core c).pc .none (BitVec.ofNat 64 (a + 1)) ∧ (t.core c).mem = (s.core c).mem)) ∧
    (Gives (.hardwareClear c) s fun t => (∀ d, d ≠ c.val → t.core d = s.core d) ∧
      t.core c = { Core.reset with st := if s.enabled c then .idle else .off, scrubStart := s.clk.treadCount } ∧
      t.tasks = s.tasks ∧ t.links = s.links)

/-- The tick (R26, R51, R52): TREAD_COUNT grows by one; the calendar counts the tread or takes the accepted setting; the
counts of the tread begin anew. -/
def Sys2Proof.Claims.BoundaryCountsTheTread : Prop :=
  ∀ (s : State), s.rst.off = false →
    Gives .treadBoundary s fun t => t.clk.treadCount = s.clk.treadCount + 1 ∧ t.gal.pulse = false ∧ t.pensTread = 0 ∧
      t.otp = s.otp ∧ t.pending = s.pending ∧
      (s.clk.calSet = none → t.clk.subsec = s.clk.subsec + 1 ∧ t.clk.second = s.clk.second ∧ t.clk.year = s.clk.year) ∧
      (∀ y mo d h mi se, s.clk.calSet = some [y, mo, d, h, mi, se] →
        t.clk.year = y ∧ t.clk.month = mo ∧ t.clk.day = d ∧ t.clk.hour = h ∧ t.clk.minute = mi ∧ t.clk.second = se ∧
        t.clk.subsec = 0 ∧ t.clk.calValid = true ∧ t.clk.calSet = none)

/-- Core `c` is HALTED with reason `r`. -/
def Sys2Proof.Safety.Down (t : State) (c : Nat) (r : BitVec 8) : Prop := (t.core c).st = .halted ∧ (t.core c).reason = r

/-- A running core at a boundary (R27, R28, R31, R37): it halts with the lowest code that applies, 0x30 when its tread is not
closed; with nothing to report and nothing expected it is untouched, and the next tread opens for it. -/
def Sys2Proof.Claims.BoundaryChecksEveryCore : Prop :=
  ∀ (s : State) (t : Task) (len c next : Nat), (s.core c).st = .running →
    ((s.core c).treadSt = .open_ → Down (s.endTreadCore t len c) c 0x30) ∧
    (∀ f, s.boundaryCheck t len c = some f → Down (s.endTreadCore t len c) c f.reason) ∧
    (s.boundaryCheck t len c = none → (s.core c).dueExpects t.tread (decide (len ≤ t.tread + 1)) = [] →
      (s.endTreadCore t len c).core c = s.core c) ∧
    ((s.core c).treadSt = .landed → ((s.openTread c next false).core c).treadSt = .open_ ∧
      ((s.openTread c next false).core c).st = .running ∧ ((s.openTread c next true).core c).st = .landed) ∧
    (∀ n g, (s.core c).treadSt = .untilT n g → n ≠ next → ((s.openTread c next false).core c).treadSt = .untilT n g)

/-- A module on which nothing but one running task meets the boundary that ends its tread: no reset is held, no teardown waits
for halls, no swap copies, no core of the task has halted, nothing is in flight, and the scrubber's cycle does not come. -/
def Sys2Proof.Safety.OneTaskRuns (s : State) (x : Task) : Prop :=
  s.rst.off = false ∧ s.rst.pend = none ∧ (∀ b, (s.part b).tdHalls = []) ∧ s.tasks = [x] ∧ x.st = .running ∧ x.swap = none ∧
  x.origin = none ∧ x.cores.Nodup ∧ s.mesh = [] ∧ s.links = [] ∧ (s.clk.treadCount + 1) % 512 ≠ 0

/-- Core `k` without the messages whose deadlines passed eight treads before `now` or earlier. -/
def Sys2Proof.Safety.forgetSent (k : Core) (now : Nat) : Core :=
  { k with sent := k.sent.filter fun x => decide (now ≤ x.deadline + 8) }

/-- TREAD_BOUNDARY on a running task of rounds of `k.length` treads (R26 to R31, R37, R160, R212, R213): a core that has not
closed its tread halts with 0x30, one that fails another check with that check's reason; where no core has anything to report
the next tread opens on every core, or after the round's last tread every core is LANDED and the landing begins; the other
cores stand. A module that is held off has no boundary. -/
def Sys2Proof.Claims.BoundaryEndsATread : Prop :=
  ∀ (s : State),
    (s.rst.off = true → Gives .treadBoundary s fun t => t = s) ∧
    ∀ (x : Task) (k : RoundKind) (last : Bool), OneTaskRuns s x → x.kinds[x.kind]? = some k → last = decide (k.length ≤ x.tread + 1) →
      (∀ c ∈ x.cores, (s.core c).st = .running → (s.core c).treadSt = .open_ →
        (∀ d ∈ x.cores, d ≠ c → (s.core d).dueExpects x.tread last = []) →
        Gives .treadBoundary s fun t => Down t c 0x30) ∧
      (∀ c f, c ∈ x.cores → (s.core c).st = .running → s.boundaryCheck x k.length c = some f →
        (∀ d ∈ x.cores, d ≠ c → s.boundaryCheck x k.length d = none ∧ (s.core d).dueExpects x.tread last = []) →
        Gives .treadBoundary s fun t => Down t c f.reason) ∧
      ((∀ d ∈ x.cores, (s.core d).st = .running ∧ s.boundaryCheck x k.length d = none ∧ (s.core d).dueExpects x.tread last = []) →
        (last = false → Gives .treadBoundary s fun t =>
          t.tasks = [{ x with tread := x.tread + 1, usedNow := 0 }] ∧
          (∀ d ∈ x.cores, (s.core d).treadSt = .landed →
            t.core d = forgetSent { s.core d with treadSt := .open_, firstPc := none } s.clk.treadCount) ∧
          (∀ d ∈ x.cores, ∀ n g, (s.core d).treadSt = .untilT n g → n ≠ x.tread + 1 → (t.core d).treadSt = .untilT n g) ∧
          ∀ d, d ∉ x.cores → t.core d = forgetSent (s.core d) s.clk.treadCount) ∧
        (last = true → s.isLead x = true → Gives .treadBoundary s fun t =>
          t.tasks = [{ x with st := .landing, landingAt := s.clk.treadCount + 1, usedNow := 0 }] ∧
          (∀ d ∈ x.cores, t.core d = forgetSent { s.core d with st := .landed } s.clk.treadCount) ∧
          ∀ d, d ∉ x.cores → t.core d = forgetSent (s.core d) s.clk.treadCount))

/-- The tick, and what a boundary does to each core (R26 to R28, R31, R37, R51, R52). -/
def Obligations.BoundariesCountAndCheck : Prop :=
  Sys2Proof.Claims.BoundaryCountsTheTread ∧
  Sys2Proof.Claims.BoundaryChecksEveryCore ∧
  Sys2Proof.Claims.BoundaryEndsATread

/-- LANDING_RELEASE, LANDING_HOLD_LIMIT and RELEASE_MESSAGE (R30, R32, R41, R188, R237, R241): at the release tread the next
round begins at tread 0 on every landed core, at EXIT's target where one was taken, or the task ends; a landing held too
long and a release that comes too late halt the cores with 0x31. -/
def Sys2Proof.Claims.LandingsAreReleased : Prop :=
  ∀ (s : State) (id : BitVec 32) (x : Task), s.findTask id = some x →
    (∀ r k, x.releaseAt = some r → r ≤ s.clk.treadCount → s.stepDue = false → s.confDue = false →
      x.st = .loaded ∨ x.st = .landing → x.swap = none →
      x.releaseKind = some k →
      Gives (.landingRelease id) s fun t =>
        (∃ y, t.findTask id = some y ∧ y.st = .running ∧ y.tread = 0 ∧ y.kind = k ∧ y.releaseAt = none ∧
          y.epoch = x.releaseEpoch.getD x.epoch ∧ y.round = (if x.st = .landing then x.round + 1 else 0)) ∧
        (∀ c ∈ x.cores, (s.core c).st = .loaded ∨ (s.core c).st = .landed → (t.core c).st = .running ∧
          (t.core c).treadSt = .open_ ∧ (t.core c).pc = ((s.core c).exitOut).getD (s.core c).pc ∧
          (t.core c).mem = (s.core c).mem ∧ (t.core c).k = (s.core c).k ∧ (t.core c).cc = (s.core c).cc) ∧
        (∀ c, c ∉ x.cores → t.core c = s.core c)) ∧
    (∀ r, x.releaseAt = some r → r ≤ s.clk.treadCount → s.stepDue = false → s.confDue = false →
      x.st = .loaded ∨ x.st = .landing → x.swap = none →
      x.releaseKind = none →
      Gives (.landingRelease id) s fun t =>
        (∃ y, t.findTask id = some y ∧ y.st = .ended) ∧
        ∀ c ∈ x.cores, (s.core c).loadId = some x.loadId → (t.core c).st = .idle ∧ (t.core c).loadId = none ∧
          (t.core c).mem = (s.core c).mem) ∧
    (x.st = .landing → x.releaseAt = none → x.landingAt + 1000000 ≤ s.clk.treadCount →
      Gives (.landingHoldLimit id) s fun t => (∀ c ∈ x.cores, (s.core c).st ≠ .halted → Down t c 0x31) ∧
        ∀ c, c ∉ x.cores → t.core c = s.core c) ∧
    (∀ ne k r, x.live = true →
      (s.clk.treadCount + 1 < r →
        Gives (.releaseMessage id x.epoch ne k r) s fun t => t = { s with tasks := t.tasks } ∧
          ∃ y, t.findTask id = some y ∧ y = { x with releaseAt := some r, releaseKind := k, releaseEpoch := some ne }) ∧
      (r ≤ s.clk.treadCount + 1 →
        Gives (.releaseMessage id x.epoch ne k r) s fun t =>
          (∀ c ∈ x.cores, (s.core c).st ≠ .halted → Down t c 0x31) ∧ ∀ c, c ∉ x.cores → t.core c = s.core c))

/-- LANDING_REPORT at the lead of a task on one module (R30, R238): equal exit outcomes choose the next kind and the release
tread; different ones halt every core with 0x74. -/
def Sys2Proof.Claims.ReportsChooseTheNextRound : Prop :=
  ∀ (s : State) (id : BitVec 32) (x : Task) (k : RoundKind) (r : MemberReport), s.findTask id = some x → x.members.length ≤ 1 →
    x.member = 0 → r.member = 0 → x.st = .landing → x.decided = none → x.reports = [] → x.kinds[x.kind]? = some k →
    x.cores ≠ [] →
    (∀ o, x.serving = none → x.swap = none → x.unload = false → x.releaseSent = false → s.rst.scRunning.contains 1 = true →
      x.releaseEpoch = none → (o = true → k.exitRound = true) → (∀ c ∈ x.cores, (s.core c).exitOut.isSome = o) →
      Gives (.landingReport id x.epoch r) s fun t => t.cores = s.cores ∧
        ∃ y, t.findTask id = some y ∧ y.releaseAt = some (max (x.landingAt + k.landing) (s.clk.treadCount + 2)) ∧
          y.releaseKind = (if o then k.next1 else k.next0) ∧ y.releaseEpoch = some x.epoch ∧ y.st = .landing) ∧
    (∀ a b, a ∈ x.cores → b ∈ x.cores → (s.core a).exitOut = none → (s.core b).exitOut ≠ none →
      Gives (.landingReport id x.epoch r) s fun t => ∀ c ∈ x.cores, (s.core c).st ≠ .halted → Down t c 0x74)

/-- Landings, their report and their release (R30, R32, R41, R188, R237, R238, R241). -/
def Obligations.LandingsReportAndRelease : Prop :=
  Sys2Proof.Claims.LandingsAreReleased ∧
  Sys2Proof.Claims.ReportsChooseTheNextRound

/-- ABORT_CORE, ABORT_MODULE and TASK_FAULT (R235 to R237, R239, R240, R294): the cores that still run halt with 0x70, 0x71 or,
under another epoch, 0x73; once all are halted the task is FAULTED, its cores are cleared and its capture is kept. -/
def Obligations.AbortsHaltEveryCore : Prop :=
  ∀ (s : State) (id : BitVec 32),
    (∀ x reason addr stamp, s.findTask id = some x → x.live = true →
      (x.origin = some (reason, addr, stamp) →
        Gives (.abortCore id) s fun t => (∀ c ∈ x.cores, (s.core c).st ≠ .halted → Down t c 0x70 ∧
            ∃ f, (t.core c).fault = some f ∧ f.aux = abortAux reason addr stamp) ∧
          (∀ c, c ∉ x.cores → t.core c = s.core c) ∧ ∃ y, t.findTask id = some y ∧ y.abortSent = true) ∧
      (reason ≠ 0x72 → reason ≠ 0x74 → reason ≠ 0x62 ∨ addr ≠ noAddr →
        Gives (.abortModule id x.epoch reason addr stamp) s fun t =>
          (∀ c ∈ x.cores, (s.core c).st ≠ .halted → Down t c 0x71) ∧ (∀ c, c ∉ x.cores → t.core c = s.core c) ∧
          t.mgmtOut = s.mgmtOut) ∧
      (∀ e, e ≠ x.epoch →
        Gives (.abortModule id e reason addr stamp) s fun t => ∀ c ∈ x.cores, (s.core c).st ≠ .halted → Down t c 0x73)) ∧
    (∀ e reason addr stamp, s.findTask id = none →
      Gives (.abortModule id e reason addr stamp) s fun t => t.mgmtUnknown = s.mgmtUnknown + 1 ∧ t.cores = s.cores ∧
        t.tasks = s.tasks) ∧
    (∀ x, s.findTask id = some x → x.live = true → (∀ c ∈ x.cores, (s.core c).st = .halted) →
      Gives (.taskFault id) s fun t => (∃ y, t.findTask id = some y ∧ y.st = .faulted) ∧
        (t.part x.banner).crash = some (x.id, s.capture x) ∧
        ∀ c ∈ x.cores, (t.core c).mem = [] ∧ (t.core c).loadId = none ∧
          (t.core c).st = (if s.enabled c then .idle else .off))

/-- ARMED_STEP_CHANGE and ARMED_CHANGE_NOTICE (R37 to R42): at the armed boundary each hall that holds a task takes its named
step; a notice arms its halls' step for tread n when no condition of R40 fails; a refused arm leaves the pending change and is
reported to the lead, and the lead cancels the change on every module. A member's request for a step is armed by the lead 6
treads ahead, on every member (R458). -/
def Obligations.ArmedStepsApply : Prop :=
  ∀ (s : State),
    (∀ n h st, s.clk.armAt = some n → n ≤ s.clk.treadCount → s.clk.armSteps[h]? = some st → s.holdsTask h = true →
      s.hallOn h = true → s.pwr.emergency = false →
      Gives .armedStepChange s fun t => t.clk.armAt = none ∧ (t.hall h).stepCur = st ∧
        ∀ g, s.holdsTask g = false → s.raising g = false → t.hall g = s.hall g) ∧
    (∀ (id : BitVec 32) (x : Task) (st : BitVec 3) n, s.findTask id = some x → x.live = true →
      (s.clk.armAt = none → s.clk.treadCount + 2 ≤ n → st.toNat ≤ maxStep s.otp.grade → st ≠ 0 →
        (∀ h < 20, (s.hall h).stepCur.toNat ≤ maxStep s.otp.grade ∧ ((s.hall h).stepCur = 0 → s.hallRunning h = false)) →
        Gives (.armedChangeNotice id x.epoch (.arm n) st) s fun t => t.clk.armAt = some n ∧
          t.clk.stepAtLo = BitVec.ofNat 32 n ∧ t.cores = s.cores ∧
          (∀ h ∈ x.halls, h < 20 → t.clk.armSteps[h]? = some st) ∧ ∃ y, t.findTask id = some y ∧ y.step = st) ∧
      (n ≠ 0 → n < s.clk.treadCount + 2 →
        Gives (.armedChangeNotice id x.epoch (.arm n) st) s fun t => t.clk.armLate = true ∧ t.clk.armAt = s.clk.armAt ∧
          t.clk.armSteps = s.clk.armSteps ∧ t.halls = s.halls ∧ t.cores = s.cores ∧ t.tasks = s.tasks ∧
          t.mgmtOut = s.mgmtOut ++ [(BitVec.ofNat 10 x.leadAddr, .armRefused x.id x.epoch)]) ∧
      (∀ a, s.clk.armAt = some a → s.clk.treadCount + 2 ≤ a →
        (∀ h st, s.clk.armSteps[h]? = some st → (s.ownHalls x).contains h = false → st = (s.hall h).stepCur) →
        (Gives (.armedChangeNotice id x.epoch .cancel st) s fun t => t.clk.armAt = none ∧ t.cores = s.cores ∧
          t.halls = s.halls ∧ (x.st = .loaded → ∃ y, t.findTask id = some y ∧ y.releaseAt = none)) ∧
        (s.isLead x = true →
          Gives (.armedChangeNotice id x.epoch .refused st) s fun t => t.clk.armAt = none ∧ t.cores = s.cores ∧
            t.halls = s.halls ∧ ∀ m ∈ x.members, m.toNat ≠ s.modAddr → (m, MgmtMsg.armCancel x.id x.epoch) ∈ t.mgmtOut)) ∧
      (∀ up, s.isLead x = true → s.mayMove x up = true → s.clk.armAt = none → s.pwr.emergency = false → 1 < x.step.toNat →
        x.step.toNat ≤ maxStep s.otp.grade →
        (∀ g < 20, (s.hall g).stepCur.toNat ≤ maxStep s.otp.grade ∧ ((s.hall g).stepCur = 0 → s.hallRunning g = false)) →
        Gives (.armedChangeNotice id x.epoch (.ask up) st) s fun t => t.clk.armAt = some (s.clk.treadCount + 6) ∧
          t.cores = s.cores ∧
          (∀ g ∈ x.halls, g < 20 → t.clk.armSteps[g]? = some (if up then x.step + 1 else x.step - 1)) ∧
          ∀ m ∈ x.members, m.toNat ≠ s.modAddr →
            (m, MgmtMsg.armNotice x.id x.epoch (s.clk.treadCount + 6) (if up then x.step + 1 else x.step - 1)) ∈ t.mgmtOut))

/-! ### Reference, calendar and beats (02) -/

/-- Every core of every live task that was not HALTED is HALTED with reason `r`. -/
def Sys2Proof.Safety.TasksDown (s t : State) (r : BitVec 8) : Prop :=
  ∀ x ∈ s.tasks, x.live = true → ∀ c ∈ x.cores, (s.core c).st ≠ .halted → (t.core c).st = .halted ∧ (t.core c).reason = r

/-- The reference rows (R45 to R48, Table 2.7): each tread in which a candidate's edge came counts towards its 1,000, and a
tread without one starts the count again; a qualified candidate is locked to, or a switch to it begins where it has priority;
the loss of the reference in use starts the holdover timer and a switch, or HOLDOVER where nothing is qualified; a switch
ends LOCKED to its target, or in HOLDOVER when the target was lost; at the limit every task halts with 0x33 and a clock-class
reset is asked for. -/
def Obligations.ReferenceIsQualifiedLostAndSwitched : Prop :=
  ∀ (s : State),
    (∀ r, (s.candsNow.contains r = true → r ∈ s.clk.edges →
        tget 0 (s.clk.countPresence s.candsNow).presence (candCode r) = min 1000 (tget 0 s.clk.presence (candCode r) + 1) ∧
        tget 0 (s.clk.countPresence s.candsNow).absence (candCode r) = 0) ∧
      (r ∉ s.clk.edges → tget 0 (s.clk.countPresence s.candsNow).presence (candCode r) = 0)) ∧
    (∀ r, s.candsNow.contains r = true → 1000 ≤ tget 0 s.clk.presence (candCode r) →
      Gives (.referenceQualified r) s fun t => t = { s with clk := t.clk } ∧ t.clk.qual r = true ∧
        t.clk.treadCount = s.clk.treadCount ∧
        ∀ b, (s.clk.setQual r true).best s.candsNow = some b →
          (s.clk.refState = .acquire → s.rst.straps.clkMode ≠ 2 → t.clk.refState = .locked ∧ t.clk.source = srcOf b) ∧
          (s.clk.refState = .locked → (s.clk.setQual r true).sourceLost = false →
            prio s.rst.straps.clkMode (srcOf b) < prio s.rst.straps.clkMode s.clk.source →
            t.clk.refState = .switching ∧ t.clk.target = some (srcOf b) ∧ t.clk.switchLeft = 64)) ∧
    (∀ r, tget 0 s.clk.presence (candCode r) < 1000 → Gives (.referenceQualified r) s fun t => t = s) ∧
    (∀ r, 2 ≤ tget 0 s.clk.absence (candCode r) →
      Gives (.referenceLost r) s fun t => t = { s with clk := t.clk } ∧ t.clk.qual r = false ∧
        (s.clk.refState = .switching → s.clk.target = some (srcOf r) → t.clk.targetLost = true ∧ t.clk.refState = .switching) ∧
        (s.clk.refState = .locked → s.clk.source = srcOf r → t.clk.holdRun = true ∧ t.clk.holdTimer = 1 ∧
          ((s.clk.setQual r false).best s.candsNow = none → t.clk.refState = .holdover ∧ t.clk.source = .tcxo) ∧
          (∀ b, (s.clk.setQual r false).best s.candsNow = some b →
            t.clk.refState = .switching ∧ t.clk.target = some (srcOf b) ∧ t.clk.switchLeft = 64))) ∧
    (∀ g, s.clk.refState = .switching → s.clk.switchLeft = 0 → s.clk.target = some g → s.clk.targetLost = false →
      Gives .referenceSwitchEnd s fun t => t = { s with clk := t.clk } ∧ t.clk.refState = .locked ∧ t.clk.source = g ∧
        t.clk.holdRun = false ∧ t.clk.treadCount = s.clk.treadCount) ∧
    (s.clk.refState = .switching → s.clk.switchLeft = 0 → s.clk.targetLost = true →
      Gives .referenceSwitchEnd s fun t => t = { s with clk := t.clk } ∧ t.clk.refState = .holdover ∧
        t.clk.source = .tcxo ∧ t.clk.holdRun = true) ∧
    (s.clk.holdRun = true → 40000 ≤ s.clk.holdTimer.toNat → s.rst.off = false → s.rst.pend = none →
      Gives .holdoverLimit s fun t => TasksDown s t 0x33 ∧ t.clk.timeOut = true ∧
        ∃ p, t.rst.pend = some p ∧ p.cls = .clock ∧ p.causes = causeCkf ∧
          (s.pulsing = false → p.at_ = some (s.clk.treadCount + 2)))

/-- BEAT and CALENDAR_SECOND (R46, R49 to R51, R53): an edge makes its candidate present; one of the beat in use that agrees
records its phase, and one that does not halts every task with 0x33; the calendar moves by one second and stands still at its
last. -/
def Obligations.BeatsAndSecondsAreCounted : Prop :=
  ∀ (s : State),
    (∀ e p, s.clk.ownBeat e = false →
      Gives (.beat e p) s fun t => t = { s with clk := { s.clk with edges := t.clk.edges } } ∧ edgeCand e ∈ t.clk.edges) ∧
    (∀ e n p, e = .l62 n ∨ e = .l63 n → s.clk.ownBeat e = true →
      (n = s.clk.treadCount → p.natAbs ≤ 4000 → Gives (.beat e p) s fun t => t = { s with clk := t.clk } ∧
        edgeCand e ∈ t.clk.edges ∧
        t.clk = { s.clk with edges := t.clk.edges, phaseValid := true, phasePs := BitVec.ofInt 16 p, beatOff := none }) ∧
      (n ≠ s.clk.treadCount ∨ 4000 < p.natAbs → Gives (.beat e p) s fun t => TasksDown s t 0x33 ∧
        t.clk.timeOut = true ∧ t.clk.treadCount = s.clk.treadCount)) ∧
    (1000000 ≤ s.clk.subsec →
      Gives .calendarSecond s fun t => t.clk.subsec = s.clk.subsec - 1000000 ∧ t.clk.treadCount = s.clk.treadCount ∧
        t.cores = s.cores ∧ t.tasks = s.tasks ∧
        (s.clk.second < 59 → t.clk.second = s.clk.second + 1 ∧ t.clk.minute = s.clk.minute ∧ t.clk.day = s.clk.day) ∧
        (s.clk.second = 59 → s.clk.minute < 59 → t.clk.second = 0 ∧ t.clk.minute = s.clk.minute + 1) ∧
        (s.clk.second = 59 → s.clk.minute = 59 → s.clk.hour = 23 → s.clk.month = 2 → s.clk.day = 28 →
          t.clk.hour = 0 ∧ t.clk.year = s.clk.year ∧
          ((s.clk.year % 4 = 0 ∧ s.clk.year % 100 ≠ 0) ∨ s.clk.year % 400 = 0 → t.clk.month = 2 ∧ t.clk.day = 29) ∧
          (¬((s.clk.year % 4 = 0 ∧ s.clk.year % 100 ≠ 0) ∨ s.clk.year % 400 = 0) → t.clk.month = 3 ∧ t.clk.day = 1)) ∧
        (s.clk.second = 59 → s.clk.minute = 59 → s.clk.hour = 23 → s.clk.month = 12 → s.clk.day = 31 →
          s.clk.year = 2399 → t.clk.calSat = true ∧ t.clk.second = 59 ∧ t.clk.year = 2399)) ∧
    (∀ c : Clk, dateOk c.year c.month c.day c.hour c.minute c.second = true →
      dateOk c.nextSecond.year c.nextSecond.month c.nextSecond.day c.nextSecond.hour c.nextSecond.minute
        c.nextSecond.second = true)

/-! ### Registers (22) -/

/-- The reads that latch and the counters that a read clears (R25, R51, R406, R474, R475): the value read, the latched
companions, and a counter cleared for its reader alone. -/
def Sys2Proof.Claims.ReadsLatchAndClear : Prop :=
  ∀ (s : State) (f : FnId),
    (Gives (.treadCountLoRead f) s fun t => t = { s with clk := t.clk, fns := t.fns } ∧
      (t.fn f).readData = BitVec.ofNat 64 s.clk.treadCount ∧
      t.clk = { s.clk with countHiLatch := BitVec.ofNat 32 (wordOf s.clk.treadCount 1) } ∧
      ∀ g, g ≠ f.val → t.fn g = s.fn g) ∧
    (Gives (.calDateRead f) s fun t => t = { s with clk := t.clk, fns := t.fns } ∧
      (t.fn f).readData = BitVec.ofNat 64 (s.clk.dateWord + s.clk.timeWord * 4294967296) ∧
      t.clk = { s.clk with timeLatch := BitVec.ofNat 32 s.clk.timeWord, statLatch := BitVec.ofNat 32 s.clk.calStat }) ∧
    (∀ r, (s.rcGranted f r = true →
        Gives (.rcCounterRead f r) s fun t => t = { s with fns := t.fns, stackTbl := t.stackTbl } ∧
          (t.fn f).readData = BitVec.ofNat 64 (s.rcView f r) ∧ t.rcView f r = 0 ∧
          ∀ g : FnId, g ≠ f → t.rcView g r = s.rcView g r) ∧
      (s.rcGranted f r = false →
        Gives (.rcCounterRead f r) s fun t => t = { s with fns := t.fns } ∧ (t.fn f).readData = 0 ∧
          ∀ g, t.rcView g r = s.rcView g r))

/-- Arming writes (R38 to R41, R328): a step change or a wheel is armed only for a count at least two treads ahead and, for
steps, with no forbidden step; otherwise what was armed stands. At its tread the armed wheel replaces the wheel. -/
def Sys2Proof.Claims.ArmingNeedsTwoTreads : Prop :=
  ∀ (s : State) (v : Word) (n : StackId) (m : Nat),
    (m = v.toNat * 4294967296 + s.clk.stepAtLo.toNat →
      (s.clk.armAt = none → s.clk.treadCount + 2 ≤ m → s.badSteps s.nextSteps = false →
        Gives (.clkStepAtHiWrite v) s fun t => t = { s with clk := t.clk } ∧ t.clk.armAt = some m ∧
          t.clk.armSteps = s.nextSteps ∧ t.clk.stepAtHi = v ∧ t.clk.stepAtLo = s.clk.stepAtLo) ∧
      (m ≠ 0 → m < s.clk.treadCount + 2 →
        Gives (.clkStepAtHiWrite v) s fun t => t = { s with clk := t.clk } ∧ t.clk.armLate = true ∧
          t.clk.armAt = s.clk.armAt ∧ t.clk.armSteps = s.clk.armSteps ∧ t.clk.stepAtHi = s.clk.stepAtHi) ∧
      (m ≠ 0 → s.badSteps s.nextSteps = true →
        Gives (.clkStepAtHiWrite v) s fun t => t = { s with clk := t.clk } ∧ t.clk.armBad = true ∧
          t.clk.armAt = s.clk.armAt)) ∧
    (m = v.toNat * 4294967296 + (s.stack n).atLo.toNat →
      ((s.stack n).armAt = none → s.clk.treadCount + 2 ≤ m →
        Gives (.nearWheelAtHiWrite n v) s fun t => t = { s with stackTbl := t.stackTbl } ∧
          t.stack n = { s.stack n with atHi := v, armAt := some m }) ∧
      (m ≠ 0 → m < s.clk.treadCount + 2 →
        Gives (.nearWheelAtHiWrite n v) s fun t => t = { s with stackTbl := t.stackTbl } ∧ t.stack n = s.stack n)) ∧
    (∀ a, (s.stack n).armAt = some a → a ≤ s.clk.treadCount → s.stepDue = false →
      ((s.stack n).wheelWant = none → Gives (.armedWheelChange n) s fun t => t = { s with stackTbl := t.stackTbl } ∧
        t.stack n = { s.stack n with wheel := (s.stack n).wheelNext, armAt := none }) ∧
      (∀ w, (s.stack n).wheelWant = some w → Gives (.armedWheelChange n) s fun t => t = { s with stackTbl := t.stackTbl } ∧
        (t.stack n).wheel = (s.stack n).wheelNext ∧ (t.stack n).wheelNext = w ∧ (t.stack n).wheelWant = none ∧
        (t.stack n).armAt = some (s.clk.treadCount + 2)))

/-- Latching reads and arming writes (R25, R38 to R41, R51, R328, R406, R474, R475). -/
def Obligations.ReadsLatchAndArmingTakesTwoTreads : Prop :=
  Sys2Proof.Claims.ReadsLatchAndClear ∧
  Sys2Proof.Claims.ArmingNeedsTwoTreads

/-- Register writes (R7, R8, R394, R395, R474, R476): a host changes nothing outside its own queue registers, a narrow or
unaligned write changes nothing, a service core cannot assign resources while the lock of R394 stands, and the lock of
the protection controls holds once set. -/
def Obligations.WritesReachOnlyTheirRegisters : Prop :=
  ∀ (s : State) (w : Writer) (o : BitVec 25) (n : Nat) (v : BitVec 64),
    (¬(n = 4 ∧ o.toNat % 4 = 0) → ¬(n = 8 ∧ o.toNat % 8 = 0) → Gives (.registerWrite w o n v) s fun t => t = s) ∧
    (∀ f, w = .host f → Gives (.registerWrite w o n v) s fun t =>
      t = { s with fns := t.fns, accepted := t.accepted, rst := { s.rst with window := t.rst.window } } ∧
        (∀ g, g ≠ f.val → t.fn g = s.fn g) ∧ (s.rst.step ≠ 14 → t.rst = s.rst) ∧
        (s.rst.step ≠ 14 → o.toNat < 0x1000000 → o.toNat < 0x40100 ∨ 0x40300 ≤ o.toNat → n = 4 → t = s)) ∧
    (w = .host 0 → s.rst.step = 14 → (s.fn 0).present = true → o.toNat + 4 ≤ 0x800000 → o.toNat % 4 = 0 → n = 4 →
      Gives (.registerWrite w o n v) s fun t => t.rst.window = memWrite s.rst.window o.toNat (leBytes 4 (v.setWidth 32 : Word).toNat) ∧
        t.fns = s.fns) ∧
    (∀ f, w = .host f → s.rst.step ≠ 14 → f.val ≠ 4 → (s.fn f.val).present = true → 0x1001000 ≤ o.toNat → o.toNat < 0x1002000 → o.toNat % 4 = 0 →
      n = 4 → Gives (.registerWrite w o n v) s fun t =>
      t.fn f.val = { s.fn f.val with msix := tset (s.fn f.val).msix ((o.toNat - 0x1001000) / 4) (v.setWidth 32), pba := (t.fn f.val).pba } ∧
      ∀ x ∈ (t.fn f.val).pba, x ∈ (s.fn f.val).pba) ∧
    (∀ k, w = .service k → bannerReg o.toNat = true → s.sec.bannerWr = true → n = 4 →
      Gives (.registerWrite w o n v) s fun t => t = { s with diag := t.diag, fwWords := t.fwWords }) ∧
    (∀ k, w = .service k → k.val ∈ s.rst.scRunning → bannerReg o.toNat = false → fwMask o.toNat ≠ 0 → n = 4 →
      Gives (.registerWrite w o n v) s fun t => t = { s with fwWords := t.fwWords } ∧
        ∀ f, s.filtered f = false → BitVec.ofNat 32 (t.regWord f o.toNat) &&& fwMask o.toNat = v.setWidth 32 &&& fwMask o.toNat) ∧
    (w = .enclave → s.rst.off = false → o.toNat = 0x60010 → s.sec.lock = true → n = 4 →
      Gives (.registerWrite w o n v) s fun t => t = s) ∧
    (∀ x : Word, Gives (.protLockWrite x) s fun t => t = { s with sec := t.sec } ∧
      t.sec.lock = (s.sec.lock || (s.rst.scRunning.isEmpty && x.getLsbD 0)) ∧ t.sec.keys = s.sec.keys)

/-! ### Links: training and teardown (12) -/

/-- Nothing differs but link `l`. -/
def Sys2Proof.Safety.LinkOnly (l : Nat) (s t : State) : Prop :=
  t = { s with links := t.links } ∧ ∀ m, m ≠ l → t.link m = s.link m

/-- Nothing differs but link `l`, the event log and what the hosts are told of it. -/
def Sys2Proof.Safety.LinkLogged (l : Nat) (s t : State) : Prop :=
  t = { s with links := t.links, diag := t.diag, fns := t.fns } ∧ ∀ m, m ≠ l → t.link m = s.link m

/-- Training goes from state to state (R274, R276, R277, Table 12.6). -/
def Sys2Proof.Claims.TrainingAdvancesInOrder : Prop :=
  ∀ (s : State) (l : LinkId),
    (∀ r, (s.link l).st = .detect → (s.link l).inBackoff = false → s.linksOn = true →
      (s.link l).idleUntil ≤ s.clk.treadCount → r.present = true →
      r.openLanes = 0 → r.shortLanes = 0 → Gives (.detect l r) s fun t => LinkOnly l s t ∧
        t.link l = { s.link l with polFixed := r.polFixed, laneSwap := r.laneSwap, laneFault := 0, st := .equalise,
                                   stateAt := s.clk.treadCount }) ∧
    ((s.link l).st = .equalise → Gives (.equalise l) s fun t => LinkOnly l s t ∧
      t.link l = { s.link l with st := .align, stateAt := s.clk.treadCount }) ∧
    ((s.link l).st = .align → Gives (.align l) s fun t => LinkOnly l s t ∧
      t.link l = { s.link l with st := .identify, stateAt := s.clk.treadCount }) ∧
    (∀ r, (s.link l).st = .identify → Gives (.identify l r) s fun t => LinkLogged l s t ∧
      (t.link l).st = .secure ∧ (t.link l).peerLink = r.link ∧ (t.link l).peerRow = r.row ∧ (t.link l).peerCol = r.column ∧
      (s.rightPartner l r = false → (t.link l).quarMark = some 8) ∧
      (s.rightPartner l r = true → s.manifest = none ∨ r.manifest ≠ s.manifestDigest → (t.link l).quarMark = some 9) ∧
      (s.rightPartner l r = true → s.manifest ≠ none → r.manifest = s.manifestDigest → r.config = s.configDigest l →
        r.compat = s.fw.compat → (t.link l).quarMark = none)) ∧
    (∀ p, (s.link l).st = .secure → s.clk.calValid = false ∨ p = true →
      ((s.link l).quarMark = none → Gives (.secure l ⟨true, p⟩) s fun t =>
        t = { s with links := t.links, fresh := s.fresh + 1 } ∧ (∀ m, m ≠ l.val → t.link m = s.link m) ∧
        (t.link l).st = .time ∧ (t.link l).epochNo = 0 ∧ (t.link l).rxEpochNo = 0 ∧ (t.link l).secret.isSome = true) ∧
      (∀ q, (s.link l).quarMark = some q → Gives (.secure l ⟨true, p⟩) s fun t =>
        (∀ m, m ≠ l.val → t.link m = s.link m) ∧ t.clk = s.clk ∧ t.cores = s.cores ∧
        (t.link l).st = .quarantine ∧ (t.link l).cause = q ∧ (t.link l).bulkCred = 256)) ∧
    (∀ n a b o, (s.link l).st = .time → a - b = 2 * o →
      (n = s.clk.treadCount → o.natAbs ≤ 4000 → Gives (.timeLink l n a b) s fun t =>
        (t.link l).st = .active ∧ (t.link l).failures = 0 ∧ (t.link l).delay = BitVec.ofInt 16 (b + o) ∧
        (t.link l).offset = BitVec.ofInt 16 o ∧
        t.clk.treadCount = s.clk.treadCount ∧ ∀ m, m ≠ l.val → t.link m = s.link m) ∧
      ((n ≠ s.clk.treadCount ∨ 4000 < o.natAbs) → s.refLink l = true → s.tasks.any Task.live = false →
        Gives (.timeLink l n a b) s fun t => (t.link l).st = .active ∧ t.clk.treadCount = n) ∧
      ((n ≠ s.clk.treadCount ∨ 4000 < o.natAbs) → s.refLink l = false ∨ s.tasks.any Task.live = true →
        (s.clk.beatOff = none → Gives (.timeLink l n a b) s fun t => (t.link l).st = .quarantine ∧ (t.link l).cause = 0xC ∧
          t.clk = s.clk) ∧
        (∀ c, s.clk.beatOff = some c → s.clk.timeOut = false → Gives (.timeLink l n a b) s fun t =>
          (t.link l).st = .quarantine ∧ (t.link l).cause = 0xC ∧ t.clk.timeOut = true)))

/-- The link failed in training: DETECT under a backoff of 2^(n-1) ms after n failures, 1,000 ms from the eleventh (R275). -/
def Sys2Proof.Safety.BackedOff (k k' : Link) (cause : BitVec 4) : Prop :=
  k'.st = .detect ∧ k'.cause = cause ∧ k'.inBackoff = true ∧ k'.failures.toNat = min 63 (k.failures.toNat + 1) ∧
  k'.backoff.toNat = (if k.failures.toNat + 1 ≤ 10 then 2 ^ k.failures.toNat else 1000) ∧ k'.txQ = [] ∧ k'.held = []

/-- Training failures (R274, R275, Tables 12.6 and 12.7). -/
def Sys2Proof.Claims.TrainingFailuresBackOff : Prop :=
  ∀ (s : State) (l : LinkId),
    (∀ r, (s.link l).st = .detect → (s.link l).inBackoff = false → s.linksOn = true →
      (s.link l).idleUntil ≤ s.clk.treadCount →
      (r.present = false → Gives (.detect l r) s fun t => LinkOnly l s t ∧ BackedOff (s.link l) (t.link l) 1) ∧
      (r.present = true → r.openLanes ≠ 0 → Gives (.detect l r) s fun t => LinkOnly l s t ∧
        BackedOff (s.link l) (t.link l) 3) ∧
      (r.present = true → r.openLanes = 0 → r.shortLanes ≠ 0 → Gives (.detect l r) s fun t => LinkOnly l s t ∧
        BackedOff (s.link l) (t.link l) 4)) ∧
    (∀ c, (s.link l).st = .secure → c.chainOk = false ∨ (s.clk.calValid = true ∧ c.periodsOk = false) →
      Gives (.secure l c) s fun t => LinkOnly l s t ∧ BackedOff (s.link l) (t.link l) 0xB) ∧
    ((s.link l).inBackoff = false →
      ((s.link l).st.training = true → s.clk.treadCount < (s.link l).stateAt + timeoutOf (s.link l).st →
        Gives (.trainingTimeout l) s fun t => t = s) ∧
      ((s.link l).st = .equalise → (s.link l).stateAt + 200000 ≤ s.clk.treadCount → Gives (.trainingTimeout l) s fun t => LinkOnly l s t ∧ BackedOff (s.link l) (t.link l) 5) ∧
      ((s.link l).st = .align → (s.link l).stateAt + 10000 ≤ s.clk.treadCount → Gives (.trainingTimeout l) s fun t => LinkOnly l s t ∧ BackedOff (s.link l) (t.link l) 6) ∧
      ((s.link l).st = .identify → (s.link l).stateAt + 50000 ≤ s.clk.treadCount → Gives (.trainingTimeout l) s fun t => LinkOnly l s t ∧
        BackedOff (s.link l) (t.link l) 7) ∧
      ((s.link l).st = .secure → (s.link l).stateAt + 100000 ≤ s.clk.treadCount → Gives (.trainingTimeout l) s fun t => LinkOnly l s t ∧
        BackedOff (s.link l) (t.link l) 0xB) ∧
      ((s.link l).st = .time → (s.link l).stateAt + 10000 ≤ s.clk.treadCount → Gives (.trainingTimeout l) s fun t => LinkLogged l s t ∧ (t.link l).st = .quarantine ∧
        (t.link l).cause = 0xC)) ∧
    ((s.link l).st.training = true → (s.link l).st ≠ .detect →
      Gives (.presenceLost l) s fun t => LinkOnly l s t ∧ BackedOff (s.link l) (t.link l) 2) ∧
    ((s.link l).inBackoff = true →
      ((s.link l).stateAt + 1000 * (s.link l).backoff.toNat ≤ s.clk.treadCount → Gives (.backoffExpiry l) s fun t =>
        LinkOnly l s t ∧ t.link l = { s.link l with inBackoff := false, stateAt := s.clk.treadCount }) ∧
      (s.clk.treadCount < (s.link l).stateAt + 1000 * (s.link l).backoff.toNat → Gives (.backoffExpiry l) s fun t => t = s)) ∧
    ((s.link l).st.training = true → s.linksOn = true →
      ((s.link l).trainFrom + 10000000 ≤ s.clk.treadCount → Gives (.trainingLimit l) s fun t => LinkLogged l s t ∧
        (t.link l).st = .absent) ∧
      (s.clk.treadCount < (s.link l).trainFrom + 10000000 → Gives (.trainingLimit l) s fun t => t = s)) ∧
    ((s.link l).st = .absent → Gives (.presenceProbe l true) s fun t => LinkOnly l s t ∧
      t.link l = { s.link l with st := .detect, failures := 0, backoff := 1, inBackoff := false, stateAt := s.clk.treadCount,
                                 trainFrom := s.clk.treadCount })

/-- The link is torn down at tread `now` (R278): a link that carries frames has sent a status frame with teardown set, its
protocol state is gone, the messages it held count as late, and it begins in DETECT with the backoff at 1 ms, or is OFF. -/
def Sys2Proof.Safety.TornDown (k k' : Link) (on : Bool) (cause : BitVec 4) (now : Nat) (back : Bool := false) : Prop :=
  k' = { k.cleared with enable := on, st := if on then .detect else .off, cause := cause, failures := 0, backoff := 1,
                        inBackoff := back, offPend := k'.offPend, lastTx := k'.lastTx, late := k.late + k.heldMsgs.length,
                        idleUntil := now + 10, stateAt := now, trainFrom := now } ∧
  (k.up = true → ∃ f p, k'.lastTx = some f ∧ f.kind = .status ∧ f.body = .status p ∧ p.teardown = true)

/-- What tears a link down, and how a link leaves OFF (R266, R278, R279). -/
def Sys2Proof.Claims.TeardownsAndOff : Prop :=
  ∀ (s : State) (l : LinkId),
    ((s.link l).st ≠ .off →
      (Gives (.linkCtlRetrain l) s fun t => TornDown (s.link l) (t.link l) (s.link l).enable 0xF s.clk.treadCount ∧
        t.clk = s.clk ∧ ∀ m, m ≠ l.val → t.link m = s.link m) ∧
      (Gives (.linkCtlDisable l) s fun t => TornDown (s.link l) (t.link l) false 0xF s.clk.treadCount ∧
        t.clk = s.clk ∧ ∀ m, m ≠ l.val → t.link m = s.link m) ∧
      (Gives (.linkCtlEnable l) s fun t => t = s) ∧
      (Gives (.blockResetLink l) s fun t => TornDown (s.link l) (t.link l) (s.link l).enable 0xF s.clk.treadCount ∧
        l.val ∈ t.rst.blockLink)) ∧
    ((s.link l).up = true →
      (∀ p, Gives (.fecLockLost l p) s fun t => TornDown (s.link l) (t.link l) (s.link l).enable (if p then 2 else 0xD) s.clk.treadCount
        (p && (s.link l).enable)) ∧
      (Gives (.presenceLost l) s fun t => TornDown (s.link l) (t.link l) (s.link l).enable 2 s.clk.treadCount (s.link l).enable) ∧
      ((s.link l).quiet < 64 → Gives (.noValidFrame l) s fun t => t = s) ∧
      (64 ≤ (s.link l).quiet → Gives (.noValidFrame l) s fun t => TornDown (s.link l) (t.link l) (s.link l).enable 0xD s.clk.treadCount) ∧
      ((s.link l).mgmtSeen + 100000 ≤ s.clk.treadCount ∨ ((s.link l).bulkCred = 0 ∧
          (s.link l).credSeen + 100000 ≤ s.clk.treadCount ∧ ∃ m ∈ (s.link l).txQ, m.bulk = true ∧ m.tread + 100000 ≤ s.clk.treadCount) →
        Gives (.leaseExpiry l) s fun t => TornDown (s.link l) (t.link l) (s.link l).enable 0xF s.clk.treadCount) ∧
      (s.clk.treadCount < (s.link l).mgmtSeen + 100000 → (s.link l).bulkCred ≠ 0 → Gives (.leaseExpiry l) s fun t => t = s)) ∧
    ((s.link l).st = .off →
      (s.noPartner l = false → Gives (.linkCtlEnable l) s fun t => LinkOnly l s t ∧
        t.link l = { s.link l with enable := true, offPend := true }) ∧
      (s.noPartner l = true → Gives (.linkCtlEnable l) s fun t => t = s) ∧
      ((s.link l).offPend = true → Gives (.linkOffExit l) s fun t => LinkLogged l s t ∧
        t.link l = { s.link l with st := .detect, offPend := false, backoff := 1, inBackoff := false, failures := 0,
                                   cause := 0, stateAt := s.clk.treadCount, trainFrom := s.clk.treadCount }))

/-- Link training, its failures, teardown and OFF (R266, R274 to R279). -/
def Obligations.LinksTrainBackOffAndTearDown : Prop :=
  Sys2Proof.Claims.TrainingAdvancesInOrder ∧
  Sys2Proof.Claims.TrainingFailuresBackOff ∧
  Sys2Proof.Claims.TeardownsAndOff

/-! ### Block resets (19) and frames on the links (12) -/

/-- Block resets (R416, R425, R426, Table 19.3): what each block loses, and the bit that stands until it is back in service. -/
def Sys2Proof.Claims.BlockResetsReachTheirBlock : Prop :=
  ∀ (s : State),
    (∀ (h : HallId), (hallCores h).any s.enabled = true →
      Gives (.blockResetHall none h) s fun t => h.val ∈ t.rst.blockHall ∧ ∀ c, c < 160 → hallOf c = h.val →
        (t.core c).mem = [] ∧ (t.core c).loadId = none ∧ (s.enabled c = true → (t.core c).st = .clearing)) ∧
    (∀ (c : CoreId) (h : HallId), s.enabled c = true →
      Gives (.blockResetHall (some c) h) s fun t => c.val ∈ t.rst.blockCore ∧ (t.core c).mem = [] ∧
        (t.core c).st = .clearing) ∧
    (∀ (n : StackId), Gives (.blockResetNear n) s fun t => n.val ∈ t.rst.blockNear ∧ (t.stack n).selfRefresh = true ∧
        (t.stack n).resetBusy = true ∧
        ∀ x ∈ s.tasks, x.live = true → s.usesStack n x = true → ∀ c ∈ x.cores, (t.core c).st = .halted) ∧
    (Gives .blockResetFar s fun t => t.rst.blockFar = true ∧ t.far = { s.far with ready := false } ∧ t.cores = s.cores) ∧
    (Gives .blockResetStrm s fun t => t = { s with rst := { s.rst with blockStrm := true } }) ∧
    (Gives .blockResetMesh s fun t => t.rst.blockMesh = true ∧ t.mesh = [] ∧
        ∀ x ∈ s.tasks, x.live = true → ∀ c ∈ x.cores, (t.core c).st = .halted) ∧
    (∀ (n : ScId), (Gives (.blockResetSc n) s fun t => n.val ∈ t.rst.blockSc ∧ n.val ∉ t.rst.scRunning ∧
        t.cores = s.cores ∧ t.halls = s.halls) ∧
      (n.val ∈ s.rst.blockSc → Gives (.blockBackInService (.sc n)) s fun t => n.val ∉ t.rst.blockSc ∧
        n.val ∈ t.rst.scRunning)) ∧
    (∀ (n : ScId), ((tget [] s.rst.wdtTimes n).filter fun x => decide (s.rst.ticks < x + 60000000)).length < 2 →
      Gives (.wdtServiceCore n) s fun t => n.val ∈ t.rst.blockSc ∧ t.rst.pend = s.rst.pend ∧
        s.rst.ticks ∈ tget [] t.rst.wdtTimes n) ∧
    (∀ (n : ScId), 2 ≤ ((tget [] s.rst.wdtTimes n).filter fun x => decide (s.rst.ticks < x + 60000000)).length →
      s.rst.off = false → s.rst.pend = none →
      Gives (.wdtServiceCore n) s fun t => n.val ∈ t.rst.blockSc ∧
        ∃ p, t.rst.pend = some p ∧ p.cls = .warm ∧ p.causes = causeWdt ∧ p.sc = BitVec.ofNat 4 n) ∧
    (∀ (n : StackId), n.val ∈ s.rst.blockNear → Gives (.blockBackInService (.near n)) s fun t =>
      n.val ∉ t.rst.blockNear ∧ (t.stack n).selfRefresh = false ∧ (t.stack n).resetBusy = false) ∧
    (s.rst.blockFar = true → Gives (.blockBackInService .far) s fun t => t.far = { s.far with ready := true } ∧
      t.rst = { s.rst with blockFar := false })

/-- FRAME_SLOT (R257 to R263, R269, R288): a link that does not train or carry frames sends nothing, one in ALIGN to SECURE a
training frame with its CRC; a control slot carries a status frame with the tread count; a scheduled slot of an active
link carries the frame that its message places there, under the next number of its class and held for replay, or the
forwarded frame of the slot; a waiting replay, the frame as first sent, goes before new management and bulk frames. -/
def Sys2Proof.Claims.SlotsCarryTheirFrames : Prop :=
  ∀ (s : State) (l : LinkId) (p : Fin 339),
    ((s.link l).up = false → (s.link l).st.shakes = false → (s.link l).st ≠ .time → Gives (.frameSlot l p) s fun t => t = s) ∧
    ((s.link l).st.shakes = true → Gives (.frameSlot l p) s fun t => t = { s with links := t.links, fresh := s.fresh + 1 } ∧
      (∀ m, m ≠ l.val → t.link m = s.link m) ∧ ∃ f, (t.link l).lastTx = some f ∧ f.kind = .training ∧ f.bytes.length = 74 ∧
        f.bytes.drop 66 = leBytes 8 (crc64 0 (f.bytes.take 66)).toNat) ∧
    ((s.link l).up = true →
      (∀ c < 4, tget 0 (s.link l).txSeq c + 66 < 4294967296) → (∀ x ∈ (s.link l).txQ, x.head.flits ≤ 64) →
      (isControl p = true → Gives (.frameSlot l p) s fun t => t = { s with links := t.links } ∧
        (∀ m, m ≠ l.val → t.link m = s.link m) ∧
        (∃ f q, (t.link l).lastTx = some f ∧ f.kind = .status ∧ f.seq = tget 0 (s.link l).txSeq 3 ∧ f.body = .status q ∧
          q.tread = s.clk.treadCount ∧ q.slot = p.val ∧ q.teardown = false ∧ q.mgmtFree = (s.link l).mgmtFree ∧
          q.rekeyArm = (s.link l).rekeyAt.isSome ∧ q.ack = [0, 1, 2].map (fun c => BitVec.ofNat 16 (tget 0 (s.link l).rxAck c)) ∧
          ((s.link l).lost.length ≤ 8 → ∀ x ∈ (s.link l).lost, ({ seq := BitVec.ofNat 16 x.seq, cls := x.cls } : NakEntry) ∈ q.naks)) ∧
        tget 0 (t.link l).txSeq 3 = tget 0 (s.link l).txSeq 3 + 1 ∧ (t.link l).txQ = (s.link l).txQ) ∧
      (∀ m, isControl p = false → isUnscheduled p = false → (s.link l).st = .active →
        (s.link l).atIndex s.clk.treadCount (schedIndex p) = some m →
        Gives (.frameSlot l p) s fun t => t = { s with links := t.links } ∧ (∀ x, x ≠ l.val → t.link x = s.link x) ∧
          tget 0 (t.link l).txSeq 0 = tget 0 (s.link l).txSeq 0 + (if m.placed = 0 then 1 + m.head.flits else 0) ∧
          ∃ f ∈ (t.link l).held, f.cls = 0 ∧ f.seq = (if m.placed = 0 then tget 0 (s.link l).txSeq 0 else m.base + m.placed) ∧ f.head = some m.head ∧ f.nakked = false ∧
            (t.link l).lastTx = some f.frame ∧ f.frame.seq = f.seq ∧
            f.frame.kind = (if m.placed = 0 then .schedHead else .schedData) ∧
            f.frame.body = (if m.placed = 0 then .head m.head else .data (padFrame (m.data.drop (64 * (m.placed - 1)))))) ∧
      (∀ f, isControl p = false → isUnscheduled p = false → (s.link l).st = .active →
        (s.link l).atIndex s.clk.treadCount (schedIndex p) = none →
        (s.link l).fwdAt s.clk.treadCount (schedIndex p) = some f →
        ∀ h, f.2.2.head = some h → h.flits ≤ 64 → s.clk.treadCount ≤ h.deadline → (s.link l).blocks.all (fun b => decide (s.clk.treadCount ≤ b.1.deadline)) = true →
        Gives (.frameSlot l p) s fun t => t = { s with links := t.links } ∧
          ∃ x, (t.link l).lastTx = some x ∧ x.body = f.2.2.frame.body ∧ x.kind = f.2.2.frame.kind ∧
            x.seq = (s.link l).fwdBase h + f.2.2.seq ∧ ∃ y ∈ (t.link l).held, y.frame = x ∧ y.seq = x.seq ∧ y.head = some h) ∧
      (∀ f, isControl p = false → isUnscheduled p = true → (s.link l).lost.all (·.nakSent) = true → (s.link l).fwd = [] →
        ((s.link l).prune s.clk.treadCount).nextReplay = some f → f.unsent = false →
        Gives (.frameSlot l p) s fun t => (t.link l).replayed = (s.link l).replayed + 1 ∧
          (t.link l).txSeq = (s.link l).txSeq ∧ t.mgmtOut = s.mgmtOut ∧ (t.link l).lastTx = some f.frame))

/-- FRAME_RECEIPT and STATUS_FRAME (R258 to R262, R264, R273): a codeword that cannot be corrected is dropped and counted, a
failed authentication is counted, a number seen before is a duplicate and delivers nothing, a new one advances the
acknowledgement; a status frame releases what it acknowledges and adds its credit; teardown asked for tears down. -/
def Obligations.FramesAreTakenOnce : Prop :=
  ∀ (s : State) (l : LinkId), (s.link l).up = true →
    (∀ f, f.fecOk = false → Gives (.frameReceipt l f) s fun t => LinkOnly l s t ∧
      (t.link l).fecUncorr = (s.link l).fecUncorr + f.uncorr ∧ (t.link l).fecCorr = (s.link l).fecCorr + f.fixed ∧
      (t.link l).rxMsgs = (s.link l).rxMsgs ∧
      (t.link l).rxAck = (s.link l).rxAck) ∧
    (∀ f cls, f.fecOk = true → f.kind ≠ .reserved → frameClass f.kind = some cls → f.authOk = false →
      ((s.link l).authFailed s.clk.treadCount).overFailures s.clk.treadCount = false →
      (s.link l).overLosses s.clk.treadCount = false →
      Gives (.frameReceipt l f) s fun t => LinkOnly l s t ∧ (t.link l).authFail = (s.link l).authFail + 1 ∧
        (t.link l).rxMsgs = (s.link l).rxMsgs ∧ (t.link l).rxAck = (s.link l).rxAck) ∧
    (∀ f cls n, f.fecOk = true → f.kind ≠ .reserved → frameClass f.kind = some cls → f.authOk = true →
      (s.link l).accepts f.epoch = true → (s.link l).st = .active →
      rebuild 4096 (tget 0 (s.link l).rxAck cls.val) f.seq12.toNat = some n →
      (n < tget 0 (s.link l).rxAck cls.val ∨ n ∈ tget [] (s.link l).rxSeen cls.val →
        Gives (.frameReceipt l f) s fun t => LinkOnly l s t ∧ (t.link l).dup = (s.link l).dup + 1 ∧
          (t.link l).rxMsgs = (s.link l).rxMsgs ∧ (t.link l).rxAck = (s.link l).rxAck) ∧
      (n = tget 0 (s.link l).rxAck cls.val → tget [] (s.link l).rxSeen cls.val = [] → (s.link l).buffered < 1024 →
        (s.link l).overFailures s.clk.treadCount = false → (s.link l).overLosses s.clk.treadCount = false →
        Gives (.frameReceipt l f) s fun t => LinkOnly l s t ∧ tget 0 (t.link l).rxAck cls.val = n + 1 ∧
          (t.link l).dup = (s.link l).dup ∧ (t.link l).txSeq = (s.link l).txSeq)) ∧
    (∀ rx p, rx.fecOk = true → rx.authOk = true → p.teardown = true → Gives (.statusFrame l rx p) s fun t =>
      (t.link l).cause = 0xF ∧ (t.link l).txQ = [] ∧ (t.link l).held = []) ∧
    (∀ rx p, rx.fecOk = true → rx.authOk = true → p.teardown = false → p.sent = [] →
      (s.link l).overFailures s.clk.treadCount = false → (s.link l).overLosses s.clk.treadCount = false →
      (p.slot ≠ 0 → p.naks = [] → Gives (.statusFrame l rx p) s fun t => LinkOnly l s t ∧
        (t.link l).bulkCred = (s.link l).bulkCred + p.bulkCredit ∧ (t.link l).partnerMgmtFree = p.mgmtFree ∧
        (t.link l).held = ((s.link l).acked p.ack).held ∧ (t.link l).quiet = 0) ∧
      (∀ e f, p.slot ≠ 0 → p.naks = [e] →
        ((s.link l).acked p.ack).held.find? (fun f => f.cls == e.cls && f.seq % 65536 == e.seq.toNat && !f.unsent) = some f →
        (f.replays = 0 → Gives (.statusFrame l rx p) s fun t => LinkOnly l s t ∧ { f with nakked := true } ∈ (t.link l).held) ∧
        (∀ h, f.replays ≠ 0 → f.nakked = false → f.sentAt + 204 ≤ slotTime s.clk.treadCount 0 → f.head = some h →
          Gives (.statusFrame l rx p) s fun t => (t.link l).late = (s.link l).late + 1 ∧
            ∀ x ∈ (t.link l).held, x.head ≠ some h)) ∧
      (∀ a b o, p.slot = 0 → p.naks = [] → (s.link l).st = .active → rx.time = some (a, b) → a - b = 2 * o →
        (p.tread = s.clk.treadCount → o.natAbs ≤ 4000 → Gives (.statusFrame l rx p) s fun t => LinkOnly l s t ∧
          (t.link l).delay = BitVec.ofInt 16 (b + o) ∧ (t.link l).st = .active) ∧
        (p.tread ≠ s.clk.treadCount ∨ 4000 < o.natAbs → s.clk.beatOff = none → Gives (.statusFrame l rx p) s fun t =>
          (t.link l).st = .quarantine ∧ (t.link l).cause = 0xC ∧ t.clk = s.clk)))

/-- MESSAGE_ASSEMBLED, TWO_HOP_FORWARD and LINK_MESSAGE_LATE (R267, R269 to R271, R288): a group with all its frames goes onto
the mesh as one packet of its message; a frame for another module goes out on the link of its column in its forwarding
tread; a message past its deadline is discarded, counted, and its source told. -/
def Obligations.AssembledMessagesGoOn : Prop :=
  ∀ (s : State) (l : LinkId) (q : BitVec 16),
    (∀ m g w, (s.link l).msgOf q (fun m => m.head.destMod.toNat == s.modAddr) = some m →
      groupFrames m.head.flits g ≠ [] → m.issued = [] →
      (∀ j ∈ groupFrames m.head.flits g, m.frames.any (fun f => f.1 == j) = true) → (m.bulk = false → s.clk.treadCount ≤ m.head.deadline) →
      bankCheck (tget [] s.windows (bankOfLink l)) m.head = .fresh w →
      Gives (.messageAssembled l q g) s fun t => t = { s with links := t.links, windows := t.windows, mesh := t.mesh } ∧
        (∀ x, x ≠ l.val → t.link x = s.link x) ∧ tget [] t.windows (bankOfLink l) = w ∧
        ∃ p, t.mesh = s.mesh ++ [p] ∧ p.kind = m.head.kind ∧ p.dest = m.head.dest.toNat ∧ p.seq = m.head.sequence ∧
          p.source = m.head.source ∧ p.part = g ∧ p.fromLink = true ∧ (m.bulk = false → m.fed = [] → p.cls = 0) ∧
          (m.head.kind.toNat ≤ 3 → p.payload = (groupFrames m.head.flits g).flatMap (fun j => tget [] m.frames j) ∧
            p.address = m.head.address + BitVec.ofNat 32 (512 * g))) ∧
    (∀ m g, (s.link l).msgOf q (fun m => m.head.destMod.toNat == s.modAddr) = some m →
      groupFrames m.head.flits g ≠ [] → m.issued = [] →
      (∀ j ∈ groupFrames m.head.flits g, m.frames.any (fun f => f.1 == j) = true) → (m.bulk = false → s.clk.treadCount ≤ m.head.deadline) →
      bankCheck (tget [] s.windows (bankOfLink l)) m.head = .duplicate →
      Gives (.messageAssembled l q g) s fun t => t.mesh = s.mesh ∧
        (t.link l).rxMsgs = remFirst (fun x => x == m) (s.link l).rxMsgs) ∧
    (∀ m frame out, (s.link l).rxMsgs.find? (fun m => !m.bulk && m.headSeq % 65536 == q.toNat && m.head.twoHops &&
        m.head.destMod.toNat != s.modAddr) = some m →
      out = colLink (s.modAddr / 32) (m.head.destMod.toNat / 32) → frame ≤ m.head.flits → frame ∉ m.forwarded →
      (frame = 0 ∨ m.frames.any (fun f => f.1 == frame) = true) → m.head.deadline = s.clk.treadCount + 3 →
      (s.link out).st = .active → (s.part m.head.banner).links.getLsbD out = true → out ≠ l.val →
      (∀ i, m.start = some i → (s.link out).fwdTaken s.clk.treadCount s.clk.treadCount (i + frame) = false →
        Gives (.twoHopForward l q frame) s fun t => t = { s with links := t.links } ∧
          ∃ f, (s.clk.treadCount, i + frame, f) ∈ (t.link out).fwd ∧ f.cls = 0 ∧ f.head = some { m.head with forwarded := true } ∧
            f.seq = frame ∧
            f.frame.body = (if frame = 0 then .head { m.head with forwarded := true } else .data (tget [] m.frames frame))) ∧
      (m.start = none ∨ (∃ i, m.start = some i ∧ (s.link out).fwdTaken s.clk.treadCount s.clk.treadCount (i + frame) = true) →
        Gives (.twoHopForward l q frame) s fun t => t = { s with links := t.links } ∧
          ∃ f ∈ (t.link out).held, f.cls = 0 ∧ f.head = some { m.head with forwarded := true } ∧ f.nakked = true ∧ f.unsent = true ∧
            f.seq = frame)) ∧
    (∀ m, (s.link l).rxMsgs.find? (fun m => !m.bulk && m.headSeq % 65536 == q.toNat && decide (m.head.deadline < s.clk.treadCount)) =
        some m →
      Gives (.linkMessageLate l q) s fun t => (t.link l).late = (s.link l).late + 1 ∧
        (∀ x ∈ (t.link l).rxMsgs, x.head ≠ m.head) ∧
        (m.head.source.toNat / 256 = s.modAddr → (t.core (m.head.source.toNat % 256)).st = .halted) ∧
        (m.head.source.toNat / 256 ≠ s.modAddr → t.cores = s.cores ∧ t.mgmtOut = s.mgmtOut ++
          [(BitVec.ofNat 10 (m.head.source.toNat / 256),
            .lateNotice m.head.source (recvOf m.head) (m.head.sequence.setWidth 12))]))

/-- Key epochs (R272): a rekey is armed at least 16 treads ahead, changes the epoch at its boundary with an overlap of 1,000
treads, and the old key goes at its end. -/
def Sys2Proof.Claims.KeyEpochsChange : Prop :=
  ∀ (s : State) (l : LinkId),
    (∀ n, (s.link l).up = true → (s.link l).rekeyAt = none → (s.link l).txOverlap = none →
      (s.clk.treadCount + 16 ≤ n → Gives (.rekeyArm l n) s fun t => LinkOnly l s t ∧
        t.link l = { s.link l with rekeyAt := some n, rekeyAsk := false }) ∧
      (n < s.clk.treadCount + 16 → Gives (.rekeyArm l n) s fun t => t = s)) ∧
    (∀ a, (s.link l).rekeyAt = some a → a ≤ s.clk.treadCount → s.stepDue = false → (s.link l).rxRekeyAt = none →
      Gives (.epochChange l) s fun t => LinkOnly l s t ∧ (t.link l).epoch = !(s.link l).epoch ∧
        (t.link l).txOverlap = some (a + 1000) ∧ (t.link l).rekeyAt = none ∧
        ∀ c n, c < 4 → (s.link l).lowUnsent c ≤ n →
          (t.link l).counterOf c n + (s.link l).lowUnsent c / 65536 * 65536 = n) ∧
    (∀ a e, (s.link l).rekeyAt = none → (s.link l).rxRekeyAt = some (a, e) → a ≤ s.clk.treadCount → s.stepDue = false →
      e ≠ (s.link l).rxEpoch →
      Gives (.epochChange l) s fun t => LinkOnly l s t ∧ (t.link l).rxEpoch = e ∧ (t.link l).overlap = true ∧
        (t.link l).rxOverlapUntil = some (a + 1000) ∧ ∀ x, (t.link l).accepts x = true) ∧
    (∀ u, (s.link l).rxOverlapUntil = some u → u ≤ s.clk.treadCount →
      Gives (.oldKeyDestroy l) s fun t => LinkOnly l s t ∧ (t.link l).overlap = false ∧
        (t.link l).accepts (!(s.link l).rxEpoch) = false)

/-- Frame slots and key epochs (R257 to R259, R261 to R263, R272). -/
def Obligations.SlotsCarryFramesUnderTheirKey : Prop :=
  Sys2Proof.Claims.SlotsCarryTheirFrames ∧
  Sys2Proof.Claims.KeyEpochsChange

/-! ### The command transport and its commands (17) -/

/-- Rings and doorbells (R370, R371, R379, R368): enabling empties a queue or refuses its size, disabling drops its cache and
the replies of its commands, a doorbell is taken modulo N, held events follow when there is room, a tenant's function reset
stops its queues with cause 3. -/
def Sys2Proof.Claims.RingsAndDoorbells : Prop :=
  ∀ (s : State) (f : FnId) (q : QueueId) (v : Word),
    (f.val ≠ 4 → (s.fn f.val).present = true → (s.queue f.val q.val).enable = false → v.getLsbD 31 = true →
      (s.fn f.val).held = [] →
      (4 ≤ fieldOf v.toNat 11 8 → fieldOf v.toNat 11 8 ≤ 10 →
        Gives (.queueEnable f q v) s fun t => t = { s with fns := t.fns } ∧ OneQueue s t f.val q.val ∧
          t.queue f.val q.val = { s.queue f.val q.val with
            enable := true, size := v.extractLsb' 8 4, vector := v.extractLsb' 0 8, err := false, cause := 0, cmdHead := 0,
            cmdTail := 0, replyHead := 0, replyTail := 0, pending := 0, ring := [], cache := [] }) ∧
      (fieldOf v.toNat 11 8 < 4 ∨ 10 < fieldOf v.toNat 11 8 →
        Gives (.queueEnable f q v) s fun t => t = { s with fns := t.fns } ∧ OneQueue s t f.val q.val ∧
          (t.queue f.val q.val).enable = false ∧ (t.queue f.val q.val).err = true ∧ (t.queue f.val q.val).cause = 1)) ∧
    ((s.queue f.val q.val).enable = true →
      (Gives (.queueDisable f q) s fun t => t = { s with fns := t.fns, accepted := t.accepted } ∧
        OneQueue s t f.val q.val ∧
        t.queue f.val q.val = { s.queue f.val q.val with enable := false, cache := [], pending := 0 } ∧
        t.accepted = s.accepted.map fun a =>
          if a.ref.fn.val = f.val ∧ a.ref.queue.val = q.val then { a with discard := true } else a) ∧
      (Gives (.commandTailDoorbell f q v) s fun t => t = { s with fns := t.fns } ∧ OneQueue s t f.val q.val ∧
        t.queue f.val q.val = { s.queue f.val q.val with cmdTail := (t.queue f.val q.val).cmdTail } ∧
        (t.queue f.val q.val).cmdTail % (s.queue f.val q.val).n = v.toNat % (s.queue f.val q.val).n ∧
        (s.queue f.val q.val).cmdHead ≤ (t.queue f.val q.val).cmdTail ∧
        (t.queue f.val q.val).cmdTail < (s.queue f.val q.val).cmdHead + (s.queue f.val q.val).n) ∧
      (Gives (.replyHeadDoorbell f q v) s fun t => t = { s with fns := t.fns } ∧ OneQueue s t f.val q.val ∧
        t.queue f.val q.val = { s.queue f.val q.val with replyHead := (t.queue f.val q.val).replyHead } ∧
        (t.queue f.val q.val).replyHead ≤ (s.queue f.val q.val).replyTail ∧
        ((t.queue f.val q.val).replyHead % (s.queue f.val q.val).n = v.toNat % (s.queue f.val q.val).n ∨
          (t.queue f.val q.val).replyHead = (s.queue f.val q.val).replyTail))) ∧
    ((s.queue f.val q.val).enable = false →
      (Gives (.queueDisable f q) s fun t => t = s) ∧ (Gives (.commandTailDoorbell f q v) s fun t => t = s) ∧
      (Gives (.replyHeadDoorbell f q v) s fun t => t = s)) ∧
    (∀ x n e, f.val ≠ 4 → (s.fn f.val).eventQ = some x → (s.fn f.val).held = [(n, e)] →
      (s.queue f.val x.val).enable = true → (s.queue f.val x.val).pending < (s.queue f.val x.val).free →
      Gives (.eventHoldRelease f) s fun t => t = { s with fns := t.fns } ∧ (t.fn f.val).held = [] ∧
        (t.queue f.val x.val).replyTail = (s.queue f.val x.val).replyTail + 1 ∧
        (newestReply t { fn := f, queue := x, tag := n }).payload = .event e ∧
        (newestReply t { fn := f, queue := x, tag := n }).opcode = e.opcode ∧
        (newestReply t { fn := f, queue := x, tag := n }).event = true) ∧
    (∀ lost, s.isMgmt f = false → f.val ≠ 4 →
      Gives (.functionReset { fn := f, linkLost := lost }) s fun t => t = { s with fns := t.fns, accepted := t.accepted } ∧
        (t.fn f.val).held = [] ∧ (t.fn f.val).present = ((s.fn f.val).present && !lost) ∧
        (∀ a ∈ t.accepted, a.ref.fn = f → (s.queue f.val a.ref.queue.val).enable = true → a.discard = true) ∧
        (∀ g, g ≠ f.val → t.fn g = s.fn g) ∧
        ∀ x : QueueId, t.queue f.val x.val = (if (s.queue f.val x.val).enable = true then
          { s.queue f.val x.val with enable := false, cache := [], pending := 0, err := true, cause := 3 }
          else s.queue f.val x.val))

/-- COMMAND_FETCH (R372 to R378, Table 17.4): a packet that passes every check of the transport is accepted and consumes its
slot; the first failing check replies its status; a command in the replay cache with a final reply is answered again; a DMA
error stops the queue with cause 2. -/
def Sys2Proof.Claims.CommandsAreFetchedInTurn : Prop :=
  ∀ (s : State) (r : CmdRef) (p c : List Byte) (x : Queue), s.fetching = true →
    s.nextQueue = some (r.fn.val, r.queue.val) → x = s.queue r.fn.val r.queue.val →
    (Gives (.commandFetch r.fn r.queue none) s fun t => t.accepted = s.accepted ∧
      t.queue r.fn.val r.queue.val = { x with err := true, cause := 2 }) ∧
    (16 ≤ natAt p 6 2 → natAt p 6 2 ≤ 4096 → natAt p 6 2 % 16 = 0 → (opInfo (natAt p 0 2)).isSome = true →
      c = (p ++ zeros (natAt p 6 2)).take (natAt p 6 2) → r.tag = BitVec.ofNat 32 (natAt p 8 4) →
      (x.cache.find? (fun e => e.tag == r.tag) = none →
        (acceptCheck s r.fn c = none →
          Gives (.commandFetch r.fn r.queue (some p)) s fun t =>
            t = { s with turn := t.turn, accepted := t.accepted, fns := t.fns } ∧ OneQueue s t r.fn.val r.queue.val ∧
            (∃ a, t.accepted = s.accepted ++ [a] ∧ a.ref = r ∧ a.opcode.toNat = natAt p 0 2 ∧ a.params = c.drop 16 ∧
              a.started = false ∧ a.discard = false ∧ a.banner.val = natAt c 4 1 % 8) ∧
            (t.queue r.fn.val r.queue.val).cmdHead = x.cmdHead + 1 ∧
            (t.queue r.fn.val r.queue.val).replyTail = x.replyTail) ∧
        (∀ st, acceptCheck s r.fn c = some st →
          Gives (.commandFetch r.fn r.queue (some p)) s fun t => t.accepted = s.accepted ∧
            (t.queue r.fn.val r.queue.val).cmdHead = x.cmdHead + 1 ∧
            (newestReply t r).status = st ∧ (newestReply t r).tag = r.tag ∧ (newestReply t r).final = true)) ∧
      (∀ e st y, x.cache.find? (fun e => e.tag == r.tag) = some e → e.content = c → e.final = some (st, y) →
        Gives (.commandFetch r.fn r.queue (some p)) s fun t => t.accepted = s.accepted ∧
          (newestReply t r).status = st ∧ (newestReply t r).payload = y ∧ (newestReply t r).replayed = true) ∧
      (∀ e, x.cache.find? (fun e => e.tag == r.tag) = some e → e.content ≠ c →
        Gives (.commandFetch r.fn r.queue (some p)) s fun t => t.accepted = s.accepted ∧
          (newestReply t r).status = stTagReuse))

/-- Rings, doorbells and the fetch of commands (R368, R370 to R379). -/
def Obligations.HostQueuesFetchTheirCommands : Prop :=
  Sys2Proof.Claims.RingsAndDoorbells ∧
  Sys2Proof.Claims.CommandsAreFetchedInTurn

/-- Commands that only read (Table 17.7, R398, R405, R439, R443, R446, R447): each replies OK with what the module holds, and
changes nothing but its queue. -/
def Obligations.QueriesReadTheModule : Prop :=
  ∀ (s : State) (r : CmdRef) (a : Accepted),
    (CmdReady s r 0x0101 a → Answers (.moduleIdentify r) s r 0x0101 stOk
      (.identify s.otp.serial s.otp.grade s.fw.compat s.fw.version s.fabAddr s.rst.straps.clkMode s.rst.straps.bootSrc
        s.rst.straps.mgmtPortSel) s) ∧
    (CmdReady s r 0x0102 a → Answers (.moduleStatus r) s r 0x0102 stOk
      (.status s.rst.isReady s.rst.recovery s.rst.step.toNat (s.powerSeen r.fn) (s.tempSeen r.fn).toInt
        (s.sensorsSeen r.fn)) s) ∧
    (CmdReady s r 0x0204 a → Answers (.partitionQuery r) s r 0x0204 stOk
      (.partitions ((s.parts.filter fun p => p.2.valid && (s.isMgmt r.fn || p.2.owner == some r.fn)).map fun p =>
        (p.1, BitVec.ofNat 20 (maskOf p.2.halls), p.2.links, p.2.gallery, p.2.power))) s) ∧
    (∀ id, CmdReady s r 0x0304 a →
      (∀ x, s.bannerTask a.banner id = some x → Answers (.programStatus r id) s r 0x0304 stOk
        (.taskStatus x.st x.round x.epoch (x.fault.or (s.origins x).head?)) s) ∧
      (s.bannerTask a.banner id = none → Answers (.programStatus r id) s r 0x0304 stBadParam .none s)) ∧
    (∀ i, CmdReady s r 0x0407 a →
      (s.seesSlot r.fn (s.slot i.val) = false → Answers (.galleryStatus r i) s r 0x0407 stBanner .none s) ∧
      (s.seesSlot r.fn (s.slot i.val) = true → (s.slot i.val).st = .valid →
        Answers (.galleryStatus r i) s r 0x0407 stOk
          (.slot .valid (leBytes 48 (headerDigest (s.slot i.val).header).toNat ++
              memRead (s.slot i.val).body 0 (s.slot i.val).tableEnd)
            ((s.slot i.val).extents.map fun e => tget 0 s.gal.cycles e)) s)) ∧
    (∀ sid n e, e = s.stream (streamOf sid) → CmdReady s r 0x0506 a → s.leads a.banner = true →
      (s.part a.banner).rangesDiffer = false → (s.part a.banner).inRange (streamOf sid) = true →
      (e.gen.toNat = sid.toNat / 65536 → Answers (.streamQuery r sid n) s r 0x0506 stOk
        (.streamEntry e ((e.recent.drop (n - (e.context.toNat + 1 - e.recent.length))).take 1004)) s) ∧
      (e.gen.toNat ≠ sid.toNat / 65536 →
        Answers (.streamQuery r sid n) s r 0x0506 stNotPermitted (.streamState e.st) s)) ∧
    (∀ o n m, CmdReady s r 0x0702 a → s.manifest = some m → n ≤ 4032 →
      Answers (.fabricGetManifest r o n) s r 0x0702 stOk (.bytes (bytesAt m.bytes o n)) s) ∧
    (∀ l, CmdReady s r 0x0704 a →
      (s.filtered r.fn = false ∨ s.ownLink r.fn l.val = true →
        Answers (.fabricLinkStatus r l) s r 0x0704 stOk (.linkPage (s.linkPage r.fn l)) s) ∧
      (s.filtered r.fn = true → s.ownLink r.fn l.val = false →
        Answers (.fabricLinkStatus r l) s r 0x0704 stBanner .none s)) ∧
    (CmdReady s r 0x0801 a → Answers (.securityKeyStatus r) s r 0x0801 stOk
      (.keys ((s.sec.keys.filter fun k => k.2.banner == a.banner).map fun k =>
        (k.2.gallery, k.2.keyId, if k.2.gallery = true then 0 else s.farRecords a.banner k.2.keyId))) s) ∧
    (CmdReady s r 0x0804 a → Answers (.securityCertRead r) s r 0x0804 stOk
      (.bytes (if s.sec.identityKey = true then Config.certChain s.otp.serial else [])) s) ∧
    (∀ p, p = s.part a.banner → CmdReady s r 0x0901 a → natAt a.params 0 4 = p.penTask.toNat → p.penTask ≠ 0 →
      1 ≤ natAt a.params 8 1 → natAt a.params 8 1 ≤ 127 → Answers (.diagPennantRead r) s r 0x0901 stOk
        (.bytes (leBytes 4 p.latestPen.store.length ++ leBytes 4 p.latestPen.base ++ zeros 8 ++
          ((p.latestPen.store.drop (natAt a.params 4 4 - p.latestPen.base)).take (natAt a.params 8 1)).flatten)) s) ∧
    (∀ n c, CmdReady s r 0x0902 a →
      (s.tearing a.banner = false → s.isMgmt r.fn = true → Answers (.diagLogRead r n c) s r 0x0902 stOk
        (.logs (((((s.diag.buf ++ s.diag.flash).reverse).map (s.entryFor r.fn a.banner.val)).filter fun e =>
          decide (n ≤ e.seq.toNat)).take (min c 63))) s) ∧
      (s.tearing a.banner = false → s.isMgmt r.fn = false → s.ownsIdx r.fn a.banner.val = true → Answers (.diagLogRead r n c) s r 0x0902 stOk
        (.logs ((((((s.diag.buf ++ s.diag.flash).reverse).filter fun e => e.visible a.banner).map
          (s.entryFor r.fn a.banner.val)).filter fun e => decide (n ≤ e.seq.toNat)).take (min c 63))) s) ∧
      (s.tearing a.banner = true ∨ (s.isMgmt r.fn = false ∧ s.ownsIdx r.fn a.banner.val = false) →
        Answers (.diagLogRead r n c) s r 0x0902 stBanner .none s)) ∧
    (∀ id d, CmdReady s r 0x0903 a → (s.part a.banner).crash = some (id, d) → id.toNat = natAt a.params 0 4 →
      natAt a.params 8 2 ≤ 4064 → Answers (.diagCrashRead r) s r 0x0903 stOk
        (.bytes (bytesAt d (natAt a.params 4 4) (natAt a.params 8 2))) s) ∧
    (CmdReady s r 0x0904 a → Answers (.diagCounters r) s r 0x0904 stOk (.counters (s.counterSets r.fn)) s) ∧
    (CmdReady s r 0x0A02 a → Answers (.timeGet r) s r 0x0A02 stOk
      (.time s.clk.treadCount s.calendar s.clk.calValid s.clk.calSat s.clk.subsec s.clk.refState) s)

/-- MODULE.* and TIME.SET_CALENDAR (R52, R379, R385, R396, R419, R429, R455): the named queue gets events; a reset of the
warm class is asked for after the reply; a shutdown empties the journal unless a task is live; the policy, a staged image and
the slot of the next boot are taken; a calendar setting is taken whole or refused. -/
def Obligations.ModuleCommandsTakeEffect : Prop :=
  ∀ (s : State) (r : CmdRef) (a : Accepted),
    (∀ q, CmdReady s r 0x0103 a →
      (r.fn.val ≠ 4 → Gives (.moduleEvents r q) s fun t => Replied s t r 0x0103 stOk .none ∧
        t = { s with accepted := t.accepted, fns := t.fns } ∧ (t.fn r.fn.val).eventQ = some q ∧
        ∀ f, f ≠ r.fn.val → t.fn f = s.fn f) ∧
      (r.fn.val = 4 → Answers (.moduleEvents r q) s r 0x0103 stNotPermitted .none s)) ∧
    (CmdReady s r 0x0104 a → s.rst.off = false → s.rst.pend = none →
      Gives (.moduleReset r) s fun t => Replied s t r 0x0104 stOk .none ∧ OneQueue s t r.fn.val r.queue.val ∧
        t = { s with accepted := t.accepted, fns := t.fns, mgmtOut := t.mgmtOut, rst := { s.rst with pend := t.rst.pend },
                     diag := { s.diag with work := t.diag.work } } ∧
        t.rst.pend = some { cls := .warm, causes := causeCmd, sc := 0, ckfPll := false, borRail := false,
                            held := s.pulsing,
                            at_ := if s.pulsing = true then none else some (s.clk.treadCount + 2) }) ∧
    (CmdReady s r 0x0105 a →
      (s.tasks.any Task.live = true → Answers (.moduleShutdown r) s r 0x0105 stBusy .none s) ∧
      (s.tasks.any Task.live = false → s.far.waiting = [] → (∀ p ∈ s.cores, p.2.elems = []) →
        Answers (.moduleShutdown r) s r 0x0105 stOk .none
          { s with far := { s.far with journal := 0, jrn := [], waiting := [] }, shutdown := true })) ∧
    (CmdReady s r 0x0106 a → 1000 ≤ natAt a.params 0 2 → natAt a.params 0 2 ≤ 2400 → natAt a.params 4 2 ≠ 0 →
      natAt a.params 4 2 ≤ 10000 → (∀ b < 8, natAt a.params (6 + b) 1 ≤ 100) →
      ((∀ b < 8, natAt a.params (6 + b) 1 = if (s.part b).valid = true then (s.part b).power else 0) →
        ∃ u, Answers (.modulePowerPolicy r) s r 0x0106 stOk (.cap (u.effCap (natAt a.params 0 2) s.pwr.vIn.toNat)) u ∧
          u = { s with settings := { s.settings with capModule := natAt a.params 0 2 }, pwr := { s.pwr with
            capModule := natAt a.params 0 2, sensing := bitOf (natAt a.params 2 1) 0, flowScale := natAt a.params 4 2,
            flowWarn := s.pwr.flowWarn && bitOf (natAt a.params 2 1) 0,
            inletWarn := s.pwr.inletWarn && bitOf (natAt a.params 2 1) 0 } }) ∧
      (∀ b, b < 8 → natAt a.params (6 + b) 1 ≠ (if (s.part b).valid = true then (s.part b).power else 0) →
        Answers (.modulePowerPolicy r) s r 0x0106 stNotPermitted .none s)) ∧
    (∀ img : FwImage, CmdReady s r 0x0107 a →
      (img.digestOk = true → s.sec.rollback.toNat ≤ img.secver.toNat → AnswersAfter (.moduleFwStage r (some img)) s r 0x0107 stOk
        .none { s with fw := { s.fw with staged := some img } }) ∧
      (img.digestOk = true → img.secver.toNat < s.sec.rollback.toNat →
        AnswersAfter (.moduleFwStage r (some img)) s r 0x0107 stNotPermitted .none s) ∧
      (img.digestOk = false → AnswersAfter (.moduleFwStage r (some img)) s r 0x0107 stSignatureFail .none s)) ∧
    (∀ b c, CmdReady s r 0x0108 a → Quiet s → s.rst.pend = none →
      c = (if s.rst.optDefault = true then defaultBlock
        else (if s.rst.optCopy = true then s.settings.optB else s.settings.optA).getD defaultBlock) →
      Gives (.moduleFwActivate r b) s fun t => Replied s t r 0x0108 stOk .none ∧
        t = { s with accepted := t.accepted, fns := t.fns, diag := t.diag, opt := t.opt, fw := { s.fw with nextB := b },
                     settings := t.settings } ∧
        t.opt = (if s.rst.optCopy = true then { s.opt with seqA := s.opt.seqB + 1, fwSelB := b }
          else { s.opt with seqB := s.opt.seqA + 1, fwSelB := b }) ∧
        t.settings = (if s.rst.optCopy = true then { s.settings with optA := some (optWrite c (s.opt.seqB + 1) b) }
          else { s.settings with optB := some (optWrite c (s.opt.seqA + 1) b) })) ∧
    (∀ b, CmdReady s r 0x0108 a → s.rst.pend ≠ none → Gives (.moduleFwActivate r b) s fun t =>
      t = { s with accepted := t.accepted, fns := t.fns }) ∧
    (∀ y mo d h mi se, CmdReady s r 0x0A01 a → y = natAt a.params 0 2 → mo = natAt a.params 2 1 → d = natAt a.params 3 1 →
      h = natAt a.params 4 1 → mi = natAt a.params 5 1 → se = natAt a.params 6 1 →
      (dateOk y mo d h mi se = true → Answers (.timeSetCalendar r) s r 0x0A01 stOk .none
        { s with clk := { s.clk with calSet := some [y, mo, d, h, mi, se] } }) ∧
      (dateOk y mo d h mi se = false → Answers (.timeSetCalendar r) s r 0x0A01 stBadDate .none s))

/-! ### Partitions (18) and programs (10) -/

/-- PARTITION.CREATE (R389 to R393): the first failing check replies and changes nothing; else the banner has its resources: halls,
granules under new keys, wheel entries armed two treads ahead or, where a change is pending for an earlier tread, kept to be
armed after it, links, range and root. -/
def Obligations.PartitionsGetTheirResources : Prop :=
  ∀ (s : State) (r : CmdRef) (a : Accepted) (q : PartReq), CmdReady s r 0x0201 a → q = partReq a.params →
    ((s.part q.banner).valid = true → Answers (.partitionCreate r) s r 0x0201 stBusy .none s) ∧
    (∀ st p, s.createCheck q = some (st, p) → Answers (.partitionCreate r) s r 0x0201 st p s) ∧
    (s.createCheck q = none → Gives (.partitionCreate r) s fun t => Replied s t r 0x0201 stOk .none ∧
      OneQueue s t r.fn.val r.queue.val ∧
      t = { s with accepted := t.accepted, fns := t.fns, parts := t.parts, halls := t.halls, granules := t.granules,
                   stackTbl := t.stackTbl } ∧
      t.part q.banner = { Part.reset with
        saved := true, valid := true, halls := q.halls, links := q.links, gallery := q.gallery, power := q.power, ns := q.ns,
        erasing := (s.part q.banner).erasing, nsOld := (s.part q.banner).nsOld, root := q.root, rangeBase := q.base,
        rangeCount := q.count, granules := q.granules, wheels := q.stackTbl.map fun n => (n, q.wheels.getD n 0) } ∧
      (∀ b : Banner, b ≠ q.banner → t.part b = s.part b) ∧
      (∀ h ∈ q.halls, (t.hall h).assigned = true ∧ (t.hall h).banner = q.banner) ∧
      (∀ h, h ∉ q.halls → t.hall h = s.hall h) ∧
      (∀ g ∈ q.granules, t.granule g = (s.granule g).rekey (some q.banner)) ∧
      (∀ g, g ∉ q.granules → t.granule g = s.granule g) ∧
      (∀ n ∈ q.stackTbl,
        ((∀ w, (s.stack n).armAt = some w → s.clk.treadCount + 2 ≤ w) →
          ∃ w, (t.stack n).armAt = some w ∧ s.clk.treadCount + 2 ≤ w) ∧
        (∀ w, (s.stack n).armAt = some w → w < s.clk.treadCount + 2 →
          (t.stack n).armAt = some w ∧ (t.stack n).wheelNext = (s.stack n).wheelNext ∧ (t.stack n).wheelWant.isSome = true)))

/-- PARTITION.DESTROY and ZERO_FILL_DONE (R402 to R404, R393): keys are gone, links are torn down, halls at S1 or above are cleared,
granules are unreadable, stream entries are FREE; without zero-fill and slot erase the resources are free at once, else after them. -/
def Sys2Proof.Claims.PartitionsAreTornDown : Prop :=
  ∀ (s : State) (r : CmdRef) (a : Accepted) (b : Banner) (p : Part), p = s.part b →
    (CmdReady s r 0x0202 a → b = Fin.ofNat 8 (natAt a.params 0 1) →
      (p.valid = false → Answers (.partitionDestroy r) s r 0x0202 stBanner .none s) ∧
      (p.valid = true → p.teardown = true → Answers (.partitionDestroy r) s r 0x0202 stBusy .none s) ∧
      (p.valid = true → p.teardown = false → natAt a.params 1 1 = 0 → (∀ x ∈ s.tasks, x.banner ≠ b) →
        (∀ x ∈ s.accepted, x.begun = true → s.cmdOf b x = false) → Quiet s →
        (∀ h ∈ p.halls, s.mayClear h = true) → Gives (.partitionDestroy r) s fun t => RepliedAfter s t r 0x0202 stOk .none ∧
          t.part b = { Part.reset with erasing := p.erasing || decide (0 < p.ns), nsOld := p.nsOld + p.ns } ∧
          (∀ x : Banner, x ≠ b → t.part x = s.part x) ∧
          (∀ k ∈ t.sec.keys, k.2.banner ≠ b) ∧ (∀ o ∈ t.far.objs, o.banner ≠ b) ∧
          (∀ h ∈ p.halls, (t.hall h).assigned = false ∧
            ∀ c, c < 160 → hallOf c = h → (t.core c).mem = [] ∧ (t.core c).loadId = none) ∧
          (∀ g ∈ p.granules, (t.granule g).owner = none ∧ (t.granule g).mem = []) ∧
          (∀ i, p.inRange i = true → (t.stream i).st = .free)) ∧
      (p.valid = true → p.teardown = false → natAt a.params 1 1 = 0 → (∀ x ∈ s.tasks, x.banner ≠ b) →
        (∀ x ∈ s.accepted, x.begun = true → s.cmdOf b x = false) → Quiet s →
        p.halls ≠ [] → (∀ h ∈ p.halls, s.mayClear h = false) → Gives (.partitionDestroy r) s fun t => Begun s t r a ∧
          (t.part b).teardown = true ∧ (t.part b).valid = true ∧ (t.part b).tdHalls = p.halls ∧ (t.part b).tdRef = some r ∧
          (∀ k ∈ t.sec.keys, k.2.banner ≠ b) ∧ ∀ g ∈ p.granules, (t.granule g).mem = [])) ∧
    (p.valid = true → p.teardown = true → p.tdZero = true → p.tdErase = false → p.tdHalls = [] → p.tdRef = some r → Awaits s r a →
      Gives (.zeroFillDone b) s fun t => Ended s t r stOk .none ∧ OneQueue s t r.fn.val r.queue.val ∧
        t = { s with accepted := t.accepted, fns := t.fns, parts := t.parts, halls := t.halls, granules := t.granules } ∧
        t.part b = { Part.reset with erasing := p.erasing || decide (0 < p.ns), nsOld := p.nsOld + p.ns } ∧
        (∀ h ∈ p.halls, (t.hall h).assigned = false) ∧
        ∀ g ∈ p.granules, (t.granule g).owner = none ∧ (t.granule g).mem = [])

/-- The other commands on a partition (R392, R401, R403): the owner, the tag with its links torn down, the signing keys of a
banner, and the end of a namespace erase. -/
def Sys2Proof.Claims.PartitionSettingsChange : Prop :=
  ∀ (s : State) (r : CmdRef) (a : Accepted) (p : Part), p = s.part a.banner →
    (∀ f, CmdReady s r 0x0203 a → p.valid = true →
      (p.teardown = false → Answers (.partitionAssignHost r f) s r 0x0203 stOk .none
        (s.setPart a.banner { p with owner := some f })) ∧
      (p.teardown = true → Answers (.partitionAssignHost r f) s r 0x0203 stBusy .none s)) ∧
    (∀ tag, CmdReady s r 0x0205 a → p.valid = true →
      (p.teardown = false → s.taskLoaded a.banner = false → Quiet s →
        Gives (.partitionSetTag r tag) s fun t => Replied s t r 0x0205 stOk .none ∧
          t.part a.banner = { p with tag := tag } ∧
          (∀ l, l < 64 → p.links.getLsbD l = true → (s.link l).st ≠ .off →
            TornDown (s.link l) (t.link l) (s.link l).enable 0xF s.clk.treadCount) ∧
          ∀ l, p.links.getLsbD l = false → t.link l = s.link l) ∧
      (s.taskLoaded a.banner = true → Answers (.partitionSetTag r tag) s r 0x0205 stBusy .none s)) ∧
    (∀ n id key, CmdReady s r 0x0305 a → p.valid = true → p.teardown = false →
      (p.signKeys.find? (fun k => k.1 == n.val) = none ∨ s.taskLoaded a.banner = false →
        (key ≠ 0 → Answers (.programSetKey r n id key) s r 0x0305 stOk .none
          (s.setPart a.banner { p with signKeys := tset p.signKeys n.val (id, key) })) ∧
        (key = 0 → Answers (.programSetKey r n id key) s r 0x0305 stOk .none
          (s.setPart a.banner { p with signKeys := tdel p.signKeys n.val }))) ∧
      (∀ i k x, p.signKeys.find? (fun k => k.1 == n.val) = some (n.val, i, k) → (i, k) ≠ (id, key) → x ∈ s.tasks →
        x.live = true → x.banner = a.banner → x.keyId = i →
        Answers (.programSetKey r n id key) s r 0x0305 stBusy .none s)) ∧
    ((s.part a.banner).erasing = true → Gives (.namespaceEraseDone a.banner) s fun t =>
      t.part a.banner = { p with erasing := false, nsOld := 0 } ∧ t = { s with parts := t.parts })

/-- The end of a partition, and its settings (R392, R393, R401 to R404). -/
def Obligations.PartitionsEndAndChange : Prop :=
  Sys2Proof.Claims.PartitionsAreTornDown ∧
  Sys2Proof.Claims.PartitionSettingsChange

/-- PROGRAM.LOAD (R227 to R230, R446, R463): an image that passes every check is placed: its cores are LOADED under a new task, whose
identifier and epoch 1 the reply gives; one that fails a check on a single module changes nothing. -/
def Sys2Proof.Claims.ImagesArePlacedWhole : Prop :=
  ∀ (s : State) (r : CmdRef) (a : Accepted) (img : List Byte) (area : Option Nat), CmdReady s r 0x0301 a →
    s.capturing a.banner = false →
    (s.pwr.thermHold = true → (memberMap img).length ≤ 1 →
      Answers (.programLoad r (some img)) s r 0x0301 stBusy (.loadReport none noCheck 0 0) s) ∧
    (s.pwr.thermHold = false → s.shutdown = false → s.clk.calFail = false → s.owns r.fn a.banner = true →
      area = (if natAt a.params 16 8 = 0xFFFFFFFFFFFFFFFF then none else some (natAt a.params 16 8)) →
      (memberMap img).length ≤ 1 →
      (∀ st rep, s.checkImage a.banner img (natAt a.params 8 4) area = some (st, rep) →
        AnswersAfter (.programLoad r (some img)) s r 0x0301 st (.loadReport none rep 0 0) s) ∧
      (s.checkImage a.banner img (natAt a.params 8 4) area = none → s.lockedFor img = true →
        s.badLayer (s.newTask r a.banner img area).grefs = none → (∀ x ∈ s.tasks, x.loadId ≠ s.nextLoad) →
        Gives (.programLoad r (some img)) s fun t =>
          RepliedAfter s t r 0x0301 stOk (.loadReport none LoadReport.zero s.nextTask 1) ∧ OneQueue s t r.fn.val r.queue.val ∧
          (∃ y ∈ t.tasks, y.id = s.nextTask ∧ y.epoch = 1 ∧ y.st = .loaded ∧ y.banner = a.banner ∧
            y.loadId = s.nextLoad ∧ y.cores = (coresOf img s.otp.grade).map (·.1)) ∧
          (∀ p ∈ coresOf img s.otp.grade, (t.core p.1).st = .loaded ∧ (t.core p.1).loadId = some s.nextLoad ∧
            (((coresOf img s.otp.grade).map (·.1)).Nodup → (t.core p.1).pc = BitVec.ofNat 32 (p.2 / 16 * 16))) ∧
          (∀ c, c ∉ (coresOf img s.otp.grade).map (·.1) → t.core c = s.core c) ∧
          (t.part a.banner).penTask = s.nextTask ∧ (∀ id, ((t.part a.banner).pen id).store = []) ∧
          t.nextTask = (if s.nextTask = 0xFFFFFFFF then 1 else s.nextTask + 1)))

/-- PROGRAM.ABORT and PROGRAM.UNLOAD (R237, R240, R241): an abort halts every core of the task with 0x72 and replies later; an unload
ends a task before round 0 at once, and is kept for the next landing of a running one. -/
def Obligations.ProgramsAreAbortedAndUnloaded : Prop :=
  ∀ (s : State) (r : CmdRef) (a : Accepted) (id : BitVec 32),
    (s.bannerTask a.banner id = none →
      (CmdReady s r 0x0302 a → Answers (.programAbort r id) s r 0x0302 stBadParam .none s) ∧
      (CmdReady s r 0x0303 a → Answers (.programUnload r id) s r 0x0303 stBadParam .none s)) ∧
    (∀ x, s.bannerTask a.banner id = some x →
      (x.live = false →
        (CmdReady s r 0x0302 a → Answers (.programAbort r id) s r 0x0302 stNotPermitted .none s) ∧
        (CmdReady s r 0x0303 a → Answers (.programUnload r id) s r 0x0303 stNotPermitted .none s)) ∧
      (x.live = true → CmdReady s r 0x0302 a →
        Gives (.programAbort r id) s fun t => Begun s t r a ∧ OneQueue s t r.fn.val r.queue.val ∧
          (∀ c ∈ x.cores, (s.core c).st ≠ .halted → Down t c 0x72) ∧ (∀ c, c ∉ x.cores → t.core c = s.core c) ∧
          ∃ y, t.findTask id = some y ∧ y.abortSent = true ∧ y.abortRef = x.abortRef ++ [r]) ∧
      (CmdReady s r 0x0303 a → x.st = .loaded → x.unloadRef = [] → x.swap = none → s.clk.armAt = none →
        Gives (.programUnload r id) s fun t => Replied s t r 0x0303 stOk .none ∧ OneQueue s t r.fn.val r.queue.val ∧
          (∃ y, t.findTask id = some y ∧ y.st = .ended) ∧
          (∀ c ∈ x.cores, (s.core c).loadId = some x.loadId → (t.core c).st = .idle ∧ (t.core c).loadId = none ∧
            (t.core c).mem = (s.core c).mem) ∧
          ∀ c, c ∉ x.cores → t.core c = s.core c) ∧
      (CmdReady s r 0x0303 a → x.st = .running →
        Gives (.programUnload r id) s fun t => Begun s t r a ∧ OneQueue s t r.fn.val r.queue.val ∧
          t = { s with accepted := t.accepted, fns := t.fns, tasks := t.tasks } ∧
          ∃ y, t.findTask id = some y ∧ y = { x with unload := true, unloadRef := x.unloadRef ++ [r] }))

/-- The load of an instance on several modules (R230): with every member LOADED and one member map the lead gives the identifier; the
first failure, a silent member after 10 s, or the lead's word drops the load and clears its cores. -/
def Sys2Proof.Claims.InstancesLoadTogether : Prop :=
  ∀ (s : State) (b : Banner) (m : Nat) (st : BitVec 16) (d : BitVec 384) (x : Task) (r : CmdRef) (a : Accepted),
    ((s.part b).owed s.clk.treadCount m d = false → s.tasks.find? (fun t => t.st == .loading && t.banner == b) = none →
      Gives (.memberLoadReport b m st d) s fun t => t = { s with parts := t.parts } ∧
        t.part b = { s.part b with earlyLoads := (s.part b).earlyLoads ++ [(m, st, d)] }) ∧
    (s.findLoad x.loadId = some x → x.loadRef = some r → Awaits s r a →
      (s.tasks.find? (fun t => t.st == .loading && t.banner == b) = some x →
        (∀ p ∈ x.loadReports, p.2.1 = 0 ∧ p.2.2 = x.membersDigest) →
        ((s.part b).owed s.clk.treadCount m d = false → st ≠ 0 → Gives (.memberLoadReport b m st d) s fun t =>
          Ended s t r st (.loadReport none { rep 15 with failedMember := m } 0 0) ∧
          (∀ y ∈ t.tasks, y.loadId ≠ x.loadId) ∧ ∀ c ∈ x.cores, (t.core c).mem = [] ∧ (t.core c).loadId = none) ∧
        ((s.part b).owed s.clk.treadCount m d = false → st = 0 → d ≠ x.membersDigest → Gives (.memberLoadReport b m st d) s fun t =>
          Ended s t r stManifestMismatch (.loadReport none { rep 15 with failedMember := m } 0 0) ∧
          ∀ y ∈ t.tasks, y.loadId ≠ x.loadId) ∧
        ((s.part b).owed s.clk.treadCount m d = false → st = 0 → d = x.membersDigest →
          (∀ k < x.members.length, k ≠ m → x.loadReports.any (fun p => p.1 == k) = true) →
          Gives (.memberLoadReport b m st d) s fun t =>
            Ended s t r stOk (.loadReport none LoadReport.zero s.nextTask 1) ∧ t.cores = s.cores ∧
            ∃ y ∈ t.tasks, y.id = s.nextTask ∧ y.epoch = 1 ∧ y.st = .loaded ∧ y.cores = x.cores) ∧
        (x.landingAt + 10000000 ≤ s.clk.treadCount → Gives (.loadReportTimeout b) s fun t =>
          (∃ k, Ended s t r stTaskAborted (.loadReport none { rep 15 with failedMember := k } 0 0)) ∧
          (∀ y ∈ t.tasks, y.loadId ≠ x.loadId) ∧ ∀ c ∈ x.cores, (t.core c).mem = [] ∧ (t.core c).loadId = none) ∧
        (s.clk.treadCount < x.landingAt + 10000000 → Gives (.loadReportTimeout b) s fun t => t = s)) ∧
      (s.tasks.find? (fun t => t.st == .loaded && t.id == 0 && t.banner == b) = some x →
        Gives (.loadFailNotice b st m) s fun t =>
          Ended s t r st (.loadReport none { rep 15 with failedMember := m } 0 0) ∧
          (∀ y ∈ t.tasks, y.loadId ≠ x.loadId) ∧ ∀ c ∈ x.cores, (t.core c).mem = [] ∧ (t.core c).loadId = none))

/-- PROGRAM.LOAD on one module and on several (R227 to R230, R446, R463). -/
def Obligations.ImagesArePlacedOnOneModuleOrSeveral : Prop :=
  Sys2Proof.Claims.ImagesArePlacedWhole ∧
  Sys2Proof.Claims.InstancesLoadTogether

/-! ### The weight gallery (14) -/

/-- Gallery slots (R298, R300, R305 to R307, R309, R462): an EMPTY slot opens with free extents, an OPEN one is written and its extents
count a cycle at their first pulse, a commit makes it VERIFYING and its verification VALID or OPEN again, an erase ends EMPTY
with its worn extents withdrawn, and an unused VALID one is granted. -/
def Obligations.SlotsMoveThroughTheirStates : Prop :=
  ∀ (s : State) (r : CmdRef) (a : Accepted) (i : SlotId) (g : GSlot), g = s.slot i.val →
    (∀ len key, CmdReady s r 0x0401 a → s.tearing a.banner = true →
      Answers (.galleryOpen r i len key) s r 0x0401 stBanner .none s) ∧
    (∀ len key, CmdReady s r 0x0401 a → s.tearing a.banner = false →
      (g.st ≠ .empty → Answers (.galleryOpen r i len key) s r 0x0401 stBusy .none s) ∧
      (g.st = .empty → ceilDiv len 67108864 ≤ s.freeExtents.length →
        Answers (.galleryOpen r i len key) s r 0x0401 stOk .none (s.setSlot i.val { GSlot.reset with
          st := .open_, banner := a.banner, keyId := key, length := len,
          extents := s.freeExtents.take (ceilDiv len 67108864) })) ∧
      (g.st = .empty → s.freeExtents.length < ceilDiv len 67108864 →
        Answers (.galleryOpen r i len key) s r 0x0401 stNoCapacity
          (.shortfall (ceilDiv len 67108864 - s.freeExtents.length)) s)) ∧
    (∀ o d, CmdReady s r 0x0402 a →
      (s.noPulse = false → g.st = .open_ → d.length ≤ 67108864 → o % 512 = 0 → d.length % 512 = 0 →
        o + d.length ≤ (g.length + 511) / 512 * 512 →
        Gives (.galleryWrite r i o (some d)) s fun t => RepliedAfter s t r 0x0402 stOk .none ∧ OneQueue s t r.fn.val r.queue.val ∧
          t = { s with accepted := t.accepted, fns := t.fns, gal := t.gal } ∧ (d ≠ [] → t.gal.pulse = true) ∧
          (t.slot i.val).body = memWrite g.body o d ∧ (t.slot i.val).st = .open_ ∧ (t.slot i.val).extents = g.extents ∧
          (∀ j, j ≠ i.val → t.slot j = s.slot j) ∧
          (∀ e, g.progUnits = [] → 0 < d.length → e = g.extents.getD (o / 67108864) 0 →
            o / 67108864 = (o + d.length - 1) / 67108864 →
            tget 0 t.gal.cycles e = tget 0 s.gal.cycles e + 1)) ∧
      (g.st ≠ .open_ → Answers (.galleryWrite r i o (some d)) s r 0x0402 stBusy .none s) ∧
      (s.noPulse = true → g.writeBad o d.length = none → Starts (.galleryWrite r i o (some d)) s r a
        { s with gal := { s.gal with waiting := s.gal.waiting ++ [(r, i, o, d)] } })) ∧
    (∀ h, CmdReady s r 0x0403 a → g.st = .open_ →
      (headerBad g h = false → s.imageHeld { g with header := h } = true → Starts (.galleryCommit r i h) s r a
        (s.setSlot i.val { g with st := .verifying, pendHdr := h, commitRef := some r })) ∧
      (headerBad g h = true → Answers (.galleryCommit r i h) s r 0x0403 stNotPermitted .none s) ∧
      (headerBad g h = false → s.imageHeld { g with header := h } = false →
        Answers (.galleryCommit r i h) s r 0x0403 stKeyFail .none s)) ∧
    (g.st = .verifying → s.noPulse = false → s.readsGated = false → g.commitRef = some r → Awaits s r a →
      (s.imageBad { g with header := g.pendHdr } = none →
        Gives (.commitVerifyDone i) s fun t => Ended s t r stOk (.digest (headerDigest g.pendHdr)) ∧
          OneQueue s t r.fn.val r.queue.val ∧ t = { s with accepted := t.accepted, fns := t.fns, gal := t.gal } ∧
          (t.slot i.val).st = .valid ∧ (t.slot i.val).header = g.pendHdr ∧ (t.slot i.val).body = g.body ∧
          t.gal.pulse = true) ∧
      (∀ l, s.imageBad { g with header := g.pendHdr } = some l →
        Gives (.commitVerifyDone i) s fun t => Ended s t r stDigestFail (.count l) ∧ OneQueue s t r.fn.val r.queue.val ∧
          t = { s with accepted := t.accepted, fns := t.fns, gal := t.gal } ∧ (t.slot i.val).st = .open_ ∧
          (t.slot i.val).header = g.header)) ∧
    (CmdReady s r 0x0404 a →
      (g.st = .open_ ∨ g.st = .invalid ∨ (g.st = .valid ∧ s.slotUsed i.val = false) →
        Starts (.galleryErase r i) s r a (s.setSlot i.val { g with st := .erasing, eraseRef := some r })) ∧
      (g.st = .empty ∨ g.st = .verifying ∨ g.st = .erasing ∨ (g.st = .valid ∧ s.slotUsed i.val = true) →
        Answers (.galleryErase r i) s r 0x0404 stBusy .none s)) ∧
    (g.st = .erasing → g.eraseRef = some r → Awaits s r a → (s.part g.banner).teardown = false →
      Gives (.eraseDone i) s fun t => Ended s t r stOk .none ∧ OneQueue s t r.fn.val r.queue.val ∧
        t = { s with accepted := t.accepted, fns := t.fns, gal := t.gal } ∧ t.slot i.val = GSlot.reset ∧
        t.gal.worn = s.gal.worn ++ g.extents.filter fun e => decide (100000 ≤ tget 0 s.gal.cycles e)) ∧
    (∀ b, CmdReady s r 0x0405 a → s.tearing b = true → Answers (.galleryGrant r i b) s r 0x0405 stBanner .none s) ∧
    (∀ b, CmdReady s r 0x0405 a → s.tearing b = false →
      (g.st = .valid → s.slotUsed i.val = false →
        Answers (.galleryGrant r i b) s r 0x0405 stOk .none (s.setSlot i.val { g with banner := b, revoked := false })) ∧
      (g.st ≠ .valid ∨ s.slotUsed i.val = true → Answers (.galleryGrant r i b) s r 0x0405 stBusy .none s)) ∧
    (g.st = .valid → g.badUnit = [] → s.readsGated = false →
      (∀ u n, 0 < n → n ≤ 4 → u * 512 < g.length → s.imageBad { g with badUnit := [(u, n)] } = none →
        Gives (.backgroundVerify i [(u, n)] []) s fun t => t = { s with gal := t.gal } ∧
          t.gal.ce = s.gal.ce + 1 ∧ t.gal.ue = s.gal.ue ∧ t.slot i.val = { g with badUnit := [(u, n)] }) ∧
      (∀ u n, 4 < n → u * 512 < g.length → Gives (.backgroundVerify i [(u, n)] []) s fun t =>
        t = { s with gal := t.gal, diag := t.diag, fns := t.fns } ∧ (t.slot i.val).suspect = true ∧
        ∀ j, j ≠ i.val → t.slot j = s.slot j) ∧
      (∀ u, u * 512 < g.length → Gives (.backgroundVerify i [] [u]) s fun t =>
        t = { s with gal := t.gal, diag := t.diag, fns := t.fns } ∧ (t.slot i.val).suspect = true ∧
        t.gal.ue = s.gal.ue + 1 ∧ ∀ j, j ≠ i.val → t.slot j = s.slot j) ∧
      (s.imageBad g ≠ none → Gives (.backgroundVerify i [] []) s fun t =>
        t = { s with gal := t.gal, diag := t.diag, fns := t.fns } ∧ (t.slot i.val).suspect = true ∧
        ∀ j, j ≠ i.val → t.slot j = s.slot j))

/-- Swaps up to the landing (R314, R315): the command is checked and waits; with every member ready the lead says go, a refusal or
10 s of silence cancels, and at a landing without a release the copy begins. -/
def Sys2Proof.Claims.SwapsWaitForEveryMember : Prop :=
  ∀ (s : State) (r : CmdRef) (a : Accepted) (id : BitVec 32) (x : Task), s.findTask id = some x → x.live = true →
    s.findLoad x.loadId = some x →
    (∀ n gref rep i old, CmdReady s r 0x0406 a → x.banner = a.banner →
      (x.swap.isSome = true → Answers (.gallerySwap r n id gref rep i) s r 0x0406 stBusy .none s) ∧
      (x.swap = none → x.members.length ≤ 1 → x.member = 0 → x.swapEarly = [] → x.grefs[gref]? = some old →
        (s.swapCheck x gref rep i.val = none → Gives (.gallerySwap r n id gref rep i) s fun t => Begun s t r a ∧
          OneQueue s t r.fn.val r.queue.val ∧ t.cores = s.cores ∧ t.gal = s.gal ∧
          ∃ y w, t.findTask id = some y ∧ y.swap = some w ∧ w.ref = some r ∧ w.gref = gref ∧ w.slot = i.val ∧
            w.oldSlot = old.slot ∧ w.replace = rep ∧ w.go = true ∧ w.applying = false ∧ y.st = x.st ∧ y.grefs = x.grefs))) ∧
    (∀ m st w, x.swap = some w → s.isLead x = true → w.go = false →
      (st = 0 → (∀ k < max 1 x.members.length, k ≠ m → w.ready.contains k = true) →
        Gives (.swapReady ⟨⟨id, x.epoch⟩, w.swapId⟩ m st) s fun t => t = { s with tasks := t.tasks, mgmtOut := t.mgmtOut } ∧
          ∃ y v, t.findTask id = some y ∧ y.swap = some v ∧ v.go = true ∧ v.slot = w.slot ∧ v.applying = w.applying) ∧
      (st ≠ 0 → w.ref = some r → Awaits s r a → Gives (.swapReady ⟨⟨id, x.epoch⟩, w.swapId⟩ m st) s fun t =>
        Ended s t r stSwapIncomplete (.swapFail m 0) ∧ t.cores = s.cores ∧
        ∃ y, t.findTask id = some y ∧ y.swap = none ∧ y.grefs = x.grefs) ∧
      (w.startAt + 10000000 ≤ s.clk.treadCount → w.ref = some r → Awaits s r a → Gives (.swapReadyTimeout id) s fun t =>
        (∃ k, Ended s t r stSwapIncomplete (.swapFail k 0)) ∧ ∃ y, t.findTask id = some y ∧ y.swap = none)) ∧
    (∀ w, x.swap = some w → x.st = .landing → x.releaseAt = none → w.applying = false → (s.isLead x = true → w.go = true) →
      (w.replace = false ∨ s.oldInSlot x.banner w.oldSlot = false) →
      Gives (.swapApply ⟨id, x.epoch⟩) s fun t => t = { s with tasks := t.tasks } ∧ ∃ y, t.findTask id = some y ∧
        y = { x with swap := some { w with applying := true, read := 0, startAt := s.clk.treadCount } })

/-- Swaps at the landing (R295, R316, R317): the copy overwrites only cores of the reference's entries and goes to the lead; with every
member's report the landing is released under the next epoch; a failure before any copy leaves the old image, and replies
DIGEST_FAIL. -/
def Sys2Proof.Claims.SwapsCopyAtTheLanding : Prop :=
  ∀ (s : State) (r : CmdRef) (a : Accepted) (id : BitVec 32) (x : Task) (w : Swap), s.findTask id = some x →
    x.live = true → x.swap = some w → w.applying = true →
    (s.isLead x = false → w.copied = false → w.read = 0 → s.copyStopped x = false →
      (∀ l ∈ x.refLayers w.gref, s.layerOk (s.slot w.slot) l = true) →
      Gives (.swapCopyDone id) s fun t =>
        t.mgmtOut = s.mgmtOut ++ [(BitVec.ofNat 10 x.leadAddr, .swapDone ⟨x.id, x.epoch⟩ x.member .ok)] ∧
        t.gal = { s.gal with ce := t.gal.ce } ∧ t.accepted = s.accepted ∧
        (∀ c, (∀ y ∈ x.allocs, y.kind = 3 → y.gref = w.gref → y.core ≠ c) → t.core c = s.core c) ∧
        (∀ y l, x.allocs = [y] → x.refLayers w.gref = [l] → y.kind = 3 → y.gref = w.gref → y.layer = l → 0 < y.length →
          y.source + y.length ≤ (s.slot w.slot).layerLen l →
          (t.core y.core).mem = memWrite (s.core y.core).mem y.start
            (s.bodyRead (s.slot w.slot) ((s.slot w.slot).layerOff l + y.source) y.length)) ∧
        (∀ c, (t.core c).st = (s.core c).st ∧ (t.core c).k = (s.core c).k ∧ (t.core c).pc = (s.core c).pc) ∧
        ∃ y, t.findTask id = some y ∧ y.swap = some { w with copied := true, result := .ok }) ∧
    (∀ m, s.isLead x = true → x.decided = none →
      ((∃ k < max 1 x.members.length, k ≠ m ∧ w.reports.any (fun p => p.1 == k) = false) →
        Gives (.swapReport ⟨id, x.epoch⟩ m .ok) s fun t => t = { s with tasks := t.tasks } ∧ ∃ y v, t.findTask id = some y ∧
          y.swap = some v ∧ v.go = true ∧ (m, .ok) ∈ v.reports ∧ y.releaseEpoch = x.releaseEpoch) ∧
      ((∀ k < max 1 x.members.length, k = m ∨ w.reports.any (fun p => p.1 == k) = true) →
        Gives (.swapReport ⟨id, x.epoch⟩ m .ok) s fun t => t = { s with tasks := t.tasks } ∧ ∃ y v, t.findTask id = some y ∧
          y.swap = some v ∧ v.go = false ∧ y.releaseEpoch = some (x.epoch + 1)) ∧
      (∀ l, w.copied = false → w.read = 0 → s.copyStopped x = false → w.ref = some r → Awaits s r a →
        Gives (.swapReport ⟨id, x.epoch⟩ m (.badLayer l)) s fun t => Ended s t r stDigestFail (.swapFail m l) ∧ t.cores = s.cores ∧
          ∃ y, t.findTask id = some y ∧ y.swap = none ∧ y.grefs = x.grefs))

/-- Layer swaps (R295, R314 to R317). -/
def Obligations.SwapsWaitCopyAndRelease : Prop :=
  Sys2Proof.Claims.SwapsWaitForEveryMember ∧
  Sys2Proof.Claims.SwapsCopyAtTheLanding

/-! ### Streams and serving (16), the far tier (15) -/

/-- A stream command finds its stream: this module leads the banner, ranges agree, and the id names entry `e` of the range. -/
def Sys2Proof.Safety.NamesStream (s : State) (a : Accepted) (sid : Word) (e : StreamEntry) : Prop :=
  s.leads a.banner = true ∧ (s.part a.banner).rangesDiffer = false ∧
  (s.part a.banner).inRange (streamOf sid) = true ∧ e = s.stream (streamOf sid) ∧ e.gen.toNat = sid.toNat / 65536

/-- STREAM.APPEND (R344, R345, R351, R361): with the id that names none, a FREE entry becomes a QUEUED stream with the given tokens; to
a stream that may take them they wait for a landing. Either takes pages of the stream buffer, and a seed of its own where none is
given. -/
def Sys2Proof.Claims.AppendsMakeOrFeedStreams : Prop :=
  ∀ (s : State) (r : CmdRef) (a : Accepted) (p : List Byte) (n : Nat) (l : Option (List Word)), CmdReady s r 0x0501 a →
    p = a.params → n = natAt p 8 4 →
    (s.rst.blockStrm = true → Gives (.streamAppend r l) s fun t => t = s) ∧
    (s.rst.blockStrm = false → s.leads a.banner = false → Answers (.streamAppend r l) s r 0x0501 stNotPermitted .none s) ∧
    (s.rst.blockStrm = false → s.leads a.banner = true → appendBad p = true → Answers (.streamAppend r l) s r 0x0501 stBadParam .none s) ∧
    (s.rst.blockStrm = false → appendBad p = false → s.leads a.banner = true → (s.part a.banner).rangesDiffer = false → s.shutdown = false →
      ∀ toks : List Word, l = some toks → bitOf (natAt p 6 1) 2 = true → toks.length = n →
      (∀ i, natAt p 0 4 = 0xFFFFFFFF → s.oldestFree (s.part a.banner) = some i →
        s.appendShort a.banner (sidOf i (s.stream i)) { s.stream i with
          image := BitVec.ofNat 3 (natAt p 5 1), model := (s.slot (natAt p 5 1 % 8)).model } n = none →
        bufPagesFor n ≤ ((s.setStream i { StreamEntry.reset with banner := a.banner }).freePages a.banner).length →
        Gives (.streamAppend r l) s fun t => OneQueue s t r.fn.val r.queue.val ∧
          t = { s with accepted := t.accepted, fns := t.fns, streams := t.streams, fresh := t.fresh } ∧
          Replied s t r 0x0501 stOk (.append (sidOf i (s.stream i)) (t.stream i).seed .queued) ∧
          (t.stream i).st = .queued ∧ (t.stream i).gen = (s.stream i).gen ∧ (t.stream i).banner = a.banner ∧
          (t.stream i).buffer = toks ∧ (t.stream i).pending = BitVec.ofNat 32 n ∧ (t.stream i).context = 0 ∧
          (t.stream i).bufPages.length = bufPagesFor n ∧
          (bitOf (natAt p 6 1) 0 = true → (t.stream i).seed = BitVec.ofNat 64 (natAt p 16 8)) ∧
          ∀ j, j ≠ i → t.stream j = s.stream j) ∧
      (natAt p 0 4 = 0xFFFFFFFF → s.oldestFree (s.part a.banner) = none →
        Answers (.streamAppend r l) s r 0x0501 stNoCapacity (.shortfall 1) s) ∧
      (∀ sid e, sid = BitVec.ofNat 32 (natAt p 0 4) → sid ≠ 0xFFFFFFFF → NamesStream s a sid e →
        s.heldCmds.any (fun h => h.sid == sid && h.kind == .end_) = false →
        (∀ k, mayAppend e = true → s.appendShort a.banner sid e n = none →
          k = bufPagesFor (promptCount e (s.heldTokens sid + n)) - e.bufPages.length →
          (k ≤ (s.freePages e.banner).length →
            ∃ (q : AppendReq) (v : BitVec 64), q.tokens = toks ∧ q.seed = some v ∧
              (bitOf (natAt p 6 1) 0 = true → v = BitVec.ofNat 64 (natAt p 16 8)) ∧ Gives (.streamAppend r l) s fun t =>
              OneQueue s t r.fn.val r.queue.val ∧ Replied s t r 0x0501 stOk (.append sid v e.st) ∧
              t = { s.hold (.append q) none sid with accepted := t.accepted, fns := t.fns, streams := t.streams, fresh := t.fresh } ∧
              (t.stream (streamOf sid)).bufPages.length = e.bufPages.length + k ∧
              t.stream (streamOf sid) = { e with bufPages := (t.stream (streamOf sid)).bufPages, status := stOk } ∧
              ∀ j, j ≠ streamOf sid → t.stream j = s.stream j) ∧
          ((s.freePages e.banner).length < k →
            Answers (.streamAppend r l) s r 0x0501 stNoCapacity (.shortfall k) s)) ∧
        (mayAppend e = true → ∀ k, s.appendShort a.banner sid e n = some k →
          Answers (.streamAppend r l) s r 0x0501 stNoCapacity (.shortfall k) s) ∧
        (mayAppend e = false → Answers (.streamAppend r l) s r 0x0501 stNotPermitted (.streamState e.st) s)))

/-- STREAM.PAUSE, RESUME, END, FREE and MEMORY.ATTACH (R345, R348, R358, R362, Table 16.3): each waits for a landing in the states that
allow it, and of a PARKED stream replies BUSY before the far tier is ready (R431); FREE returns a DONE or FAULTED entry with its
generation incremented. -/
def Sys2Proof.Claims.StreamCommandsWaitForALanding : Prop :=
  ∀ (s : State) (r : CmdRef) (a : Accepted) (sid : Word) (e : StreamEntry), NamesStream s a sid e →
    (CmdReady s r 0x0502 a →
      (e.st = .ready ∨ e.st = .generating → Starts (.streamPause r sid) s r a (s.hold .pause (some r) sid)) ∧
      (e.st ≠ .ready → e.st ≠ .generating →
        Answers (.streamPause r sid) s r 0x0502 stNotPermitted (.streamState e.st) s)) ∧
    (CmdReady s r 0x0503 a →
      (e.st = .paused ∨ (e.st = .parked ∧ s.far.ready = true) →
        Starts (.streamResume r sid) s r a (s.hold .resume (some r) sid)) ∧
      (e.st = .parked → s.far.ready = false → Answers (.streamResume r sid) s r 0x0503 stBusy (.streamState e.st) s) ∧
      (e.st ≠ .paused → e.st ≠ .parked →
        Answers (.streamResume r sid) s r 0x0503 stNotPermitted (.streamState e.st) s)) ∧
    (CmdReady s r 0x0504 a →
      (e.st ≠ .free → e.st ≠ .done → (e.st = .parked → s.far.ready = true) →
        Starts (.streamEnd r sid) s r a (s.hold .end_ (some r) sid)) ∧
      (e.st = .parked → s.far.ready = false → Answers (.streamEnd r sid) s r 0x0504 stBusy (.streamState e.st) s) ∧
      (e.st = .free ∨ e.st = .done → Answers (.streamEnd r sid) s r 0x0504 stNotPermitted (.streamState e.st) s)) ∧
    (CmdReady s r 0x0505 a → s.rst.blockStrm = false →
      (e.st = .done ∨ e.st = .faulted → (∀ h ∈ s.heldCmds, h.sid = sid → h.ref = none) →
        Gives (.streamFree r sid) s fun t => Replied s t r 0x0505 stOk .none ∧
        (t.stream (streamOf sid)).st = .free ∧ (t.stream (streamOf sid)).gen = e.gen + 1 ∧
        (t.stream (streamOf sid)).freedAt = s.freeClock + 1 ∧
        (∀ j, j ≠ streamOf sid → t.stream j = s.stream j) ∧ t.cores = s.cores ∧ t.granules = s.granules) ∧
      (e.st ≠ .done → e.st ≠ .faulted → e.st ≠ .free →
        Answers (.streamFree r sid) s r 0x0505 stBusy (.streamState e.st) s)) ∧
    (∀ store, CmdReady s r 0x0605 a →
      ((s.store a.banner store).isSome = true → s.far.ready = true → Starts (.memoryAttach r store sid) s r a (s.hold (.attach store) (some r) sid)) ∧
      ((s.store a.banner store).isSome = false → Answers (.memoryAttach r store sid) s r 0x0605 stNotPermitted .none s))

/-- SERVING_LANDING, PARK_COMPLETE and RESUME_COMPLETE (R329, R334 to R336, R339, R340, R346, R349, R352, R355): a landing is served once
and then ready for its release, and a member takes the lead's entries; a member's park or resume counts for it, the module's own
also moves the pages once its wheel entries are free and the journal has room, under records that its key opens again; without that key the resume ends and the
records stay (R334); and a record that is unreadable or fails its tag is kept for the next landing. -/
def Sys2Proof.Claims.LandingsServeStreams : Prop :=
  ∀ (s : State),
    (∀ id x v, s.findTask id = some x → x.serving = some v → x.st = .landing → x.served = false →
      s.rst.scRunning.contains 1 = true → s.rst.blockStrm = false → s.findLoad x.loadId = some x →
      s.aborting x = false → s.fwLands x.banner = true →
      (∀ sl sp i f, s.isLead x = false → f.gen = (s.stream i).gen → f.st = .paused → (s.stream i).st ≠ .parked →
        Gives (.servingLanding { task := id, epoch := x.epoch, changes := [(i, f)], slots := sl, slotPos := sp }) s fun t =>
        t.stream i = { s.stream i with toStreamFields := f } ∧ (∀ j, j ≠ i → t.stream j = s.stream j) ∧ t.cores = s.cores) ∧
      (∀ sl sp, s.isLead x = false → Gives (.servingLanding { task := id, epoch := x.epoch, changes := [], slots := sl, slotPos := sp }) s fun t =>
        t = { s with tasks := t.tasks, parts := t.parts, granules := t.granules, mgmtOut := t.mgmtOut } ∧
        (∃ y, t.findTask id = some y ∧ y = { x with served := true, slots := sl, slotPos := sp }) ∧
        ∃ m, t.mgmtOut = s.mgmtOut ++ [(BitVec.ofNat 10 x.leadAddr, .landingReport x.id x.epoch m)] ∧ m.ready = true ∧
          m.member = x.member) ∧
      (∀ u : ServingTurn, u.task = id → s.isLead x = true → s.streams = [] → s.heldCmds = [] → x.slots = [] →
        Gives (.servingLanding u) s fun t =>
        (∃ y, t.findTask id = some y ∧ y.served = true ∧ y.slots = [] ∧ y.st = .landing) ∧ t.streams = [] ∧
        t.cores = s.cores ∧ t.accepted = s.accepted) ∧
      (∀ u i e m l, u.task = id → s.isLead x = true → s.streams = [(i, e)] → e.banner = x.banner → e.st = .ready → e.pages ≠ [] →
        e.lost = none → e.parkRun = false → e.resumeRun = false → s.heldCmds = [] → x.slots = [] →
        (s.part x.banner).lostMembers = m :: l → Gives (.servingLanding u) s fun t =>
          (t.stream i).st = .faulted ∧ (t.part x.banner).lostMembers = [])) ∧
    (∀ u x v, s.findTask u.task = some x → x.serving = some v → x.served = true →
      (s.isLead x = true ∨ u.epoch = x.epoch) → Gives (.servingLanding u) s fun t => t = s) ∧
    (s.rst.blockStrm = true → ∀ sid m x, (Gives (.parkComplete sid m x) s fun t => t = s) ∧
      Gives (.resumeComplete sid m x) s fun t => t = s) ∧
    (∀ sid i e m n, s.liveStream sid = some (i, e) → s.rst.blockStrm = false →
      (e.parkRun = true → m ≠ s.ownMember e.banner → Gives (.parkComplete sid m (.ok n)) s fun t =>
        t = { s with streams := t.streams } ∧ t.stream i = { e with parking := insNat m e.parking } ∧
        ∀ j, j ≠ i → t.stream j = s.stream j) ∧
      (∀ key, e.parkRun = true → m = s.ownMember e.banner → e.parking.contains m = false → s.writeKeyOf e.banner = some key →
        (s.fwMoves e.banner (s.parkPages e) = false → Gives (.parkComplete sid m (.ok n)) s fun t => t = s) ∧
        (s.fwMoves e.banner (s.parkPages e) = true →
          (s.far.room ((s.parkPages e).length + 1) = false → Gives (.parkComplete sid m (.ok n)) s fun t =>
            t = { s with far := { s.far with parkWait := t.far.parkWait } } ∧ sid ∈ t.far.parkWait) ∧
          (s.far.room ((s.parkPages e).length + 1) = true → (∀ g, (s.granule g).badUnit = []) → Gives (.parkComplete sid m (.ok n)) s fun t =>
            t = { s with streams := t.streams, far := t.far, mgmtOut := t.mgmtOut } ∧
            (s.leads e.banner = true → t.mgmtOut = s.mgmtOut) ∧ t.stream i = { e with parking := insNat m e.parking } ∧
            ∃ o ∈ t.far.objs, o.owner = sid ∧ o.keyId = key ∧ o.complete = true ∧ o.stream = true ∧ o.context = e.context.toNat ∧
              (o.pages = (s.parkPages e).map fun p => s.nearRead e.banner (p * 65536) 65536) ∧
              (∀ r ∈ o.all, t.recOk o r = true) ∧ o.last.isSome = true ∧ ∀ q ∈ t.far.objs, q.stream = true → q.owner = sid → q = o))) ∧
      (∀ k, e.parkRun = true → Gives (.parkComplete sid m (.unreadable n k)) s fun t =>
        t.stream i = { e with lost := some (m, k), parkRun := false, resumeRun := false } ∧ t.far = s.far ∧ t.cores = s.cores) ∧
      (e.resumeRun = true → m ≠ s.ownMember e.banner → Gives (.resumeComplete sid m (.ok n)) s fun t =>
        t = { s with streams := t.streams } ∧ t.stream i = { e with resuming := insNat m e.resuming }) ∧
      (∀ o, e.resumeRun = true → m = s.ownMember e.banner → e.resuming.contains m = false → s.parkedObj sid = some o →
        (s.fwMoves e.banner (e.pages ++ e.listPage.toList) = false → Gives (.resumeComplete sid m (.ok n)) s fun t => t = s) ∧
        (s.fwMoves e.banner (e.pages ++ e.listPage.toList) = true →
          (s.farKeyHeld o.banner o.keyId = false → s.leads e.banner = true → (∀ h ∈ s.heldCmds, h.sid ≠ sid) →
            Gives (.resumeComplete sid m (.ok n)) s fun t =>
            t.stream i = { e with resumeRun := false, resuming := [] } ∧ t.far = s.far ∧ t.granules = s.granules) ∧
          (s.farKeyHeld o.banner o.keyId = true → (∀ r ∈ o.all, s.recOk o r = true) → Gives (.resumeComplete sid m (.ok n)) s fun t =>
            t = { s with streams := t.streams, far := { s.far with retry := s.far.retry + n }, granules := t.granules, mgmtOut := t.mgmtOut } ∧
            t.stream i = { e with resuming := insNat m e.resuming } ∧
            t.granules = ((e.pages.zip (o.pages.take (o.pages.length - 1))).foldl
              (fun s p => s.nearWrite e.banner (p.1 * 65536) p.2) s).granules) ∧
          (∀ r rs, s.farKeyHeld o.banner o.keyId = true → o.recs = r :: rs → s.recOk o r = false → Gives (.resumeComplete sid m (.ok n)) s fun t =>
            t.stream i = { e with lost := some (m, r.index), parkRun := false, resumeRun := false } ∧ t.far.ue = s.far.ue ∧
            t.far.objs = s.far.objs ∧ t.granules = s.granules))) ∧
      (∀ k, e.resumeRun = true → Gives (.resumeComplete sid m (.unreadable n k)) s fun t =>
        t.stream i = { e with lost := some (m, k), parkRun := false, resumeRun := false } ∧ t.cores = s.cores ∧
        (m = s.ownMember e.banner → t.far.ue = s.far.ue + 1 ∧ t.far.retry = s.far.retry + n) ∧
        (m ≠ s.ownMember e.banner → t.far = s.far)))

/-- Streams: appends, commands and landings (R339, R340, R344, R345, R348, R349, R351, R352, R355, R358, R362). -/
def Obligations.StreamsAreServedAtLandings : Prop :=
  Sys2Proof.Claims.AppendsMakeOrFeedStreams ∧
  Sys2Proof.Claims.StreamCommandsWaitForALanding ∧
  Sys2Proof.Claims.LandingsServeStreams

/-- Memory stores and the journal (R334 to R337, R400): a store is made in the banner's namespace, a write goes under the write key into
the journal or waits while that is full, a read opens each record with its own key, a bound store is not deleted, and a flush
makes room. -/
def Sys2Proof.Claims.MemoryStoresReachTheFarTier : Prop :=
  ∀ (s : State) (r : CmdRef) (a : Accepted) (m : Word),
    (CmdReady s r 0x0601 a → s.shutdown = false → s.store a.banner m = none →
      (s.far.ready = false → Answers (.memoryCreate r m) s r 0x0601 stBusy .none s) ∧
      ((s.part a.banner).ns ≠ 0 → s.far.ready = true → Answers (.memoryCreate r m) s r 0x0601 stOk .none
        { s with stores := s.stores ++ [(m, { banner := a.banner, attached := none, near := false })] }) ∧
      ((s.part a.banner).ns = 0 → s.far.ready = true → Answers (.memoryCreate r m) s r 0x0601 stNoCapacity (.shortfall 1) s)) ∧
    (∀ n l key, CmdReady s r 0x0602 a → s.shutdown = false → (s.store a.banner m).isSome = true → l ≠ [] →
      (∀ e ∈ l, e.length ≤ 65536) →
      (s.writeKeyOf a.banner = none → Answers (.memoryWrite r m n (some l)) s r 0x0602 stKeyFail .none s) ∧
      (s.writeKeyOf a.banner = some key → s.nsShort a.banner m n l.length = 0 → s.far.ready = true →
        (s.far.waiting = [] → s.far.room l.length = true →
          AnswersAfter (.memoryWrite r m n (some l)) s r 0x0602 stOk .none (s.putRecords a.banner m key n l)) ∧
        (s.far.waiting ≠ [] ∨ s.far.room l.length = false →
          Starts (.memoryWrite r m n (some l)) s r a
            { s with far := { s.far with waiting := s.far.waiting ++ [(r, m, n, l)] } }))) ∧
    (∀ n c k, CmdReady s r 0x0603 a → (s.store a.banner m).isSome = true → 0 < c → s.far.ready = true →
      (∀ j < c, ∃ o, (s.storeObjs a.banner m).find? (fun o => o.index == n + j) = some o ∧
        s.farKeyHeld a.banner o.keyId = true ∧ ∀ x ∈ o.recs, s.recOk o x = true) →
      (Gives (.memoryRead r m n c (some (.ok k))) s fun t => RepliedAfter s t r 0x0603 stOk .none ∧
        t = { s with far := { s.far with retry := s.far.retry + k }, accepted := t.accepted, fns := t.fns } ∧
        (t.fn r.fn.val).dmaOut = (List.range c).flatMap fun j =>
          (((s.storeObjs a.banner m).find? fun o => o.index == n + j).map fun o => o.pages.flatten).getD []) ∧
      AnswersAfter (.memoryRead r m n c none) s r 0x0603 stBadAddress .none s) ∧
    (∀ x, CmdReady s r 0x0604 a → s.store a.banner m = some x →
      (x.attached.isSome = true → Answers (.memoryDelete r m) s r 0x0604 stBusy .none s) ∧
      (x.attached = none → s.far.ready = true → Gives (.memoryDelete r m) s fun t => Replied s t r 0x0604 stOk .none ∧
        OneQueue s t r.fn.val r.queue.val ∧
        t = { s with accepted := t.accepted, fns := t.fns, stores := t.stores, far := { s.far with objs := t.far.objs } } ∧
        t.store a.banner m = none ∧ t.storeObjs a.banner m = [] ∧
        ∀ b k, k ≠ m ∨ b ≠ a.banner → t.store b k = s.store b k ∧ t.storeObjs b k = s.storeObjs b k)) ∧
    (∀ n, s.far.ready = true → s.far.waiting = [] → Gives (.journalFlush n) s fun t =>
      t = { s with far := { s.far with journal := s.far.journal - n, jrn := t.far.jrn } } ∧
      ∃ k, t.far.jrn = s.far.jrn.drop k) ∧
    (∀ n f l x key, s.far.ready = true → s.far.waiting = [(r, m, f, l)] → s.far.journal - n + l.length * 65536 ≤ 268435456 →
      Awaits s r x → (s.store x.banner m).isSome = true → s.writeKeyOf x.banner = some key →
      Gives (.journalFlush n) s fun t => Ended s t r stOk .none ∧ t.far.waiting = [] ∧
        t.far.objs = (s.putRecords x.banner m key f l).far.objs)

/-- What was written is what is read (R334): after a write of entries their records hold them, under the write key, and other
entries are as before. -/
def Sys2Proof.Claims.WrittenRecordsAreReadBack : Prop :=
  ∀ (s : State) (b : Banner) (m : Word) (key : BitVec 32) (n : Nat) (l : List (List Byte)) (j : Nat),
    (∀ d, l[j]? = some d → ∃ o, ((s.putRecords b m key n l).storeObjs b m).find? (fun o => o.index == n + j) = some o ∧
      o.pages = [d] ∧ o.keyId = key ∧ ∀ x ∈ o.recs, (s.putRecords b m key n l).recOk o x = true) ∧
    (j < n ∨ n + l.length ≤ j → ((s.putRecords b m key n l).storeObjs b m).find? (fun o => o.index == j) =
      (s.storeObjs b m).find? (fun o => o.index == j)) ∧
    (∀ c k, c ≠ b ∨ k ≠ m → (s.putRecords b m key n l).storeObjs c k = s.storeObjs c k)

/-- Memory stores, the journal and their records (R334 to R337, R400). -/
def Obligations.MemoryStoresKeepTheirRecords : Prop :=
  Sys2Proof.Claims.MemoryStoresReachTheFarTier ∧
  Sys2Proof.Claims.WrittenRecordsAreReadBack

/-- Work in the background (R332, R431, R438 to R442): the patrol mends or counts the bad units of a stack, a pennant record joins its
banner's store and is compared, the oldest log entry goes to the flash ring, and the far tier comes into service. -/
def Obligations.BackgroundWorkIsDone : Prop :=
  ∀ (s : State),
    (∀ (n : StackId) g u bad, (s.stack n.val).trained = true → g / 33 = n.val → (s.granule g).badUnit = [(u, bad)] →
      (∀ x, x ≠ g → x / 33 = n.val → (s.granule x).badUnit = []) → (s.stack n.val).reserve.badUnit = [] →
      (bad = false → Gives (.patrolScrub n) s fun t => t = { s with stackTbl := t.stackTbl, granules := t.granules } ∧
        (t.stack n.val) = { s.stack n.val with ce := (s.stack n.val).ce + 1 } ∧
        t.granule g = { s.granule g with badUnit := [] } ∧ ∀ x, x ≠ g → t.granule x = s.granule x) ∧
      (bad = true → Gives (.patrolScrub n) s fun t => t = { s with stackTbl := t.stackTbl, diag := t.diag, fns := t.fns } ∧
        (t.stack n.val) = { s.stack n.val with ue := (s.stack n.val).ue + 1, ueAddr := BitVec.ofNat 32 (unitAddr g u) })) ∧
    (∀ i d x, s.pensIn[i]? = some d → s.findTask (BitVec.ofNat 32 (natAt d 0 4)) = some x →
      x.hasExpected = false →
      (s.pensTread < 64 → ((s.part x.banner).pen x.id).store.length < 32768 → Gives (.pennantRecord i) s fun t =>
        t = { s with pensIn := s.pensIn.eraseIdx i, pensTread := s.pensTread + 1, parts := t.parts } ∧
        t.part x.banner = (s.part x.banner).updPen x.id fun q => { q with store := q.store ++ [d] }) ∧
      (64 ≤ s.pensTread → Gives (.pennantRecord i) s fun t =>
        t = { s with pensIn := s.pensIn.eraseIdx i, parts := t.parts } ∧
        t.part x.banner = (s.part x.banner).updPen x.id fun q => { q with lost := satAdd 65535 q.lost 1 })) ∧
    (∀ i d x y, s.pensIn[i]? = some d → s.findTask (BitVec.ofNat 32 (natAt d 0 4)) = some x →
      x.hasExpected = true → s.pensTread < 64 → x.expected.find? (Expected.meets d) = some y →
      (natAt d 24 8 = y.digest.toNat → Gives (.pennantRecord i) s fun t => t.diag = s.diag ∧
        ((t.part x.banner).pen x.id).matched = (((s.part x.banner).pen x.id).matched + 1) % 4294967296 ∧
        ((t.part x.banner).pen x.id).mismatched = ((s.part x.banner).pen x.id).mismatched) ∧
      (natAt d 24 8 ≠ y.digest.toNat → Gives (.pennantRecord i) s fun t =>
        ((t.part x.banner).pen x.id).mismatched = (((s.part x.banner).pen x.id).mismatched + 1) % 4294967296 ∧
        ((t.part x.banner).pen x.id).matched = ((s.part x.banner).pen x.id).matched ∧
        ((t.part x.banner).pen x.id).first = ((s.part x.banner).pen x.id).first.or (some (penFirstOf d)))) ∧
    (∀ l e, s.diag.buf = l ++ [e] → s.rst.pend = none → s.flashBusy = false →
      (e.seq.toNat % 1024 ≠ 0 ∨ s.diag.work.ready = some (e.seq.toNat / 1024 % 128) → Gives .eventLogFlush s fun t =>
        t = { s with diag := t.diag } ∧ t.diag.buf = l ∧ t.diag.flash = e :: s.diag.flash) ∧
      (e.seq.toNat % 1024 = 0 → s.diag.work.ready ≠ some (e.seq.toNat / 1024 % 128) → Gives .eventLogFlush s fun t =>
        t = { s with diag := t.diag } ∧ t.diag.buf = s.diag.buf ∧ t.diag.flash = s.diag.flash.take 130048 ∧
        t.diag.work.ready = some (e.seq.toNat / 1024 % 128))) ∧
    (s.rst.pend ≠ none ∨ s.flashBusy = true → Gives .eventLogFlush s fun t => t = s) ∧
    (s.rst.blockFar = false → s.rst.isReady = true ∨ (s.rst.step = 7 ∧ s.rst.off = false) →
      Gives .farTierReady s fun t => t = { s with far := { s.far with ready := true } })

/-! ### The fabric (13), keys, SPDM and the life cycle (18) -/

/-- FABRIC.SET_MANIFEST and FABRIC.LINK_CTL (R278, R279, R283, R292, R293): a manifest that passes gives the module its address and tears
every link down; one that fails changes nothing; a link is disabled, retrained or enabled. -/
def Obligations.ManifestsAndLinkCommands : Prop :=
  ∀ (s : State) (r : CmdRef) (a : Accepted),
    (∀ p, CmdReady s r 0x0701 a →
      (s.tasks.any Task.live = true → Answers (.fabricSetManifest r (some p)) s r 0x0701 stBusy .none s) ∧
      (s.tasks.any Task.live = false → s.manifestCheck p = none →
        AnswersAfter (.fabricSetManifest r (some p)) s r 0x0701 stManifestInvalid .none s) ∧
      (∀ m i, s.tasks.any Task.live = false → s.manifestCheck p = some (m, i) → Quiet s →
        Gives (.fabricSetManifest r (some p)) s fun t => RepliedAfter s t r 0x0701 stOk .none ∧ t.manifest = some m ∧
          t.settings.manifest = some m ∧ t.fabAddr = some (BitVec.ofNat 10 (i / m.columns * 32 + i % m.columns)) ∧
          (∀ l, l < 64 → (t.link l).up = false) ∧ t.parts = s.parts)) ∧
    (∀ (l : LinkId) v, CmdReady s r 0x0703 a →
      ((s.link l.val).st ≠ .off → bitOf v.toNat 0 = false → Quiet s → Gives (.fabricLinkCtl r l v) s fun t =>
        Replied s t r 0x0703 stOk .none ∧ TornDown (s.link l) (t.link l) false 0xF s.clk.treadCount ∧ ∀ m, m ≠ l.val → t.link m = s.link m) ∧
      ((s.link l.val).st ≠ .off → bitOf v.toNat 0 = true → bitOf v.toNat 1 = true → Quiet s →
        Gives (.fabricLinkCtl r l v) s fun t => Replied s t r 0x0703 stOk .none ∧
          TornDown (s.link l) (t.link l) (s.link l).enable 0xF s.clk.treadCount ∧ ∀ m, m ≠ l.val → t.link m = s.link m) ∧
      ((s.link l.val).st ≠ .off → bitOf v.toNat 0 = true → bitOf v.toNat 1 = false →
        Answers (.fabricLinkCtl r l v) s r 0x0703 stOk .none s) ∧
      ((s.link l.val).st = .off → bitOf v.toNat 0 = true → s.noPartner l.val = true →
        Answers (.fabricLinkCtl r l v) s r 0x0703 stOk .none s) ∧
      ((s.link l.val).st = .off → bitOf v.toNat 0 = true → s.noPartner l.val = false → Answers (.fabricLinkCtl r l v) s r 0x0703 stOk .none
        (s.setLink l.val { s.link l.val with enable := true, offPend := true })))

/-- A key message of a session that may speak for its banner. -/
def Sys2Proof.Safety.KeySession (s : State) (n op : Nat) (m : KeyMsg) : Prop :=
  (s.sec.sessions.any fun x => x.1 == n) = true ∧ m.op = op ∧ m.banner < 8 ∧ (m.use = 1 ∨ m.use = 2) ∧ m.bad = false ∧
  s.sessionFor n m.banner = true

/-- The answer to a key message: its status and the free slots of the banner; of the module only keys may differ, and the entries of
PARKED streams that a cold start rebuilt without their context (R420). -/
def Sys2Proof.Safety.KeyReplied (s t : State) (b : Banner) (st : BitVec 16) : Prop :=
  t.sec.spdmOut = (leBytes 2 st.toNat ++ leBytes 2 (t.freeSlots b)) :: s.sec.spdmOut ∧
  t = { s with sec := { s.sec with keys := t.sec.keys, spdmOut := t.sec.spdmOut }, streams := t.streams } ∧
  ∀ i, (s.stream i).st ≠ .parked ∨ (s.stream i).context ≠ 0 → t.stream i = s.stream i

/-- KEY_DELIVER, KEY_DISCARD, SET_WRITE_KEY, KEY_EXPIRY and SECURITY.KEY_DISCARD (R397 to R400): a key takes a free slot of its banner, the
same key again is OK and another one refused, and gives an entry that a cold start rebuilt its fields back (R420); a discard empties the slot unless the key is in use; one far-tier key is the
write key; a key goes at the second of its expiry. -/
def Obligations.KeysAreHeldInSlots : Prop :=
  ∀ (s : State) (n : Nat) (p : List Byte) (m : KeyMsg) (b : Banner), m = keyMsg p → b = Fin.ofNat 8 m.banner →
    (KeySession s n 1 m → m.id ≠ 0 → (m.expiry ≠ 0 → s.clk.calValid = true) →
      (s.keySlot b (m.use == 2) m.id = none → s.freeSlots b ≠ 0 → Gives (.keyDeliver n p) s fun t => KeyReplied s t b stOk ∧
        ∃ i, t.keySlot b (m.use == 2) m.id = some (i, { banner := b, gallery := m.use == 2, keyId := m.id, key := m.key,
                                                        wr := false, expiry := m.expiry })) ∧
      (∀ o f, m.use = 1 → s.keySlot b false m.id = none → s.freeSlots b ≠ 0 → s.far.objs = [o] → o.stream = true →
        o.complete = true → o.banner = b → o.keyId = m.id → o.entry = some f → (s.stream (streamOf o.owner)).st = .parked →
        (s.stream (streamOf o.owner)).context = 0 → (s.stream (streamOf o.owner)).banner = b →
        sidOf (streamOf o.owner) (s.stream (streamOf o.owner)) = o.owner →
        (∀ r, o.last = some r → Config.gcmTag m.key r.nonce (o.meta r.index r.seq) r.data = r.tag) → Gives (.keyDeliver n p) s fun t =>
          (t.stream (streamOf o.owner)).context = f.context ∧ (t.stream (streamOf o.owner)).seed = f.seed ∧
          (t.stream (streamOf o.owner)).st = .parked ∧ (t.stream (streamOf o.owner)).location = (s.stream (streamOf o.owner)).location) ∧
      (s.keySlot b (m.use == 2) m.id = none → s.freeSlots b = 0 → Gives (.keyDeliver n p) s fun t =>
        KeyReplied s t b stNoCapacity ∧ t.sec.keys = s.sec.keys) ∧
      (∀ i k, s.keySlot b (m.use == 2) m.id = some (i, k) → Gives (.keyDeliver n p) s fun t =>
        KeyReplied s t b (if k.key = m.key then stOk else stNotPermitted) ∧ t.sec.keys = s.sec.keys)) ∧
    (KeySession s n 2 m →
      (s.keySlot b (m.use == 2) m.id = none → Gives (.keyDiscard n p) s fun t => KeyReplied s t b stKeyFail ∧
        t.sec.keys = s.sec.keys) ∧
      (∀ i k, s.keySlot b (m.use == 2) m.id = some (i, k) →
        (m.use = 1 → m.force = true ∨ s.farRecords b m.id = 0 → Gives (.keyDiscard n p) s fun t => KeyReplied s t b stOk ∧
          t.sec.keys = tdel s.sec.keys i) ∧
        (m.use = 1 → m.force = false → s.farRecords b m.id ≠ 0 → Gives (.keyDiscard n p) s fun t =>
          KeyReplied s t b stBusy ∧ t.sec.keys = s.sec.keys) ∧
        (m.use = 2 → s.galKeyUsed b m.id = true → Gives (.keyDiscard n p) s fun t => KeyReplied s t b stBusy ∧
          t.sec.keys = s.sec.keys) ∧
        (m.use = 2 → s.galKeyUsed b m.id = false → Gives (.keyDiscard n p) s fun t => KeyReplied s t b stOk ∧
          t.sec.keys = tdel s.sec.keys i))) ∧
    (∀ i k, KeySession s n 3 m → m.use = 1 → s.keySlot b false m.id = some (i, k) → s.keyLive k = true →
      Gives (.setWriteKey n p) s fun t =>
      KeyReplied s t b stOk ∧ t.sec.keys.map (·.1) = s.sec.keys.map (·.1) ∧
      ∀ x ∈ t.sec.keys, x.2.banner = b → x.2.gallery = false → x.2.wr = (x.1 == i)) ∧
    (∀ op : Fin 4, (s.sec.sessions.any fun x => x.1 == n) = true → m.op = op.val → m.banner < 8 → m.use = 1 → m.bad = false →
      s.sessionFor n m.banner = false →
      (op = 1 → Gives (.keyDeliver n p) s fun t => KeyReplied s t b stBanner ∧ t.sec.keys = s.sec.keys) ∧
      (op = 2 → Gives (.keyDiscard n p) s fun t => KeyReplied s t b stBanner ∧ t.sec.keys = s.sec.keys) ∧
      (op = 3 → Gives (.setWriteKey n p) s fun t => KeyReplied s t b stBanner ∧ t.sec.keys = s.sec.keys)) ∧
    (∀ (slot : Fin 64) k, s.sec.keys.find? (fun k => k.1 == slot.val) = some (slot.val, k) →
      (k.expiry ≠ 0 → s.clk.calValid = true → expiryOrd k.expiry ≤ s.clk.secondNow → Gives (.keyExpiry slot) s fun t =>
        t = { s with sec := { s.sec with keys := tdel s.sec.keys slot.val }, diag := t.diag, fns := t.fns }) ∧
      (k.expiry = 0 ∨ s.clk.calValid = false ∨ s.clk.secondNow < expiryOrd k.expiry → Gives (.keyExpiry slot) s fun t =>
        t = s)) ∧
    (∀ r a g id f i k, CmdReady s r 0x0802 a → s.keySlot a.banner g id = some (i, k) →
      (g = true → s.galKeyUsed a.banner id = false → Answers (.securityKeyDiscard r g id f) s r 0x0802 stOk .none
        { s with sec := { s.sec with keys := tdel s.sec.keys i } }) ∧
      (g = false → f = true ∨ s.farRecords a.banner id = 0 → Answers (.securityKeyDiscard r g id f) s r 0x0802 stOk .none
        { s with sec := { s.sec with keys := tdel s.sec.keys i } }) ∧
      (g = false → f = false → s.farRecords a.banner id ≠ 0 →
        Answers (.securityKeyDiscard r g id f) s r 0x0802 stBusy .none s))

/-- SPDM, PLDM and the life cycle (R385, R386, R396, R407 to R409): responses need the identity key; a session is kept; an update waits in
the inactive slot; a transition of Table 18.12 with the nonce and its token sets intent, state and confirm bits, and on the
way to RETURNED or RETIRED no key and no partition stays. The nonce is a free value (log 3). -/
def Obligations.LifeCycleMovesForward : Prop :=
  ∀ (s : State) (r : CmdRef) (a : Accepted),
    (∀ (n : BitVec 256) (x : SpdmPeer) (img : FwImage),
      (s.sec.identityKey = true →
        (Gives .getCertificate s fun t => t = { s with sec := { s.sec with
          spdmOut := Config.certChain s.otp.serial :: s.sec.spdmOut } }) ∧
        (Gives (.challenge n) s fun t => t = { s with sec := { s.sec with
          spdmOut := Config.identitySign s.otp.serial (leBytes 32 n.toNat ++ s.sec.measured) :: s.sec.spdmOut } }) ∧
        (Gives .getMeasurements s fun t => t = { s with sec := { s.sec with spdmOut := s.sec.measured :: s.sec.spdmOut } }) ∧
        (Gives (.keyExchange x) s fun t => t = { s with sec := { s.sec with sessions := t.sec.sessions } } ∧
          tget { session := 0, mutualAuth := false, rootDigest := 0 } t.sec.sessions x.session = x)) ∧
      (s.sec.identityKey = false → (Gives .getCertificate s fun t => t = s) ∧ (Gives (.challenge n) s fun t => t = s) ∧
        (Gives .getMeasurements s fun t => t = s) ∧ (Gives (.keyExchange x) s fun t => t = s)) ∧
      (img.digestOk = true → s.sec.rollback.toNat ≤ img.secver.toNat → Gives (.pldmFirmwareUpdate img) s fun t =>
        t = { s with fw := { s.fw with staged := some img } }) ∧
      (img.digestOk = false ∨ img.secver.toNat < s.sec.rollback.toNat → Gives (.pldmFirmwareUpdate img) s fun t => t = s)) ∧
    (CmdReady s r 0x0803 a →
      (∃ n, Answers (.securityLifecycleQuery r) s r 0x0803 stOk (.nonce n)
        { s with sec := { s.sec with nonce := some n }, fresh := s.fresh + 1 }) ∧
      ∀ (target : Fin 5) (n : BitVec 128) (tok : List Byte),
        (lcTransition (lcOf s.sec.lcBits) target.val = none →
          Answers (.securityLifecycle r target n tok) s r 0x0803 stLifecycle .none s) ∧
        (∀ need, lcTransition (lcOf s.sec.lcBits) target.val = some need →
          (s.sec.nonce ≠ some n → Answers (.securityLifecycle r target n tok) s r 0x0803 stSignatureFail .none s) ∧
          (s.sec.nonce = some n → (need = true → Config.tokenValid s.otp.serial target.val n tok = true) →
            (target.val ≤ 2 → Gives (.securityLifecycle r target n tok) s fun t => Replied s t r 0x0803 stOk .none ∧
              OneQueue s t r.fn.val r.queue.val ∧
              t = { s with accepted := t.accepted, fns := t.fns, sec := t.sec, diag := t.diag } ∧
              t.sec = { s.sec with
                lcCells := s.sec.lcCells.program (target.val - 1), intent := setBit4 s.sec.intent (target.val - 1),
                confirm := setBit4 s.sec.confirm (target.val - 1), testSecrets := s.sec.testSecrets && target.val != 1,
                factoryKey := s.sec.factoryKey && target.val != 2, identityKey := s.sec.identityKey || target.val == 1 } ∧
              t.sec.lcBits = setBit4 s.sec.lcBits (target.val - 1)) ∧
            (3 ≤ target.val → s.tasks.any Task.live = false → Quiet s →
              Gives (.securityLifecycle r target n tok) s fun t => Replied s t r 0x0803 stOk .none ∧
                t.sec.lcBits = setBit4 s.sec.lcBits (target.val - 1) ∧ t.sec.keys = [] ∧ t.sec.sessions = [] ∧ t.parts = [] ∧ t.settings.parts = none ∧
                (target.val = 4 → t.sec.identityKey = false ∧ t.sec.testSecrets = false ∧ t.sec.factoryKey = false) ∧
                (∀ l, l < 64 → (s.link l).st ≠ .off → (t.link l).secret = none) ∧
                ∀ g ∈ t.granules, g.2.owner = none ∧ g.2.mem = []))))

/-! ### Power, cooling and resets (21, 19) -/

/-- The module is off after a trip or the loss of its supply: nothing runs, and the cause stands. -/
def Sys2Proof.Safety.TurnedOff (t : State) (cause : BitVec 4) : Prop :=
  t.rst.off = true ∧ t.rst.isReady = false ∧ t.cores = [] ∧ t.tasks = [] ∧ t.settings.tripCause = cause ∧
  t.rst.causes.getLsbD 1 = true

/-- AVS_TRIM, POWER_WINDOW and POWER_EXHAUSTION (R454 to R458): a trim stays within its bounds; a window sets the effective cap and
every budget; over budget with every task at its minimum prompts are held; after 1 s of that the banner's tasks halt with 0x72. -/
def Sys2Proof.Claims.PowerStaysWithinBudgets : Prop :=
  ∀ (s : State), s.rst.off = false →
    (∀ (h : HallId) (d : Int), s.hallOn h = true → Gives (.avsTrim h d) s fun t => t = { s with halls := t.halls } ∧
      (∀ g, g ≠ h.val → t.hall g = s.hall g) ∧ -50 ≤ (t.hall h).fused ∧ (t.hall h).fused ≤ 25 ∧
      (-50 ≤ (s.hall h).fused + d → (s.hall h).fused + d ≤ 25 → (t.hall h).fused = (s.hall h).fused + d) ∧
      (t.hall h).mv = BitVec.ofNat 16 ((fusedMv h (s.hall h).stepCur.toNat : Int) + (t.hall h).fused).toNat) ∧
    (∀ v i (h : HallId) n, v < 65536 → i < 65536 → n < 65536 → Gives (.powerWindow v i [(h, n)]) s fun t =>
      t.pwr = { s.pwr with vIn := BitVec.ofNat 16 v, iIn := BitVec.ofNat 16 i, capEff := s.effCap s.pwr.capModule v } ∧
      (t.hall h).power = BitVec.ofNat 16 n ∧ t.cores = s.cores ∧
      ∀ b : Banner, (s.part b).valid = true →
        (t.part b).budgetW = (s.part b).power * (s.effCap s.pwr.capModule v - 600) / 100) ∧
    (∀ b : Banner, (s.part b).valid = true → (s.part b).budgetW * 10 < s.bannerPower b →
      (s.part b).stepAt + 1000 ≤ s.clk.treadCount → s.toLower b = none →
      ((s.windowOf b).part b).promptHold = true ∧ ((s.windowOf b).part b).overNow = true ∧ (s.windowOf b).tasks = s.tasks) ∧
    (∀ b : Banner, (s.part b).valid = true → s.bannerPower b * 10 < 85 * (s.part b).budgetW → 99 ≤ (s.part b).underMs →
      ((s.windowOf b).part b).promptHold = false ∧
      (s.toRaise b = none → ((s.windowOf b).part b).underMs = 0)) ∧
    (∀ b : Banner, (s.part b).valid = true → (s.part b).promptHold = true → 1000 ≤ (s.part b).overMs →
      Gives (.powerExhaustion b) s fun t => (∀ x ∈ s.tasks, x.live = true → x.banner = b → ∀ c ∈ x.cores,
        (s.core c).st ≠ .halted → Down t c 0x72) ∧ (t.part b).overMs = 0) ∧
    (∀ b : Banner, (s.part b).promptHold = false ∨ (s.part b).overMs < 1000 → Gives (.powerExhaustion b) s fun t => t = s)

/-- Thermal and coolant rows (R459 to R464): a reading at a trip threshold turns the module off; at 110 degrees the emergency begins and the next
boundary forces S1, halting tasks of a higher minimum with 0x32; a hot hall's task is asked one step lower; warnings lower the
cap and end; flow and inlet trips have causes 3 and 4. -/
def Sys2Proof.Claims.HeatIsAnswered : Prop :=
  ∀ (s : State), s.rst.off = false →
    (∀ x c, tripOf x = some c → Gives (.thermalSample x) s fun t => TurnedOff t c ∧ t.rst.trapped = true ∧
      t.pwr.thermHold = true) ∧
    (∀ x, tripOf x = none → Gives (.thermalSample x) s fun t => t.cores = s.cores ∧ t.tasks = s.tasks ∧ t.clk = s.clk ∧
      t.rst = s.rst ∧ t.pwr.tMax = BitVec.ofInt 16 (hottest x).2 ∧ t.pwr.tMaxHall = BitVec.ofNat 5 (hottest x).1 ∧
      (1100 ≤ (hottest x).2 → s.pwr.emergency = false → t.pwr.emergency = true ∧ t.pwr.emergForce = true ∧
        t.pwr.thermN = true) ∧
      (allBelow x 1050 = true → s.pwr.emergency = true → s.pwr.emergForce = false → t.pwr.emergency = false) ∧
      (∀ h v, (h, v) ∈ x.hall → 1050 ≤ v → t.pwr.throttle = true ∧ h.val ∈ t.pwr.hotHalls) ∧
      (allCool x = true → t.pwr.thermHold = false)) ∧
    (s.pwr.emergForce = true → Gives .emergencyStep s fun t => t.pwr.emergForce = false ∧ t.clk.armAt = none ∧
      (∀ h, h < 20 → s.hallOn h = true → (t.hall h).stepCur = 1) ∧
      ∀ x ∈ s.tasks, x.live = true → 1 < x.minStep.toNat → ∀ c ∈ x.cores, (s.core c).st ≠ .halted → Down t c 0x32) ∧
    (∀ (h : HallId) (x : Task), s.pwr.throttle = true → s.pwr.hotHalls.contains h.val = true → (s.hall h).assigned = true →
      (s.lowerOrder (s.hall h).banner).filter (fun t => decide (t.minStep.toNat < t.step.toNat)) = [x] → s.isLead x = true →
      s.clk.armAt = none → s.pwr.emergency = false → 1 < x.step.toNat → x.step.toNat ≤ maxStep s.otp.grade →
      (∀ g < 20, (s.hall g).stepCur.toNat ≤ maxStep s.otp.grade ∧ ((s.hall g).stepCur = 0 → s.hallRunning g = false)) →
      Gives (.throttleStep h) s fun t => t.clk.armAt = some (s.clk.treadCount + 6) ∧ t.cores = s.cores ∧
        (∀ g ∈ x.halls, g < 20 → t.clk.armSteps[g]? = some (x.step - 1)) ∧
        ∃ y ∈ t.tasks, y.loadId = x.loadId ∧ y.step = x.step - 1) ∧
    (∀ a, s.pwr.coolFrom = some a → a + 1000000 ≤ s.clk.treadCount → s.pwr.throttle = true → Gives .throttleEnd s fun t =>
      t = { s with pwr := { s.pwr with throttle := false, throttleHalls := [], hotHalls := [] } }) ∧
    (∀ f i, s.pwr.sensing = true → f < 65536 →
      (f < 160 ∨ 450 < i → Gives (.coolantWarning f i) s fun t => t.pwr.flow = BitVec.ofNat 16 f ∧
        t.pwr.inlet = BitVec.ofInt 16 i ∧ (f < 160 → t.pwr.flowWarn = true) ∧ (450 < i → t.pwr.inletWarn = true) ∧
        t.pwr.capEff ≤ 1800 ∧ t.cores = s.cores) ∧
      (Gives (.coolantWarningEnd f i) s fun t => t.pwr.flow = BitVec.ofNat 16 f ∧ t.pwr.inlet = BitVec.ofInt 16 i ∧
        (180 < f → t.pwr.flowWarn = false) ∧ (i < 430 → t.pwr.inletWarn = false) ∧
        (f ≤ 180 → t.pwr.flowWarn = s.pwr.flowWarn) ∧ t.cores = s.cores) ∧
      (f < 100 → Gives (.coolantTrip f i) s fun t => TurnedOff t 3 ∧ t.rst.trapped = true) ∧
      (100 ≤ f → 500 < i → Gives (.coolantTrip f i) s fun t => TurnedOff t 4 ∧ t.rst.trapped = true) ∧
      (100 ≤ f → i ≤ 500 → Gives (.coolantTrip f i) s fun t => t = { s with pwr := { s.pwr with
        flow := BitVec.ofNat 16 f, inlet := BitVec.ofInt 16 i } })) ∧
    (∀ d, (Gives (.smbusStuck d true) s fun t => t.pwr.smbUntil = s.clk.treadCount + 1000000 ∧ t.cores = s.cores ∧
        (∀ a ∈ t.accepted, a.ref.fn.val = 4 → a.discard = true)) ∧
      (Gives (.smbusStuck d false) s fun t => t.pwr = s.pwr ∧ (t.queue 4 0).pending = 0))

/-- Budgets and temperatures (R454 to R464). -/
def Obligations.PowerAndHeatAreBounded : Prop :=
  Sys2Proof.Claims.PowerStaysWithinBudgets ∧
  Sys2Proof.Claims.HeatIsAnswered

/-- Supply loss and its end (R337, R415, R451, R453, Table 21.2): over-voltage, over-current and a rail fault turn the module off with
causes 6, 5 and 7; the journal is committed where the hold-up, as last measured, lasts for it at 12 GB/s (and a commit record
stays until the journal is replayed), and the log reaches the flash; only the input, or after a trip the switch, starts
it again. -/
def Obligations.SupplyLossKeepsWhatIsSafe : Prop :=
  ∀ (s : State),
    (s.rst.off = false →
      (Gives .inputOvervoltage s fun t => TurnedOff t 6 ∧ t.rst.trapped = s.rst.trapped) ∧
      (Gives .inputOvercurrent s fun t => TurnedOff t 5 ∧ t.rst.trapped = true) ∧
      (Gives .railFault s fun t => TurnedOff t 7 ∧ t.rst.trapped = true) ∧
      (∀ rail, Gives (.bor rail) s fun t => TurnedOff t s.settings.tripCause ∧ (rail = true → t.rst.borRail = true) ∧
        (t.far.commit = true ↔ s.far.commit = true ∨ s.far.journal ≤ s.far.supplyMs * 12000000) ∧ t.far.objs = s.far.objs ∧ t.far.journal = s.far.journal ∧
        t.diag.flash = s.diag.buf.foldr ringPut s.diag.flash ∧ t.otp = s.otp ∧ t.opt = s.opt ∧
        (s.settings.parts = none → t.settings.parts = some (s.parts.map fun p => (p.1, p.2.afterReset.loseNear))) ∧
        t.parts = [] ∧ t.pwr.capModule = 2400 ∧ t.settings.capModule = s.settings.capModule ∧ t.fabAddr = none ∧
        t.settings.manifest = s.settings.manifest ∧
        ∀ i, (t.slot i).body = (s.slot i).body)) ∧
    (s.rst.off = true →
      (∀ rail, Gives (.bor rail) s fun t => t = s) ∧ (Gives .railFault s fun t => t = s) ∧
      (∀ st, s.rst.trapped = false → Gives (.inputRestored st) s fun t => t.rst.off = false ∧ t.rst.step = 0 ∧
        t.rst.cls = .cold ∧ t.rst.straps = st ∧ t = { s with rst := t.rst, clk := t.clk, pwr := t.pwr }) ∧
      (∀ st, s.rst.trapped = true → Gives (.tripRestart st) s fun t => t.rst.off = false ∧ t.rst.trapped = false ∧
        t.rst.step = 0 ∧ t.rst.straps = st ∧ t = { s with rst := t.rst, clk := t.clk, pwr := t.pwr }) ∧
      (∀ st, s.rst.trapped = true → Gives (.inputRestored st) s fun t => t = s)) ∧
    (∀ st, Gives (.por st) s fun t => t.rst.off = false ∧ (s.rst.pend = none → t.rst.causes = causePor) ∧
      (∀ p, s.rst.pend = some p → t.rst.causes = causePor ||| p.causes) ∧ t.rst.count = 0 ∧ t.rst.straps = st ∧
      t.rst.step = 0 ∧ t.rst.cls = .cold ∧ t.rst.isReady = false ∧ t.cores = [] ∧ t.tasks = [] ∧ t.accepted = [] ∧
      t.otp = s.otp ∧ t.far.objs = s.far.objs)

/-- A reset is asked for: of class `cls`, for `cause`, held while a pulse, a page program or a sector erase is in flight; one of the
clock or warm class has its boundary, two treads on, once nothing holds it; a sector erase is suspended within 50 treads. -/
def Sys2Proof.Safety.Asked (s t : State) (cls : RstClass) (cause : BitVec 10) (sc : BitVec 4) (pll : Bool) : Prop :=
  t = { s with mgmtOut := t.mgmtOut, rst := { s.rst with pend := t.rst.pend }, diag := { s.diag with work := t.diag.work } } ∧
  (s.pulsing = false → t.diag = s.diag) ∧ t.diag.work.progUntil = s.diag.work.progUntil ∧
  (∀ n a, s.pulsing = true → s.diag.work.erasing = some (n, a) →
    ∃ b, t.diag.work.erasing = some (n, b) ∧ b ≤ s.clk.treadCount + 50) ∧
  t.rst.pend = some { cls := cls, causes := cause, sc := sc, ckfPll := pll, borRail := false, held := s.pulsing,
                      at_ := if cls.rank ≤ 1 ∧ s.pulsing = false then some (s.clk.treadCount + 2) else none }

/-- Reset sources and their effect (R413, R414, R419, R421 to R424, Table 19.1): each asks for the class of its row, two that meet join their
reach and causes, a clock-class or warm-class reset waits for the second boundary; when it takes effect every task, core,
link and pending command is gone, and eight resets within the window lead to recovery mode. -/
def Sys2Proof.Claims.ResetsReachTheirClass : Prop :=
  ∀ (s : State), s.rst.off = false →
    (s.rst.pend = none →
      (∀ n, 110 ≤ n → Gives (.pin n) s fun t => Asked s t .full causePin 0 false) ∧
      (∀ n, n < 90 → Gives (.pin n) s fun t => t = s) ∧
      (Gives .dbg s fun t => Asked s t .full causeDbg 0 false) ∧
      (Gives .wdtSystem s fun t => Asked s t .full causeWdtSys 0 false) ∧
      (∀ p, Gives (.ckf p) s fun t => Asked s t .clock causeCkf 0 p) ∧
      (Gives .swr s fun t => Asked s t .warm causeSwr 0 false) ∧
      (∀ n : ScId, Gives (.lck n) s fun t => Asked s t .warm causeLck (BitVec.ofNat 4 n) false) ∧
      (Gives .cmdReset s fun t => Asked s t .warm causeCmd 0 false) ∧
      (Gives .resetTakesEffect s fun t => t = s)) ∧
    (∀ p, s.rst.pend = some p →
      (Gives .dbg s fun t => ∃ q, t.rst.pend = some q ∧ q.cls = p.cls.join .full ∧ q.causes = p.causes ||| causeDbg ∧
        q.at_ = none) ∧
      (Gives .swr s fun t => ∃ q, t.rst.pend = some q ∧ q.cls = p.cls ∧ q.causes = p.causes ||| causeSwr) ∧
      (∀ a, p.at_ = some a → s.clk.treadCount < a → Gives .resetTakesEffect s fun t => t = s) ∧
      (p.at_ = none → p.cls = .warm ∨ p.cls = .clock → Gives .resetTakesEffect s fun t => t = s) ∧
      (s.pulsing = true → Gives .resetTakesEffect s fun t => t = s) ∧
      (s.pulsing = false → (∀ a, p.at_ = some a → a ≤ s.clk.treadCount) →
        (p.cls = .warm ∨ p.cls = .clock → p.at_ ≠ none) → p.causes.getLsbD 0 = false → Gives .resetTakesEffect s fun t =>
        t.rst.pend = none ∧ t.rst.isReady = false ∧ t.rst.scRunning = [] ∧ t.tasks = [] ∧ t.cores = [] ∧ (∀ l, (t.link l).up = false) ∧
        (∀ f q, f < 4 → q < 16 → (t.queue f q).enable = false ∧ (t.queue f q).cause = 3) ∧
        t.mesh = [] ∧ t.accepted = [] ∧ t.otp = s.otp ∧ t.far.objs = s.far.objs ∧
        (s.rst.busy = false → t.rst.causes = p.causes) ∧ (s.rst.busy = true → t.rst.causes = s.rst.causes ||| p.causes) ∧
        (s.rst.count.toNat < 7 → t.rst.count = s.rst.count + 1) ∧
        (7 ≤ s.rst.count.toNat → s.rst.windowTreads ≤ 10000000 → t.rst.count = 0 ∧ t.rst.recovery = true) ∧
        (p.cls = .warm ∨ p.cls = .clock → t.rst.wdtTimes = s.rst.wdtTimes) ∧
        (p.cls = .warm → (∀ h, t.hall h = s.hall h) ∧ t.clk.treadCount = s.clk.treadCount ∧ t.sec.keys = s.sec.keys ∧
          ∀ g, (t.granule g).keyGen = (s.granule g).keyGen) ∧
        (p.cls = .full → t.sec.keys = [] ∧ ∀ g, (t.granule g).mem = []))) ∧
    (10000000 ≤ s.rst.sinceTreads → Gives .rstCountExpiry s fun t =>
      t = { s with rst := { s.rst with count := 0, windowTreads := 0 } }) ∧
    (s.rst.sinceTreads < 10000000 → Gives .rstCountExpiry s fun t => t = s)

/-- Resets of the module and of a block (R413, R414, R416, R419, R421 to R426). -/
def Obligations.ResetsReachTheirClassOrBlock : Prop :=
  Sys2Proof.Claims.BlockResetsReachTheirBlock ∧
  Sys2Proof.Claims.ResetsReachTheirClass

/-! ### Bring-up (19) -/

/-- Bring-up from the rails to the service cores (R395, R396, R424, R427 to R430, R468): each step records its time and hands on to the next; the
valid option copy of the greater sequence is taken, the active image is run when it verifies and is not older than the
rollback counter, else recovery mode follows; service cores wait for the lock. -/
def Sys2Proof.Claims.BringUpReachesTheServiceCores : Prop :=
  ∀ (s : State) (us : Nat), s.rst.off = false → s.rst.isReady = false →
    (s.rst.step = 0 → 25000 < us → Gives (.rails us) s fun t => t = { s with rst := { s.rst with off := true } }) ∧
    (s.rst.step = 0 → us ≤ 25000 → Gives (.rails us) s fun t => t.rst.step = 1 ∧ t.pwr = { s.pwr with pwrOk := true } ∧
      tget 0 t.rst.stepUs 0 = BitVec.ofNat 32 us ∧ t = { s with rst := t.rst, pwr := t.pwr }) ∧
    (∀ cx cy x y, s.rst.step = 1 → x = s.settings.optA.getD cx → y = s.settings.optB.getD cy →
      (Gives (.optionReader cx cy us) s fun t => t.settings.optA = some x ∧ t.settings.optB = some y) ∧
      (optValid x = true → optValid y = true → natAt y 8 4 ≤ natAt x 8 4 → Gives (.optionReader cx cy us) s fun t =>
        t.opt = optOf x (natAt x 8 4) (natAt y 8 4) ∧ t.rst.optCopy = false ∧ t.rst.optDefault = false ∧
        t.rst.step = (if s.rst.straps.bootSrc = 1 then 14 else 2) ∧ t.fw.nextB = t.opt.fwSelB) ∧
      (optValid y = true → (optValid x = false ∨ natAt x 8 4 < natAt y 8 4) → Gives (.optionReader cx cy us) s fun t =>
        t.opt = optOf y (natAt x 8 4) (natAt y 8 4) ∧ t.rst.optCopy = true ∧ t.rst.optDefault = false) ∧
      (optValid x = false → optValid y = false → Gives (.optionReader cx cy us) s fun t => t.opt = Opt.reset ∧
        t.rst.optDefault = true ∧ tget 0 t.rst.stepUs 1 = BitVec.ofNat 32 us)) ∧
    (∀ (e : EnclaveImage) a o (img run : FwImage) b, s.rst.step = 2 →
      b = (if a = true ∧ s.sec.rollback.toNat ≤ (s.slotImage img s.fw.nextB).secver.toNat then s.fw.nextB else !s.fw.nextB) →
      run = (if b = s.fw.activeB then img else s.fw.staged.getD img) →
      (s.fullBoot = false ∨ (e.ok = true ∧ s.sec.rollback.toNat ≤ e.secver.toNat) → (a = true ∧ b = s.fw.nextB) ∨ o = true → s.sec.rollback.toNat ≤ run.secver.toNat →
        Gives (.enclaveBoot e a o img us) s fun t => t.rst.step = 3 ∧ t.fw.activeB = b ∧ t.fw.version = run.version ∧
          t.fw.secver = run.secver ∧ t.rst.recovery = s.rst.recovery ∧
          (s.fullBoot = true → t.sec.encSecver = e.secver ∧
            (∃ u : State, t.sec.measured = u.measurements ∧ u.fw = t.fw ∧ u.settings = t.settings ∧ u.sec.encSecver = e.secver ∧
              u.sec.lcCells = t.sec.lcCells) ∧
            (s.sec.lock = false → t.sec.tenantFilter = true ∧ t.sec.bannerWr = true) ∧
            (s.sec.lock = true → protCtl t.sec = protCtl s.sec))) ∧
      (s.fullBoot = true → e.ok = false ∨ e.secver.toNat < s.sec.rollback.toNat → Gives (.enclaveBoot e a o img us) s fun t => t.rst.step = 3 ∧
        t.rst.recovery = true ∧ t.fw = s.fw) ∧
      (a = false ∨ b ≠ s.fw.nextB → o = false ∨ run.secver.toNat < s.sec.rollback.toNat → Gives (.enclaveBoot e a o img us) s fun t =>
        t.rst.step = 3 ∧ t.rst.recovery = true ∧ t.fw = s.fw)) ∧
    (∀ (x : PushedEnclave) i (img : FwImage), s.rst.step = 14 →
      (Gives (.hostPush x i img) s fun t => t.rst.step = 3 ∧ t.rst.window = [] ∧ tget 0 t.rst.stepUs 2 = BitVec.ofNat 32 x.us) ∧
      (x.ok = true → s.sec.rollback.toNat ≤ x.secver.toNat → i = true → s.sec.rollback.toNat ≤ img.secver.toNat →
        Gives (.hostPush x i img) s fun t =>
        t.fw.version = img.version ∧ t.fw.secver = img.secver ∧ t.rst.recovery = s.rst.recovery) ∧
      (x.ok = false ∨ x.secver.toNat < s.sec.rollback.toNat ∨ i = false ∨ img.secver.toNat < s.sec.rollback.toNat →
        Gives (.hostPush x i img) s fun t => t.rst.recovery = true ∧ t.fw = s.fw)) ∧
    (s.rst.step = 3 →
      (∀ ok bad, s.sec.lock = false → Gives (.serviceCores ⟨us, ok, bad⟩) s fun t => t = s) ∧
      (∀ ok bad, s.sec.lock = true → s.rst.recovery = true → Gives (.serviceCores ⟨us, ok, bad⟩) s fun t =>
        t.rst.scRunning = [0, 5] ∧ t.rst.step = 15 ∧ t.parts = s.parts ∧ t.rst.isReady = false) ∧
      (∀ ok bad, s.sec.lock = true → s.rst.recovery = false → Gives (.serviceCores ⟨us, ok, bad⟩) s fun t =>
        t.rst.scRunning = [0, 1, 2, 3, 4, 5] ∧ t.sec.lock = true ∧
        ((∀ p ∈ s.settings.parts.getD s.parts, p.2.valid = true → p.2.teardown = false) →
          t.rst.step = (if s.rst.cls = .warm then 5 else 4)) ∧
        (s.rst.cls = .cold → t.pwr.capModule = s.settings.capModule ∧ t.pwr.tripCause = s.settings.tripCause ∧
          t.pwr.tripSensor = s.settings.tripSensor) ∧
        t.settings.parts = none ∧ t.manifest = (if ok = true then s.settings.manifest else none) ∧
        (ok = false ∨ s.settings.manifest = none → t.fabAddr = none) ∧
        (∀ m i, ok = true → s.settings.manifest = some m → s.ownPosition m = some i → t.fabAddr = some (m.addrAt i)) ∧
        (∀ ps, s.settings.parts = some ps → (∀ p ∈ ps, p.2.valid = true → p.2.teardown = false) → t.parts = ps) ∧
        (∀ (i : SlotId) g, s.gal.slots = [(i.val, g)] → (∀ p ∈ s.settings.parts.getD s.parts, p.2.valid = true → p.2.teardown = false) →
          (g.st = .open_ ∨ g.st = .verifying ∨ (g.st = .valid ∧ (g.headerDamaged = true ∨ ∃ k, (i, k) ∈ bad)) →
            (t.slot i.val).st = .invalid) ∧
          (g.st = .valid → g.headerDamaged = false → (∀ k, (i, k) ∉ bad) → t.slot i.val = { g with badCopies := [] }))))

/-- Bring-up from calibration to READY (R43, R44, R279, R283, R337 to R339, R366, R396, R431, R432): fixed latencies are the worst found plus 2 and fail above
their caps; untrained stacks stay offline; partial parks go; links without use are held in OFF; READY raises the rollback
counter; a PCIe port comes up as the option block splits it. -/
def Sys2Proof.Claims.BringUpReachesCalibration : Prop :=
  ∀ (s : State) (us : Nat), s.rst.off = false →
    (s.rst.isReady = false →
      (∀ w : List (BitVec 8), s.rst.step = 4 → w.length = 6 → (∀ i < 6, (w.getD i 0).toNat < 254) →
        Gives (.crossingCalibration w us) s fun t => t.rst.step = 5 ∧ t.clk.calDone = true ∧
          (∀ i < 6, (tget 0 t.clk.crossFixed i).toNat = (w.getD i 0).toNat + 2) ∧
          (t.clk.calFail = true ↔ ∃ i, i < 6 ∧ crossCap i < (w.getD i 0).toNat + 2)) ∧
      (∀ v : BitVec 8, s.rst.step = 5 → Gives (.nearTierBringup v us) s fun t => t.rst.step = 6 ∧
        (∀ n < 8, (t.stack n).trained = v.getLsbD n ∧ (t.stack n).selfRefresh = false ∧ (t.stack n).wheel = (s.stack n).wheel)
        ∧ t.granules = s.granules) ∧
      (∀ h r, s.rst.step = 6 → Gives (.farTierBringup h r us) s fun t => t.rst.step = 7 ∧ t.far.ready = (r && decide (us ≤ 800000)) ∧
        t.far.holdupMs = h ∧ t.far.supplyMs = h.toNat ∧ t.far.surveyed = true ∧ (t.far.holdupLow = true ↔ h.toNat < 40) ∧ t.far.commit = false ∧
        (s.rst.cls ≠ .cold → t.streams = s.streams ∧ t.far.journal = s.far.journal) ∧ (s.rst.cls = .cold → t.far.journal = 0) ∧
        (s.rst.cls ≠ .cold ∨ s.far.commit = true ∨ s.far.journal = 0 →
          t.far.objs = s.far.objs.filter fun o => o.complete || !o.stream) ∧
        (s.rst.cls = .cold → s.far.commit = false → s.far.journal ≠ 0 →
          ∀ o ∈ t.far.objs, o ∈ s.far.objs ∧ ∀ x ∈ o.recs, x.seq ∉ s.far.jrn)) ∧
      (s.rst.step = 7 → Gives (.linksBringup us) s fun t => t = { s with rst := t.rst, links := t.links } ∧
        tget 0 t.rst.stepUs 7 = BitVec.ofNat 32 us ∧ t.rst.step = 7 ∧
        ∀ l, l < 64 →
          (s.opt.linksDefer = true ∨ s.noPartner l = true → t.link l = { s.link l with st := .off, enable := false }) ∧
          (s.opt.linksDefer = false → s.noPartner l = false →
            t.link l = { s.link l with stateAt := s.clk.treadCount, trainFrom := s.clk.treadCount })) ∧
      (s.rst.step = 7 → s.rst.stepUs.any (fun p => p.1 == 7) = true → Gives .ready s fun t =>
        t = { s with rst := { s.rst with isReady := true, step := 15 }, sec := { s.sec with rollback := t.sec.rollback },
                     diag := t.diag, fns := t.fns } ∧
        t.sec.rollback.toNat = max s.sec.rollback.toNat (max s.fw.secver.toNat s.sec.encSecver.toNat)) ∧
      (s.rst.stepUs.any (fun p => p.1 == 7) = false → Gives .ready s fun t => t = s)) ∧
    (∀ (r : BitVec 3) w, s.rst.step = 14 → Gives (.pcieLinkUp 0 r w) s fun t => t = { s with fns := t.fns } ∧
      (t.fn 0).present = true ∧ (t.fn 0).width = (if w = true then 16 else 8) ∧ t.fn 1 = s.fn 1) ∧
    (∀ (p : Fin 2) (r : BitVec 3) w o, o = (if p = 0 then s.opt.pcie0 else s.opt.pcie1) → s.rst.step ≠ 14 ∨ p = 1 →
      Gives (.pcieLinkUp p r w) s fun t => t = { s with fns := t.fns } ∧ (t.fn (2 * p.val)).present = true ∧
        (t.fn (2 * p.val)).rate.toNat = min r.toNat (fieldOf o.toNat 3 1) ∧
        (t.fn (2 * p.val)).width = (if o.getLsbD 0 = true ∨ w = false then 8 else 16) ∧
        (o.getLsbD 0 = true → (t.fn (2 * p.val + 1)).present = true) ∧
        (o.getLsbD 0 = false → t.fn (2 * p.val + 1) = s.fn (2 * p.val + 1)))

/-- Bring-up from the rails to READY (R43, R44, R279, R283, R337 to R339, R366, R395, R396, R424, R427 to R432, R468). -/
def Obligations.BringUpReachesReady : Prop :=
  Sys2Proof.Claims.BringUpReachesTheServiceCores ∧
  Sys2Proof.Claims.BringUpReachesCalibration

/-! ### The whole machine -/

/-- Reset as the manual gives it (R51, R174, R395, R418, R423, Table 19.9): nothing is pending or loaded, the count is 0, the date is 1 January 2000 and
not valid, isolation is in force, a POR is recorded, links and cores are at their first states, the far tier is not ready. -/
def Sys2Proof.Claims.ResetStateOfTheManual : Prop :=
  State.reset.pending = [] ∧ State.reset.tasks = [] ∧ State.reset.parts = [] ∧ State.reset.accepted = [] ∧
  State.reset.clk.treadCount = 0 ∧ State.reset.clk.refState = .acquire ∧ State.reset.clk.calValid = false ∧
  State.reset.calendar = [2000, 1, 1, 0, 0, 0] ∧ State.reset.rst.causes = causePor ∧ State.reset.rst.count = 0 ∧
  State.reset.rst.isReady = false ∧ State.reset.rst.step = 0 ∧ State.reset.rst.scRunning = [] ∧
  State.reset.sec.tenantFilter = true ∧ State.reset.sec.bannerWr = true ∧ State.reset.sec.jtagLimit = true ∧
  State.reset.sec.lock = false ∧ State.reset.sec.keys = [] ∧ State.reset.far.ready = false ∧
  (∀ c, (State.reset.core c).st = .off ∧ (State.reset.core c).mem = [] ∧ (State.reset.core c).flags = []) ∧
  (∀ c i, ccVal (State.reset.core c) i = 0) ∧ (∀ l, (State.reset.link l).up = false) ∧
  (∀ i, (State.reset.slot i).st = .empty) ∧ (∀ i, (State.reset.stream i).st = .free) ∧
  (∀ f q, (State.reset.queue f q).enable = false)

/-- A confirmed transition of the life cycle has its intent bit and its state bit (R409). -/
def Sys2Proof.Safety.LifeOk (s : State) : Prop :=
  ∀ i, s.sec.confirm.getLsbD i = true → s.sec.intent.getLsbD i = true ∧ s.sec.lcBits.getLsbD i = true

/-- The state after reset keeps the life-cycle order, and its queue is empty (the life-cycle state there is the model's
choice, log 6). -/
def Sys2Proof.Claims.ResetKeepsTheLifeCycleOrder : Prop := LifeOk State.reset

/-- The state after reset. -/
def Obligations.ResetStateIsTheManuals : Prop :=
  Sys2Proof.Claims.ResetStateOfTheManual ∧
  Sys2Proof.Claims.ResetKeepsTheLifeCycleOrder

/-- Every command, in every state: the queue loses its front and nothing else, fuses stay (grade, revision, serial number), life-cycle
bits that are set stay set, the rollback counter never falls, and a confirmed transition keeps its intent and state bits
(R396, R407, R409). -/
def Obligations.EveryStepKeepsFusesAndLifeCycle : Prop :=
  ∀ (s t : State) (i : Instr) (rest : List Instr), s.pending = i :: rest → step s = .next t →
    t.pending = rest ∧ t.otp = s.otp ∧ s.sec.rollback.toNat ≤ t.sec.rollback.toNat ∧
    (∀ n, s.sec.lcBits.getLsbD n = true → t.sec.lcBits.getLsbD n = true) ∧
    (∀ n, s.sec.intent.getLsbD n = true → t.sec.intent.getLsbD n = true) ∧ (LifeOk s → LifeOk t)

/-- Every step goes on: no command ends in a fault or a refusal. -/
def Sys2Proof.Claims.EveryStepGoesOn : Prop := ∀ s : State, SafeStep s

/-- The queue: a step runs the command at its front, and every step goes on. -/
def Obligations.StepRunsTheFrontCommand : Prop :=
  Sys2Proof.Claims.StepRunsTheFrontCommand ∧
  Sys2Proof.Claims.EveryStepGoesOn

/-- The instruction word (R167, Table 8.1): its fields and opcode are read back from it, every word is the word of its fields, and words
differ when an opcode or a field does. -/
def Obligations.WordsAndFieldsAgree : Prop :=
  (∀ (op : Nat) (w : IWord), op < 256 → opcodeOf (encodeWord op w) = op ∧ fieldsOf (encodeWord op w) = w) ∧
  (∀ x : BitVec 128, encodeWord (opcodeOf x) (fieldsOf x) = x)

/-- Leap years (R53). -/
def Obligations.LeapYearsOfTheCalendar : Prop :=
  (∀ y : Nat, leapYear y = true ↔ (4 ∣ y ∧ (100 ∣ y → 400 ∣ y))) ∧ leapYear 2000 = true ∧ leapYear 2100 = false ∧
  leapYear 2200 = false ∧ leapYear 2300 = false
end

