-- ==== Sys2Proof/Laws/Tables.lean ====
section
/-! SUPPORT. Laws of the tables and of memory: a read after a write, other places, and the canonical form. -/

namespace Sys2Proof.Machine

@[simp] theorem tget_nil {α : Type} (d : α) (k : Nat) : tget d [] k = d := rfl

@[simp] theorem tget_tset_same {α : Type} (d : α) (t : Tbl α) (k : Nat) (v : α) : tget d (tset t k v) k = v := by
  induction t with
  | nil => simp [tset, tget]
  | cons p t ih =>
    obtain ⟨j, w⟩ := p
    simp only [tset]
    split
    · simp [tget]
    · split
      · simp [tget]
      · rw [tget, if_neg (by omega), ih]

theorem tget_tset_ne {α : Type} (d : α) (t : Tbl α) {k j : Nat} (v : α) (h : j ≠ k) :
    tget d (tset t k v) j = tget d t j := by
  induction t with
  | nil => simp [tset, tget, Ne.symm h]
  | cons p t ih =>
    obtain ⟨i, w⟩ := p
    simp only [tset]
    split
    · simp [tget, Ne.symm h]
    · split
      · subst_vars; simp [tget, Ne.symm h]
      · simp only [tget, ih]

theorem tget_tset {α : Type} (d : α) (t : Tbl α) (k j : Nat) (v : α) :
    tget d (tset t k v) j = if j = k then v else tget d t j := by
  by_cases h : j = k
  · subst h; simp
  · simp [h, tget_tset_ne]

/-! ### Canonical memory -/

theorem Mem.wf_cons (a : Nat) (b : Byte) (m : Mem) :
    Mem.wf ((a, b) :: m) = true ↔ b ≠ 0 ∧ (∀ p ∈ m, a < p.1) ∧ Mem.wf m = true := by
  simp [Mem.wf, and_assoc]

theorem tdel_subset (m : Mem) (k : Nat) : ∀ p ∈ tdel m k, p ∈ m := by
  induction m with
  | nil => simp [tdel]
  | cons q m ih =>
    obtain ⟨j, w⟩ := q
    intro p hp
    simp only [tdel] at hp
    split at hp
    · exact List.mem_cons_of_mem _ hp
    · rcases List.mem_cons.mp hp with h | h
      · simp [h]
      · exact List.mem_cons_of_mem _ (ih p h)

theorem tset_mem (m : Mem) (k : Nat) (b : Byte) : ∀ p ∈ tset m k b, p = (k, b) ∨ p ∈ m := by
  induction m with
  | nil => simp [tset]
  | cons q m ih =>
    obtain ⟨j, w⟩ := q
    intro p hp
    simp only [tset] at hp
    split at hp
    · rcases List.mem_cons.mp hp with h | h
      · exact .inl h
      · exact .inr h
    · split at hp
      · rcases List.mem_cons.mp hp with h | h
        · exact .inl h
        · exact .inr (List.mem_cons_of_mem _ h)
      · rcases List.mem_cons.mp hp with h | h
        · exact .inr (by simp [h])
        · rcases ih p h with h' | h'
          · exact .inl h'
          · exact .inr (List.mem_cons_of_mem _ h')

theorem Mem.wf_tdel (m : Mem) (k : Nat) (h : Mem.wf m = true) : Mem.wf (tdel m k) = true := by
  induction m with
  | nil => rfl
  | cons q m ih =>
    obtain ⟨j, w⟩ := q
    rw [Mem.wf_cons] at h
    simp only [tdel]
    split
    · exact h.2.2
    · rw [Mem.wf_cons]
      exact ⟨h.1, fun p hp => h.2.1 p (tdel_subset m k p hp), ih h.2.2⟩

theorem Mem.wf_tset (m : Mem) (k : Nat) (b : Byte) (hb : b ≠ 0) (h : Mem.wf m = true) :
    Mem.wf (tset m k b) = true := by
  induction m with
  | nil => rw [tset, Mem.wf_cons]; exact ⟨hb, by simp, rfl⟩
  | cons q m ih =>
    obtain ⟨j, w⟩ := q
    have hh := h
    rw [Mem.wf_cons] at h
    simp only [tset]
    split
    · rename_i hlt
      rw [Mem.wf_cons]
      refine ⟨hb, ?_, hh⟩
      intro p hp
      rcases List.mem_cons.mp hp with e | e
      · simp [e, hlt]
      · exact Nat.lt_trans hlt (h.2.1 p e)
    · split
      · subst_vars
        rw [Mem.wf_cons]
        exact ⟨hb, h.2.1, h.2.2⟩
      · rw [Mem.wf_cons]
        refine ⟨h.1, ?_, ih h.2.2⟩
        intro p hp
        rcases tset_mem m k b p hp with e | e
        · simp only [e]; omega
        · exact h.2.1 p e

/-- A byte write keeps the canonical form. -/
theorem Mem.wf_memPut (m : Mem) (a : Nat) (b : Byte) (h : Mem.wf m = true) : Mem.wf (memPut m a b) = true := by
  unfold memPut
  split
  · exact Mem.wf_tdel m a h
  · exact Mem.wf_tset m a b ‹_› h

/-- A write of a byte string keeps the canonical form. -/
theorem Mem.wf_memWrite (m : Mem) (a : Nat) (l : List Byte) (h : Mem.wf m = true) :
    Mem.wf (memWrite m a l) = true := by
  induction l generalizing m a with
  | nil => exact h
  | cons b l ih => exact ih _ _ (Mem.wf_memPut m a b h)

theorem Mem.wf_filter (m : Mem) (p : Host.Cell → Bool) (h : Mem.wf m = true) : Mem.wf (m.filter p) = true := by
  induction m with
  | nil => rfl
  | cons q m ih =>
    obtain ⟨j, w⟩ := q
    rw [Mem.wf_cons] at h
    simp only [List.filter_cons]
    split
    · rw [Mem.wf_cons]
      exact ⟨h.1, fun x hx => h.2.1 x (List.mem_filter.mp hx).1, ih h.2.2⟩
    · exact ih h.2.2

/-- Zeroing a range keeps the canonical form. -/
theorem Mem.wf_memErase (m : Mem) (a n : Nat) (h : Mem.wf m = true) : Mem.wf (memErase m a n) = true :=
  Mem.wf_filter m _ h

theorem tget_tdel_ne (m : Mem) {k j : Nat} (h : j ≠ k) : tget 0 (tdel m k) j = tget 0 m j := by
  induction m with
  | nil => rfl
  | cons q m ih =>
    obtain ⟨i, w⟩ := q
    simp only [tdel]
    split
    · subst_vars; simp [tget, Ne.symm h]
    · simp only [tget, ih]

theorem tget_absent (m : Mem) (j : Nat) (h : ∀ p ∈ m, j ≠ p.1) : tget 0 m j = 0 := by
  induction m with
  | nil => rfl
  | cons q m ih =>
    obtain ⟨i, w⟩ := q
    have h1 : j ≠ i := h (i, w) (by simp)
    simp only [tget, Ne.symm h1, if_false]
    exact ih fun p hp => h p (List.mem_cons_of_mem _ hp)

theorem tget_tdel_same (m : Mem) (k : Nat) (h : Mem.wf m = true) : tget 0 (tdel m k) k = 0 := by
  induction m with
  | nil => rfl
  | cons q m ih =>
    obtain ⟨i, w⟩ := q
    rw [Mem.wf_cons] at h
    simp only [tdel]
    split
    · subst_vars
      exact tget_absent m _ fun p hp => Nat.ne_of_lt (h.2.1 p hp)
    · rename_i hne
      rw [tget, if_neg (Ne.symm hne), ih h.2.2]

/-- A read after a write of one byte. -/
theorem memGet_memPut (m : Mem) (a x : Nat) (b : Byte) (h : Mem.wf m = true) :
    memGet (memPut m a b) x = if x = a then b else memGet m x := by
  unfold memGet memPut
  split
  · rename_i hb
    by_cases hx : x = a
    · subst hx; rw [tget_tdel_same m x h, hb]; simp
    · rw [tget_tdel_ne m hx, if_neg hx]
  · exact tget_tset 0 m a x b

/-- A write leaves every byte outside the written range as it was. -/
theorem memGet_memWrite_out (m : Mem) (a x : Nat) (l : List Byte) (h : Mem.wf m = true)
    (hx : x < a ∨ a + l.length ≤ x) : memGet (memWrite m a l) x = memGet m x := by
  induction l generalizing m a with
  | nil => rfl
  | cons b l ih =>
    simp only [List.length_cons] at hx
    rw [memWrite, ih _ _ (Mem.wf_memPut m a b h) (by omega), memGet_memPut m a x b h, if_neg (by omega)]

/-- A read of a written byte gives what was written. -/
theorem memGet_memWrite_in (m : Mem) (a i : Nat) (l : List Byte) (h : Mem.wf m = true) (hi : i < l.length) :
    memGet (memWrite m a l) (a + i) = l[i] := by
  induction l generalizing m a i with
  | nil => simp at hi
  | cons b l ih =>
    cases i with
    | zero =>
      rw [memWrite, memGet_memWrite_out _ _ _ _ (Mem.wf_memPut m a b h) (by omega), memGet_memPut m a _ b h]
      simp
    | succ i =>
      have := ih (memPut m a b) (a + 1) i (Mem.wf_memPut m a b h) (by simpa using hi)
      rw [memWrite, show a + (i + 1) = a + 1 + i by omega, this]
      simp

/-- Reading back a written byte string gives it. -/
theorem memRead_memWrite (m : Mem) (a : Nat) (l : List Byte) (h : Mem.wf m = true) :
    memRead (memWrite m a l) a l.length = l := by
  induction l generalizing m a with
  | nil => rfl
  | cons b l ih =>
    have h0 := memGet_memWrite_in m a 0 (b :: l) h (by simp)
    simp only [List.length_cons, memRead]
    rw [show memGet (memWrite m a (b :: l)) a = b by simpa using h0]
    rw [memWrite, ih _ _ (Mem.wf_memPut m a b h)]

theorem crc64Shift_zero (d : BitVec 64) : crc64Shift d 0 = d := rfl

end Sys2Proof.Machine
end

