-- ==== Sys2Proof/Laws/State.lean ====
section
/-! SUPPORT. Laws of the named updates of the state: one theorem per update, giving every field it leaves, and the
read back of what it writes. -/

namespace Sys2Proof.Machine

@[simp] theorem State.setCore_frame (s : State) (c : Nat) (k : Core) :
    (s.setCore c k).pending = s.pending ∧ (s.setCore c k).fresh = s.fresh ∧ (s.setCore c k).otp = s.otp ∧
    (s.setCore c k).fw = s.fw ∧ (s.setCore c k).clk = s.clk ∧ (s.setCore c k).halls = s.halls ∧
    (s.setCore c k).mesh = s.mesh ∧ (s.setCore c k).links = s.links ∧ (s.setCore c k).windows = s.windows ∧
    (s.setCore c k).mgmtOut = s.mgmtOut ∧ (s.setCore c k).fabAddr = s.fabAddr ∧
    (s.setCore c k).manifest = s.manifest ∧ (s.setCore c k).mgmtUnknown = s.mgmtUnknown ∧
    (s.setCore c k).meshBad = s.meshBad ∧ (s.setCore c k).gal = s.gal ∧ (s.setCore c k).stackTbl = s.stackTbl ∧
    (s.setCore c k).granules = s.granules ∧ (s.setCore c k).far = s.far ∧ (s.setCore c k).streams = s.streams ∧
    (s.setCore c k).freeClock = s.freeClock ∧ (s.setCore c k).heldCmds = s.heldCmds ∧
    (s.setCore c k).stores = s.stores ∧ (s.setCore c k).parkHigh = s.parkHigh ∧ (s.setCore c k).parkLow = s.parkLow ∧
    (s.setCore c k).strmLead = s.strmLead ∧ (s.setCore c k).strmLeadAddr = s.strmLeadAddr ∧
    (s.setCore c k).tasks = s.tasks ∧ (s.setCore c k).nextLoad = s.nextLoad ∧ (s.setCore c k).nextTask = s.nextTask ∧
    (s.setCore c k).fns = s.fns ∧ (s.setCore c k).accepted = s.accepted ∧ (s.setCore c k).turn = s.turn ∧
    (s.setCore c k).parts = s.parts ∧ (s.setCore c k).sec = s.sec ∧ (s.setCore c k).rst = s.rst ∧
    (s.setCore c k).opt = s.opt ∧ (s.setCore c k).settings = s.settings ∧ (s.setCore c k).fwWords = s.fwWords ∧
    (s.setCore c k).diag = s.diag ∧ (s.setCore c k).pwr = s.pwr ∧ (s.setCore c k).pensIn = s.pensIn ∧
    (s.setCore c k).pensTread = s.pensTread ∧ (s.setCore c k).shutdown = s.shutdown :=
  ⟨rfl, rfl, rfl, rfl, rfl, rfl, rfl, rfl, rfl, rfl, rfl, rfl, rfl, rfl, rfl, rfl, rfl, rfl, rfl, rfl, rfl, rfl, rfl, rfl, rfl, rfl, rfl, rfl, rfl, rfl, rfl, rfl, rfl, rfl, rfl, rfl, rfl, rfl, rfl, rfl, rfl, rfl, rfl⟩

@[simp] theorem State.updCore_frame (s : State) (c : Nat) (f : Core → Core) :
    (s.updCore c f).pending = s.pending ∧ (s.updCore c f).fresh = s.fresh ∧ (s.updCore c f).otp = s.otp ∧
    (s.updCore c f).fw = s.fw ∧ (s.updCore c f).clk = s.clk ∧ (s.updCore c f).halls = s.halls ∧
    (s.updCore c f).mesh = s.mesh ∧ (s.updCore c f).links = s.links ∧ (s.updCore c f).windows = s.windows ∧
    (s.updCore c f).mgmtOut = s.mgmtOut ∧ (s.updCore c f).fabAddr = s.fabAddr ∧
    (s.updCore c f).manifest = s.manifest ∧ (s.updCore c f).mgmtUnknown = s.mgmtUnknown ∧
    (s.updCore c f).meshBad = s.meshBad ∧ (s.updCore c f).gal = s.gal ∧ (s.updCore c f).stackTbl = s.stackTbl ∧
    (s.updCore c f).granules = s.granules ∧ (s.updCore c f).far = s.far ∧ (s.updCore c f).streams = s.streams ∧
    (s.updCore c f).freeClock = s.freeClock ∧ (s.updCore c f).heldCmds = s.heldCmds ∧
    (s.updCore c f).stores = s.stores ∧ (s.updCore c f).parkHigh = s.parkHigh ∧ (s.updCore c f).parkLow = s.parkLow ∧
    (s.updCore c f).strmLead = s.strmLead ∧ (s.updCore c f).strmLeadAddr = s.strmLeadAddr ∧
    (s.updCore c f).tasks = s.tasks ∧ (s.updCore c f).nextLoad = s.nextLoad ∧ (s.updCore c f).nextTask = s.nextTask ∧
    (s.updCore c f).fns = s.fns ∧ (s.updCore c f).accepted = s.accepted ∧ (s.updCore c f).turn = s.turn ∧
    (s.updCore c f).parts = s.parts ∧ (s.updCore c f).sec = s.sec ∧ (s.updCore c f).rst = s.rst ∧
    (s.updCore c f).opt = s.opt ∧ (s.updCore c f).settings = s.settings ∧ (s.updCore c f).fwWords = s.fwWords ∧
    (s.updCore c f).diag = s.diag ∧ (s.updCore c f).pwr = s.pwr ∧ (s.updCore c f).pensIn = s.pensIn ∧
    (s.updCore c f).pensTread = s.pensTread ∧ (s.updCore c f).shutdown = s.shutdown :=
  ⟨rfl, rfl, rfl, rfl, rfl, rfl, rfl, rfl, rfl, rfl, rfl, rfl, rfl, rfl, rfl, rfl, rfl, rfl, rfl, rfl, rfl, rfl, rfl, rfl, rfl, rfl, rfl, rfl, rfl, rfl, rfl, rfl, rfl, rfl, rfl, rfl, rfl, rfl, rfl, rfl, rfl, rfl, rfl⟩

@[simp] theorem State.setHall_frame (s : State) (h : Nat) (x : Hall) :
    (s.setHall h x).pending = s.pending ∧ (s.setHall h x).fresh = s.fresh ∧ (s.setHall h x).otp = s.otp ∧
    (s.setHall h x).fw = s.fw ∧ (s.setHall h x).clk = s.clk ∧ (s.setHall h x).cores = s.cores ∧
    (s.setHall h x).mesh = s.mesh ∧ (s.setHall h x).links = s.links ∧ (s.setHall h x).windows = s.windows ∧
    (s.setHall h x).mgmtOut = s.mgmtOut ∧ (s.setHall h x).fabAddr = s.fabAddr ∧
    (s.setHall h x).manifest = s.manifest ∧ (s.setHall h x).mgmtUnknown = s.mgmtUnknown ∧
    (s.setHall h x).meshBad = s.meshBad ∧ (s.setHall h x).gal = s.gal ∧ (s.setHall h x).stackTbl = s.stackTbl ∧
    (s.setHall h x).granules = s.granules ∧ (s.setHall h x).far = s.far ∧ (s.setHall h x).streams = s.streams ∧
    (s.setHall h x).freeClock = s.freeClock ∧ (s.setHall h x).heldCmds = s.heldCmds ∧
    (s.setHall h x).stores = s.stores ∧ (s.setHall h x).parkHigh = s.parkHigh ∧ (s.setHall h x).parkLow = s.parkLow ∧
    (s.setHall h x).strmLead = s.strmLead ∧ (s.setHall h x).strmLeadAddr = s.strmLeadAddr ∧
    (s.setHall h x).tasks = s.tasks ∧ (s.setHall h x).nextLoad = s.nextLoad ∧ (s.setHall h x).nextTask = s.nextTask ∧
    (s.setHall h x).fns = s.fns ∧ (s.setHall h x).accepted = s.accepted ∧ (s.setHall h x).turn = s.turn ∧
    (s.setHall h x).parts = s.parts ∧ (s.setHall h x).sec = s.sec ∧ (s.setHall h x).rst = s.rst ∧
    (s.setHall h x).opt = s.opt ∧ (s.setHall h x).settings = s.settings ∧ (s.setHall h x).fwWords = s.fwWords ∧
    (s.setHall h x).diag = s.diag ∧ (s.setHall h x).pwr = s.pwr ∧ (s.setHall h x).pensIn = s.pensIn ∧
    (s.setHall h x).pensTread = s.pensTread ∧ (s.setHall h x).shutdown = s.shutdown :=
  ⟨rfl, rfl, rfl, rfl, rfl, rfl, rfl, rfl, rfl, rfl, rfl, rfl, rfl, rfl, rfl, rfl, rfl, rfl, rfl, rfl, rfl, rfl, rfl, rfl, rfl, rfl, rfl, rfl, rfl, rfl, rfl, rfl, rfl, rfl, rfl, rfl, rfl, rfl, rfl, rfl, rfl, rfl, rfl⟩

@[simp] theorem State.updHall_frame (s : State) (h : Nat) (f : Hall → Hall) :
    (s.updHall h f).pending = s.pending ∧ (s.updHall h f).fresh = s.fresh ∧ (s.updHall h f).otp = s.otp ∧
    (s.updHall h f).fw = s.fw ∧ (s.updHall h f).clk = s.clk ∧ (s.updHall h f).cores = s.cores ∧
    (s.updHall h f).mesh = s.mesh ∧ (s.updHall h f).links = s.links ∧ (s.updHall h f).windows = s.windows ∧
    (s.updHall h f).mgmtOut = s.mgmtOut ∧ (s.updHall h f).fabAddr = s.fabAddr ∧
    (s.updHall h f).manifest = s.manifest ∧ (s.updHall h f).mgmtUnknown = s.mgmtUnknown ∧
    (s.updHall h f).meshBad = s.meshBad ∧ (s.updHall h f).gal = s.gal ∧ (s.updHall h f).stackTbl = s.stackTbl ∧
    (s.updHall h f).granules = s.granules ∧ (s.updHall h f).far = s.far ∧ (s.updHall h f).streams = s.streams ∧
    (s.updHall h f).freeClock = s.freeClock ∧ (s.updHall h f).heldCmds = s.heldCmds ∧
    (s.updHall h f).stores = s.stores ∧ (s.updHall h f).parkHigh = s.parkHigh ∧ (s.updHall h f).parkLow = s.parkLow ∧
    (s.updHall h f).strmLead = s.strmLead ∧ (s.updHall h f).strmLeadAddr = s.strmLeadAddr ∧
    (s.updHall h f).tasks = s.tasks ∧ (s.updHall h f).nextLoad = s.nextLoad ∧ (s.updHall h f).nextTask = s.nextTask ∧
    (s.updHall h f).fns = s.fns ∧ (s.updHall h f).accepted = s.accepted ∧ (s.updHall h f).turn = s.turn ∧
    (s.updHall h f).parts = s.parts ∧ (s.updHall h f).sec = s.sec ∧ (s.updHall h f).rst = s.rst ∧
    (s.updHall h f).opt = s.opt ∧ (s.updHall h f).settings = s.settings ∧ (s.updHall h f).fwWords = s.fwWords ∧
    (s.updHall h f).diag = s.diag ∧ (s.updHall h f).pwr = s.pwr ∧ (s.updHall h f).pensIn = s.pensIn ∧
    (s.updHall h f).pensTread = s.pensTread ∧ (s.updHall h f).shutdown = s.shutdown :=
  ⟨rfl, rfl, rfl, rfl, rfl, rfl, rfl, rfl, rfl, rfl, rfl, rfl, rfl, rfl, rfl, rfl, rfl, rfl, rfl, rfl, rfl, rfl, rfl, rfl, rfl, rfl, rfl, rfl, rfl, rfl, rfl, rfl, rfl, rfl, rfl, rfl, rfl, rfl, rfl, rfl, rfl, rfl, rfl⟩

@[simp] theorem State.setLink_frame (s : State) (l : Nat) (x : Link) :
    (s.setLink l x).pending = s.pending ∧ (s.setLink l x).fresh = s.fresh ∧ (s.setLink l x).otp = s.otp ∧
    (s.setLink l x).fw = s.fw ∧ (s.setLink l x).clk = s.clk ∧ (s.setLink l x).halls = s.halls ∧
    (s.setLink l x).cores = s.cores ∧ (s.setLink l x).mesh = s.mesh ∧ (s.setLink l x).windows = s.windows ∧
    (s.setLink l x).mgmtOut = s.mgmtOut ∧ (s.setLink l x).fabAddr = s.fabAddr ∧
    (s.setLink l x).manifest = s.manifest ∧ (s.setLink l x).mgmtUnknown = s.mgmtUnknown ∧
    (s.setLink l x).meshBad = s.meshBad ∧ (s.setLink l x).gal = s.gal ∧ (s.setLink l x).stackTbl = s.stackTbl ∧
    (s.setLink l x).granules = s.granules ∧ (s.setLink l x).far = s.far ∧ (s.setLink l x).streams = s.streams ∧
    (s.setLink l x).freeClock = s.freeClock ∧ (s.setLink l x).heldCmds = s.heldCmds ∧
    (s.setLink l x).stores = s.stores ∧ (s.setLink l x).parkHigh = s.parkHigh ∧ (s.setLink l x).parkLow = s.parkLow ∧
    (s.setLink l x).strmLead = s.strmLead ∧ (s.setLink l x).strmLeadAddr = s.strmLeadAddr ∧
    (s.setLink l x).tasks = s.tasks ∧ (s.setLink l x).nextLoad = s.nextLoad ∧ (s.setLink l x).nextTask = s.nextTask ∧
    (s.setLink l x).fns = s.fns ∧ (s.setLink l x).accepted = s.accepted ∧ (s.setLink l x).turn = s.turn ∧
    (s.setLink l x).parts = s.parts ∧ (s.setLink l x).sec = s.sec ∧ (s.setLink l x).rst = s.rst ∧
    (s.setLink l x).opt = s.opt ∧ (s.setLink l x).settings = s.settings ∧ (s.setLink l x).fwWords = s.fwWords ∧
    (s.setLink l x).diag = s.diag ∧ (s.setLink l x).pwr = s.pwr ∧ (s.setLink l x).pensIn = s.pensIn ∧
    (s.setLink l x).pensTread = s.pensTread ∧ (s.setLink l x).shutdown = s.shutdown :=
  ⟨rfl, rfl, rfl, rfl, rfl, rfl, rfl, rfl, rfl, rfl, rfl, rfl, rfl, rfl, rfl, rfl, rfl, rfl, rfl, rfl, rfl, rfl, rfl, rfl, rfl, rfl, rfl, rfl, rfl, rfl, rfl, rfl, rfl, rfl, rfl, rfl, rfl, rfl, rfl, rfl, rfl, rfl, rfl⟩

@[simp] theorem State.updLink_frame (s : State) (l : Nat) (f : Link → Link) :
    (s.updLink l f).pending = s.pending ∧ (s.updLink l f).fresh = s.fresh ∧ (s.updLink l f).otp = s.otp ∧
    (s.updLink l f).fw = s.fw ∧ (s.updLink l f).clk = s.clk ∧ (s.updLink l f).halls = s.halls ∧
    (s.updLink l f).cores = s.cores ∧ (s.updLink l f).mesh = s.mesh ∧ (s.updLink l f).windows = s.windows ∧
    (s.updLink l f).mgmtOut = s.mgmtOut ∧ (s.updLink l f).fabAddr = s.fabAddr ∧
    (s.updLink l f).manifest = s.manifest ∧ (s.updLink l f).mgmtUnknown = s.mgmtUnknown ∧
    (s.updLink l f).meshBad = s.meshBad ∧ (s.updLink l f).gal = s.gal ∧ (s.updLink l f).stackTbl = s.stackTbl ∧
    (s.updLink l f).granules = s.granules ∧ (s.updLink l f).far = s.far ∧ (s.updLink l f).streams = s.streams ∧
    (s.updLink l f).freeClock = s.freeClock ∧ (s.updLink l f).heldCmds = s.heldCmds ∧
    (s.updLink l f).stores = s.stores ∧ (s.updLink l f).parkHigh = s.parkHigh ∧ (s.updLink l f).parkLow = s.parkLow ∧
    (s.updLink l f).strmLead = s.strmLead ∧ (s.updLink l f).strmLeadAddr = s.strmLeadAddr ∧
    (s.updLink l f).tasks = s.tasks ∧ (s.updLink l f).nextLoad = s.nextLoad ∧ (s.updLink l f).nextTask = s.nextTask ∧
    (s.updLink l f).fns = s.fns ∧ (s.updLink l f).accepted = s.accepted ∧ (s.updLink l f).turn = s.turn ∧
    (s.updLink l f).parts = s.parts ∧ (s.updLink l f).sec = s.sec ∧ (s.updLink l f).rst = s.rst ∧
    (s.updLink l f).opt = s.opt ∧ (s.updLink l f).settings = s.settings ∧ (s.updLink l f).fwWords = s.fwWords ∧
    (s.updLink l f).diag = s.diag ∧ (s.updLink l f).pwr = s.pwr ∧ (s.updLink l f).pensIn = s.pensIn ∧
    (s.updLink l f).pensTread = s.pensTread ∧ (s.updLink l f).shutdown = s.shutdown :=
  ⟨rfl, rfl, rfl, rfl, rfl, rfl, rfl, rfl, rfl, rfl, rfl, rfl, rfl, rfl, rfl, rfl, rfl, rfl, rfl, rfl, rfl, rfl, rfl, rfl, rfl, rfl, rfl, rfl, rfl, rfl, rfl, rfl, rfl, rfl, rfl, rfl, rfl, rfl, rfl, rfl, rfl, rfl, rfl⟩

@[simp] theorem State.setStack_frame (s : State) (n : Nat) (x : Stack) :
    (s.setStack n x).pending = s.pending ∧ (s.setStack n x).fresh = s.fresh ∧ (s.setStack n x).otp = s.otp ∧
    (s.setStack n x).fw = s.fw ∧ (s.setStack n x).clk = s.clk ∧ (s.setStack n x).halls = s.halls ∧
    (s.setStack n x).cores = s.cores ∧ (s.setStack n x).mesh = s.mesh ∧ (s.setStack n x).links = s.links ∧
    (s.setStack n x).windows = s.windows ∧ (s.setStack n x).mgmtOut = s.mgmtOut ∧
    (s.setStack n x).fabAddr = s.fabAddr ∧ (s.setStack n x).manifest = s.manifest ∧
    (s.setStack n x).mgmtUnknown = s.mgmtUnknown ∧ (s.setStack n x).meshBad = s.meshBad ∧
    (s.setStack n x).gal = s.gal ∧ (s.setStack n x).granules = s.granules ∧ (s.setStack n x).far = s.far ∧
    (s.setStack n x).streams = s.streams ∧ (s.setStack n x).freeClock = s.freeClock ∧
    (s.setStack n x).heldCmds = s.heldCmds ∧ (s.setStack n x).stores = s.stores ∧
    (s.setStack n x).parkHigh = s.parkHigh ∧ (s.setStack n x).parkLow = s.parkLow ∧
    (s.setStack n x).strmLead = s.strmLead ∧ (s.setStack n x).strmLeadAddr = s.strmLeadAddr ∧
    (s.setStack n x).tasks = s.tasks ∧ (s.setStack n x).nextLoad = s.nextLoad ∧
    (s.setStack n x).nextTask = s.nextTask ∧ (s.setStack n x).fns = s.fns ∧ (s.setStack n x).accepted = s.accepted ∧
    (s.setStack n x).turn = s.turn ∧ (s.setStack n x).parts = s.parts ∧ (s.setStack n x).sec = s.sec ∧
    (s.setStack n x).rst = s.rst ∧ (s.setStack n x).opt = s.opt ∧ (s.setStack n x).settings = s.settings ∧
    (s.setStack n x).fwWords = s.fwWords ∧ (s.setStack n x).diag = s.diag ∧ (s.setStack n x).pwr = s.pwr ∧
    (s.setStack n x).pensIn = s.pensIn ∧ (s.setStack n x).pensTread = s.pensTread ∧
    (s.setStack n x).shutdown = s.shutdown :=
  ⟨rfl, rfl, rfl, rfl, rfl, rfl, rfl, rfl, rfl, rfl, rfl, rfl, rfl, rfl, rfl, rfl, rfl, rfl, rfl, rfl, rfl, rfl, rfl, rfl, rfl, rfl, rfl, rfl, rfl, rfl, rfl, rfl, rfl, rfl, rfl, rfl, rfl, rfl, rfl, rfl, rfl, rfl, rfl⟩

@[simp] theorem State.setGranule_frame (s : State) (g : Nat) (x : Granule) :
    (s.setGranule g x).pending = s.pending ∧ (s.setGranule g x).fresh = s.fresh ∧ (s.setGranule g x).otp = s.otp ∧
    (s.setGranule g x).fw = s.fw ∧ (s.setGranule g x).clk = s.clk ∧ (s.setGranule g x).halls = s.halls ∧
    (s.setGranule g x).cores = s.cores ∧ (s.setGranule g x).mesh = s.mesh ∧ (s.setGranule g x).links = s.links ∧
    (s.setGranule g x).windows = s.windows ∧ (s.setGranule g x).mgmtOut = s.mgmtOut ∧
    (s.setGranule g x).fabAddr = s.fabAddr ∧ (s.setGranule g x).manifest = s.manifest ∧
    (s.setGranule g x).mgmtUnknown = s.mgmtUnknown ∧ (s.setGranule g x).meshBad = s.meshBad ∧
    (s.setGranule g x).gal = s.gal ∧ (s.setGranule g x).stackTbl = s.stackTbl ∧ (s.setGranule g x).far = s.far ∧
    (s.setGranule g x).streams = s.streams ∧ (s.setGranule g x).freeClock = s.freeClock ∧
    (s.setGranule g x).heldCmds = s.heldCmds ∧ (s.setGranule g x).stores = s.stores ∧
    (s.setGranule g x).parkHigh = s.parkHigh ∧ (s.setGranule g x).parkLow = s.parkLow ∧
    (s.setGranule g x).strmLead = s.strmLead ∧ (s.setGranule g x).strmLeadAddr = s.strmLeadAddr ∧
    (s.setGranule g x).tasks = s.tasks ∧ (s.setGranule g x).nextLoad = s.nextLoad ∧
    (s.setGranule g x).nextTask = s.nextTask ∧ (s.setGranule g x).fns = s.fns ∧
    (s.setGranule g x).accepted = s.accepted ∧ (s.setGranule g x).turn = s.turn ∧ (s.setGranule g x).parts = s.parts ∧
    (s.setGranule g x).sec = s.sec ∧ (s.setGranule g x).rst = s.rst ∧ (s.setGranule g x).opt = s.opt ∧
    (s.setGranule g x).settings = s.settings ∧ (s.setGranule g x).fwWords = s.fwWords ∧
    (s.setGranule g x).diag = s.diag ∧ (s.setGranule g x).pwr = s.pwr ∧ (s.setGranule g x).pensIn = s.pensIn ∧
    (s.setGranule g x).pensTread = s.pensTread ∧ (s.setGranule g x).shutdown = s.shutdown :=
  ⟨rfl, rfl, rfl, rfl, rfl, rfl, rfl, rfl, rfl, rfl, rfl, rfl, rfl, rfl, rfl, rfl, rfl, rfl, rfl, rfl, rfl, rfl, rfl, rfl, rfl, rfl, rfl, rfl, rfl, rfl, rfl, rfl, rfl, rfl, rfl, rfl, rfl, rfl, rfl, rfl, rfl, rfl, rfl⟩

@[simp] theorem State.setSlot_frame (s : State) (i : Nat) (x : GSlot) :
    (s.setSlot i x).pending = s.pending ∧ (s.setSlot i x).fresh = s.fresh ∧ (s.setSlot i x).otp = s.otp ∧
    (s.setSlot i x).fw = s.fw ∧ (s.setSlot i x).clk = s.clk ∧ (s.setSlot i x).halls = s.halls ∧
    (s.setSlot i x).cores = s.cores ∧ (s.setSlot i x).mesh = s.mesh ∧ (s.setSlot i x).links = s.links ∧
    (s.setSlot i x).windows = s.windows ∧ (s.setSlot i x).mgmtOut = s.mgmtOut ∧ (s.setSlot i x).fabAddr = s.fabAddr ∧
    (s.setSlot i x).manifest = s.manifest ∧ (s.setSlot i x).mgmtUnknown = s.mgmtUnknown ∧
    (s.setSlot i x).meshBad = s.meshBad ∧ (s.setSlot i x).stackTbl = s.stackTbl ∧
    (s.setSlot i x).granules = s.granules ∧ (s.setSlot i x).far = s.far ∧ (s.setSlot i x).streams = s.streams ∧
    (s.setSlot i x).freeClock = s.freeClock ∧ (s.setSlot i x).heldCmds = s.heldCmds ∧
    (s.setSlot i x).stores = s.stores ∧ (s.setSlot i x).parkHigh = s.parkHigh ∧ (s.setSlot i x).parkLow = s.parkLow ∧
    (s.setSlot i x).strmLead = s.strmLead ∧ (s.setSlot i x).strmLeadAddr = s.strmLeadAddr ∧
    (s.setSlot i x).tasks = s.tasks ∧ (s.setSlot i x).nextLoad = s.nextLoad ∧ (s.setSlot i x).nextTask = s.nextTask ∧
    (s.setSlot i x).fns = s.fns ∧ (s.setSlot i x).accepted = s.accepted ∧ (s.setSlot i x).turn = s.turn ∧
    (s.setSlot i x).parts = s.parts ∧ (s.setSlot i x).sec = s.sec ∧ (s.setSlot i x).rst = s.rst ∧
    (s.setSlot i x).opt = s.opt ∧ (s.setSlot i x).settings = s.settings ∧ (s.setSlot i x).fwWords = s.fwWords ∧
    (s.setSlot i x).diag = s.diag ∧ (s.setSlot i x).pwr = s.pwr ∧ (s.setSlot i x).pensIn = s.pensIn ∧
    (s.setSlot i x).pensTread = s.pensTread ∧ (s.setSlot i x).shutdown = s.shutdown ∧
    (s.setSlot i x).gal.cycles = s.gal.cycles ∧ (s.setSlot i x).gal.worn = s.gal.worn ∧
    (s.setSlot i x).gal.pulses = s.gal.pulses ∧ (s.setSlot i x).gal.ce = s.gal.ce ∧
    (s.setSlot i x).gal.ue = s.gal.ue ∧ (s.setSlot i x).gal.suspend = s.gal.suspend ∧
    (s.setSlot i x).gal.waiting = s.gal.waiting :=
  ⟨rfl, rfl, rfl, rfl, rfl, rfl, rfl, rfl, rfl, rfl, rfl, rfl, rfl, rfl, rfl, rfl, rfl, rfl, rfl, rfl, rfl, rfl, rfl, rfl, rfl, rfl, rfl, rfl, rfl, rfl, rfl, rfl, rfl, rfl, rfl, rfl, rfl, rfl, rfl, rfl, rfl, rfl, rfl, rfl, rfl, rfl, rfl, rfl, rfl, rfl⟩

@[simp] theorem State.setStream_frame (s : State) (i : Nat) (x : StreamEntry) :
    (s.setStream i x).pending = s.pending ∧ (s.setStream i x).fresh = s.fresh ∧ (s.setStream i x).otp = s.otp ∧
    (s.setStream i x).fw = s.fw ∧ (s.setStream i x).clk = s.clk ∧ (s.setStream i x).halls = s.halls ∧
    (s.setStream i x).cores = s.cores ∧ (s.setStream i x).mesh = s.mesh ∧ (s.setStream i x).links = s.links ∧
    (s.setStream i x).windows = s.windows ∧ (s.setStream i x).mgmtOut = s.mgmtOut ∧
    (s.setStream i x).fabAddr = s.fabAddr ∧ (s.setStream i x).manifest = s.manifest ∧
    (s.setStream i x).mgmtUnknown = s.mgmtUnknown ∧ (s.setStream i x).meshBad = s.meshBad ∧
    (s.setStream i x).gal = s.gal ∧ (s.setStream i x).stackTbl = s.stackTbl ∧
    (s.setStream i x).granules = s.granules ∧ (s.setStream i x).far = s.far ∧
    (s.setStream i x).freeClock = s.freeClock ∧ (s.setStream i x).heldCmds = s.heldCmds ∧
    (s.setStream i x).stores = s.stores ∧ (s.setStream i x).parkHigh = s.parkHigh ∧
    (s.setStream i x).parkLow = s.parkLow ∧ (s.setStream i x).strmLead = s.strmLead ∧
    (s.setStream i x).strmLeadAddr = s.strmLeadAddr ∧ (s.setStream i x).tasks = s.tasks ∧
    (s.setStream i x).nextLoad = s.nextLoad ∧ (s.setStream i x).nextTask = s.nextTask ∧
    (s.setStream i x).fns = s.fns ∧ (s.setStream i x).accepted = s.accepted ∧ (s.setStream i x).turn = s.turn ∧
    (s.setStream i x).parts = s.parts ∧ (s.setStream i x).sec = s.sec ∧ (s.setStream i x).rst = s.rst ∧
    (s.setStream i x).opt = s.opt ∧ (s.setStream i x).settings = s.settings ∧ (s.setStream i x).fwWords = s.fwWords ∧
    (s.setStream i x).diag = s.diag ∧ (s.setStream i x).pwr = s.pwr ∧ (s.setStream i x).pensIn = s.pensIn ∧
    (s.setStream i x).pensTread = s.pensTread ∧ (s.setStream i x).shutdown = s.shutdown :=
  ⟨rfl, rfl, rfl, rfl, rfl, rfl, rfl, rfl, rfl, rfl, rfl, rfl, rfl, rfl, rfl, rfl, rfl, rfl, rfl, rfl, rfl, rfl, rfl, rfl, rfl, rfl, rfl, rfl, rfl, rfl, rfl, rfl, rfl, rfl, rfl, rfl, rfl, rfl, rfl, rfl, rfl, rfl, rfl⟩

@[simp] theorem State.setPart_frame (s : State) (b : Nat) (x : Part) :
    (s.setPart b x).pending = s.pending ∧ (s.setPart b x).fresh = s.fresh ∧ (s.setPart b x).otp = s.otp ∧
    (s.setPart b x).fw = s.fw ∧ (s.setPart b x).clk = s.clk ∧ (s.setPart b x).halls = s.halls ∧
    (s.setPart b x).cores = s.cores ∧ (s.setPart b x).mesh = s.mesh ∧ (s.setPart b x).links = s.links ∧
    (s.setPart b x).windows = s.windows ∧ (s.setPart b x).mgmtOut = s.mgmtOut ∧ (s.setPart b x).fabAddr = s.fabAddr ∧
    (s.setPart b x).manifest = s.manifest ∧ (s.setPart b x).mgmtUnknown = s.mgmtUnknown ∧
    (s.setPart b x).meshBad = s.meshBad ∧ (s.setPart b x).gal = s.gal ∧ (s.setPart b x).stackTbl = s.stackTbl ∧
    (s.setPart b x).granules = s.granules ∧ (s.setPart b x).far = s.far ∧ (s.setPart b x).streams = s.streams ∧
    (s.setPart b x).freeClock = s.freeClock ∧ (s.setPart b x).heldCmds = s.heldCmds ∧
    (s.setPart b x).stores = s.stores ∧ (s.setPart b x).parkHigh = s.parkHigh ∧ (s.setPart b x).parkLow = s.parkLow ∧
    (s.setPart b x).strmLead = s.strmLead ∧ (s.setPart b x).strmLeadAddr = s.strmLeadAddr ∧
    (s.setPart b x).tasks = s.tasks ∧ (s.setPart b x).nextLoad = s.nextLoad ∧ (s.setPart b x).nextTask = s.nextTask ∧
    (s.setPart b x).fns = s.fns ∧ (s.setPart b x).accepted = s.accepted ∧ (s.setPart b x).turn = s.turn ∧
    (s.setPart b x).sec = s.sec ∧ (s.setPart b x).rst = s.rst ∧ (s.setPart b x).opt = s.opt ∧
    (s.setPart b x).settings = s.settings ∧ (s.setPart b x).fwWords = s.fwWords ∧ (s.setPart b x).diag = s.diag ∧
    (s.setPart b x).pwr = s.pwr ∧ (s.setPart b x).pensIn = s.pensIn ∧ (s.setPart b x).pensTread = s.pensTread ∧
    (s.setPart b x).shutdown = s.shutdown :=
  ⟨rfl, rfl, rfl, rfl, rfl, rfl, rfl, rfl, rfl, rfl, rfl, rfl, rfl, rfl, rfl, rfl, rfl, rfl, rfl, rfl, rfl, rfl, rfl, rfl, rfl, rfl, rfl, rfl, rfl, rfl, rfl, rfl, rfl, rfl, rfl, rfl, rfl, rfl, rfl, rfl, rfl, rfl, rfl⟩

@[simp] theorem State.updPart_frame (s : State) (b : Nat) (f : Part → Part) :
    (s.updPart b f).pending = s.pending ∧ (s.updPart b f).fresh = s.fresh ∧ (s.updPart b f).otp = s.otp ∧
    (s.updPart b f).fw = s.fw ∧ (s.updPart b f).clk = s.clk ∧ (s.updPart b f).halls = s.halls ∧
    (s.updPart b f).cores = s.cores ∧ (s.updPart b f).mesh = s.mesh ∧ (s.updPart b f).links = s.links ∧
    (s.updPart b f).windows = s.windows ∧ (s.updPart b f).mgmtOut = s.mgmtOut ∧ (s.updPart b f).fabAddr = s.fabAddr ∧
    (s.updPart b f).manifest = s.manifest ∧ (s.updPart b f).mgmtUnknown = s.mgmtUnknown ∧
    (s.updPart b f).meshBad = s.meshBad ∧ (s.updPart b f).gal = s.gal ∧ (s.updPart b f).stackTbl = s.stackTbl ∧
    (s.updPart b f).granules = s.granules ∧ (s.updPart b f).far = s.far ∧ (s.updPart b f).streams = s.streams ∧
    (s.updPart b f).freeClock = s.freeClock ∧ (s.updPart b f).heldCmds = s.heldCmds ∧
    (s.updPart b f).stores = s.stores ∧ (s.updPart b f).parkHigh = s.parkHigh ∧ (s.updPart b f).parkLow = s.parkLow ∧
    (s.updPart b f).strmLead = s.strmLead ∧ (s.updPart b f).strmLeadAddr = s.strmLeadAddr ∧
    (s.updPart b f).tasks = s.tasks ∧ (s.updPart b f).nextLoad = s.nextLoad ∧ (s.updPart b f).nextTask = s.nextTask ∧
    (s.updPart b f).fns = s.fns ∧ (s.updPart b f).accepted = s.accepted ∧ (s.updPart b f).turn = s.turn ∧
    (s.updPart b f).sec = s.sec ∧ (s.updPart b f).rst = s.rst ∧ (s.updPart b f).opt = s.opt ∧
    (s.updPart b f).settings = s.settings ∧ (s.updPart b f).fwWords = s.fwWords ∧ (s.updPart b f).diag = s.diag ∧
    (s.updPart b f).pwr = s.pwr ∧ (s.updPart b f).pensIn = s.pensIn ∧ (s.updPart b f).pensTread = s.pensTread ∧
    (s.updPart b f).shutdown = s.shutdown :=
  ⟨rfl, rfl, rfl, rfl, rfl, rfl, rfl, rfl, rfl, rfl, rfl, rfl, rfl, rfl, rfl, rfl, rfl, rfl, rfl, rfl, rfl, rfl, rfl, rfl, rfl, rfl, rfl, rfl, rfl, rfl, rfl, rfl, rfl, rfl, rfl, rfl, rfl, rfl, rfl, rfl, rfl, rfl, rfl⟩

@[simp] theorem State.setFn_frame (s : State) (f : Nat) (x : HostFn) :
    (s.setFn f x).pending = s.pending ∧ (s.setFn f x).fresh = s.fresh ∧ (s.setFn f x).otp = s.otp ∧
    (s.setFn f x).fw = s.fw ∧ (s.setFn f x).clk = s.clk ∧ (s.setFn f x).halls = s.halls ∧
    (s.setFn f x).cores = s.cores ∧ (s.setFn f x).mesh = s.mesh ∧ (s.setFn f x).links = s.links ∧
    (s.setFn f x).windows = s.windows ∧ (s.setFn f x).mgmtOut = s.mgmtOut ∧ (s.setFn f x).fabAddr = s.fabAddr ∧
    (s.setFn f x).manifest = s.manifest ∧ (s.setFn f x).mgmtUnknown = s.mgmtUnknown ∧
    (s.setFn f x).meshBad = s.meshBad ∧ (s.setFn f x).gal = s.gal ∧ (s.setFn f x).stackTbl = s.stackTbl ∧
    (s.setFn f x).granules = s.granules ∧ (s.setFn f x).far = s.far ∧ (s.setFn f x).streams = s.streams ∧
    (s.setFn f x).freeClock = s.freeClock ∧ (s.setFn f x).heldCmds = s.heldCmds ∧ (s.setFn f x).stores = s.stores ∧
    (s.setFn f x).parkHigh = s.parkHigh ∧ (s.setFn f x).parkLow = s.parkLow ∧ (s.setFn f x).strmLead = s.strmLead ∧
    (s.setFn f x).strmLeadAddr = s.strmLeadAddr ∧ (s.setFn f x).tasks = s.tasks ∧
    (s.setFn f x).nextLoad = s.nextLoad ∧ (s.setFn f x).nextTask = s.nextTask ∧ (s.setFn f x).accepted = s.accepted ∧
    (s.setFn f x).turn = s.turn ∧ (s.setFn f x).parts = s.parts ∧ (s.setFn f x).sec = s.sec ∧
    (s.setFn f x).rst = s.rst ∧ (s.setFn f x).opt = s.opt ∧ (s.setFn f x).settings = s.settings ∧
    (s.setFn f x).fwWords = s.fwWords ∧ (s.setFn f x).diag = s.diag ∧ (s.setFn f x).pwr = s.pwr ∧
    (s.setFn f x).pensIn = s.pensIn ∧ (s.setFn f x).pensTread = s.pensTread ∧ (s.setFn f x).shutdown = s.shutdown :=
  ⟨rfl, rfl, rfl, rfl, rfl, rfl, rfl, rfl, rfl, rfl, rfl, rfl, rfl, rfl, rfl, rfl, rfl, rfl, rfl, rfl, rfl, rfl, rfl, rfl, rfl, rfl, rfl, rfl, rfl, rfl, rfl, rfl, rfl, rfl, rfl, rfl, rfl, rfl, rfl, rfl, rfl, rfl, rfl⟩

@[simp] theorem State.tick_frame (s : State) :
    (s.tick).pending = s.pending ∧ (s.tick).otp = s.otp ∧ (s.tick).fw = s.fw ∧ (s.tick).clk = s.clk ∧
    (s.tick).halls = s.halls ∧ (s.tick).cores = s.cores ∧ (s.tick).mesh = s.mesh ∧ (s.tick).links = s.links ∧
    (s.tick).windows = s.windows ∧ (s.tick).mgmtOut = s.mgmtOut ∧ (s.tick).fabAddr = s.fabAddr ∧
    (s.tick).manifest = s.manifest ∧ (s.tick).mgmtUnknown = s.mgmtUnknown ∧ (s.tick).meshBad = s.meshBad ∧
    (s.tick).gal = s.gal ∧ (s.tick).stackTbl = s.stackTbl ∧ (s.tick).granules = s.granules ∧ (s.tick).far = s.far ∧
    (s.tick).streams = s.streams ∧ (s.tick).freeClock = s.freeClock ∧ (s.tick).heldCmds = s.heldCmds ∧
    (s.tick).stores = s.stores ∧ (s.tick).parkHigh = s.parkHigh ∧ (s.tick).parkLow = s.parkLow ∧
    (s.tick).strmLead = s.strmLead ∧ (s.tick).strmLeadAddr = s.strmLeadAddr ∧ (s.tick).tasks = s.tasks ∧
    (s.tick).nextLoad = s.nextLoad ∧ (s.tick).nextTask = s.nextTask ∧ (s.tick).fns = s.fns ∧
    (s.tick).accepted = s.accepted ∧ (s.tick).turn = s.turn ∧ (s.tick).parts = s.parts ∧ (s.tick).sec = s.sec ∧
    (s.tick).rst = s.rst ∧ (s.tick).opt = s.opt ∧ (s.tick).settings = s.settings ∧ (s.tick).fwWords = s.fwWords ∧
    (s.tick).diag = s.diag ∧ (s.tick).pwr = s.pwr ∧ (s.tick).pensIn = s.pensIn ∧ (s.tick).pensTread = s.pensTread ∧
    (s.tick).shutdown = s.shutdown :=
  ⟨rfl, rfl, rfl, rfl, rfl, rfl, rfl, rfl, rfl, rfl, rfl, rfl, rfl, rfl, rfl, rfl, rfl, rfl, rfl, rfl, rfl, rfl, rfl, rfl, rfl, rfl, rfl, rfl, rfl, rfl, rfl, rfl, rfl, rfl, rfl, rfl, rfl, rfl, rfl, rfl, rfl, rfl, rfl⟩

@[simp] theorem State.updTask_frame (s : State) (l : Nat) (f : Task → Task) :
    (s.updTask l f).pending = s.pending ∧ (s.updTask l f).fresh = s.fresh ∧ (s.updTask l f).otp = s.otp ∧
    (s.updTask l f).fw = s.fw ∧ (s.updTask l f).clk = s.clk ∧ (s.updTask l f).halls = s.halls ∧
    (s.updTask l f).cores = s.cores ∧ (s.updTask l f).mesh = s.mesh ∧ (s.updTask l f).links = s.links ∧
    (s.updTask l f).windows = s.windows ∧ (s.updTask l f).mgmtOut = s.mgmtOut ∧ (s.updTask l f).fabAddr = s.fabAddr ∧
    (s.updTask l f).manifest = s.manifest ∧ (s.updTask l f).mgmtUnknown = s.mgmtUnknown ∧
    (s.updTask l f).meshBad = s.meshBad ∧ (s.updTask l f).gal = s.gal ∧ (s.updTask l f).stackTbl = s.stackTbl ∧
    (s.updTask l f).granules = s.granules ∧ (s.updTask l f).far = s.far ∧ (s.updTask l f).streams = s.streams ∧
    (s.updTask l f).freeClock = s.freeClock ∧ (s.updTask l f).heldCmds = s.heldCmds ∧
    (s.updTask l f).stores = s.stores ∧ (s.updTask l f).parkHigh = s.parkHigh ∧ (s.updTask l f).parkLow = s.parkLow ∧
    (s.updTask l f).strmLead = s.strmLead ∧ (s.updTask l f).strmLeadAddr = s.strmLeadAddr ∧
    (s.updTask l f).nextLoad = s.nextLoad ∧ (s.updTask l f).nextTask = s.nextTask ∧ (s.updTask l f).fns = s.fns ∧
    (s.updTask l f).accepted = s.accepted ∧ (s.updTask l f).turn = s.turn ∧ (s.updTask l f).parts = s.parts ∧
    (s.updTask l f).sec = s.sec ∧ (s.updTask l f).rst = s.rst ∧ (s.updTask l f).opt = s.opt ∧
    (s.updTask l f).settings = s.settings ∧ (s.updTask l f).fwWords = s.fwWords ∧ (s.updTask l f).diag = s.diag ∧
    (s.updTask l f).pwr = s.pwr ∧ (s.updTask l f).pensIn = s.pensIn ∧ (s.updTask l f).pensTread = s.pensTread ∧
    (s.updTask l f).shutdown = s.shutdown :=
  ⟨rfl, rfl, rfl, rfl, rfl, rfl, rfl, rfl, rfl, rfl, rfl, rfl, rfl, rfl, rfl, rfl, rfl, rfl, rfl, rfl, rfl, rfl, rfl, rfl, rfl, rfl, rfl, rfl, rfl, rfl, rfl, rfl, rfl, rfl, rfl, rfl, rfl, rfl, rfl, rfl, rfl, rfl, rfl⟩

@[simp] theorem State.sendMgmt_frame (s : State) (a : BitVec 10) (m : MgmtMsg) :
    (s.sendMgmt a m).pending = s.pending ∧ (s.sendMgmt a m).fresh = s.fresh ∧ (s.sendMgmt a m).otp = s.otp ∧
    (s.sendMgmt a m).fw = s.fw ∧ (s.sendMgmt a m).clk = s.clk ∧ (s.sendMgmt a m).halls = s.halls ∧
    (s.sendMgmt a m).cores = s.cores ∧ (s.sendMgmt a m).mesh = s.mesh ∧ (s.sendMgmt a m).links = s.links ∧
    (s.sendMgmt a m).windows = s.windows ∧ (s.sendMgmt a m).fabAddr = s.fabAddr ∧
    (s.sendMgmt a m).manifest = s.manifest ∧ (s.sendMgmt a m).mgmtUnknown = s.mgmtUnknown ∧
    (s.sendMgmt a m).meshBad = s.meshBad ∧ (s.sendMgmt a m).gal = s.gal ∧ (s.sendMgmt a m).stackTbl = s.stackTbl ∧
    (s.sendMgmt a m).granules = s.granules ∧ (s.sendMgmt a m).far = s.far ∧ (s.sendMgmt a m).streams = s.streams ∧
    (s.sendMgmt a m).freeClock = s.freeClock ∧ (s.sendMgmt a m).heldCmds = s.heldCmds ∧
    (s.sendMgmt a m).stores = s.stores ∧ (s.sendMgmt a m).parkHigh = s.parkHigh ∧
    (s.sendMgmt a m).parkLow = s.parkLow ∧ (s.sendMgmt a m).strmLead = s.strmLead ∧
    (s.sendMgmt a m).strmLeadAddr = s.strmLeadAddr ∧ (s.sendMgmt a m).tasks = s.tasks ∧
    (s.sendMgmt a m).nextLoad = s.nextLoad ∧ (s.sendMgmt a m).nextTask = s.nextTask ∧ (s.sendMgmt a m).fns = s.fns ∧
    (s.sendMgmt a m).accepted = s.accepted ∧ (s.sendMgmt a m).turn = s.turn ∧ (s.sendMgmt a m).parts = s.parts ∧
    (s.sendMgmt a m).sec = s.sec ∧ (s.sendMgmt a m).rst = s.rst ∧ (s.sendMgmt a m).opt = s.opt ∧
    (s.sendMgmt a m).settings = s.settings ∧ (s.sendMgmt a m).fwWords = s.fwWords ∧ (s.sendMgmt a m).diag = s.diag ∧
    (s.sendMgmt a m).pwr = s.pwr ∧ (s.sendMgmt a m).pensIn = s.pensIn ∧ (s.sendMgmt a m).pensTread = s.pensTread ∧
    (s.sendMgmt a m).shutdown = s.shutdown :=
  ⟨rfl, rfl, rfl, rfl, rfl, rfl, rfl, rfl, rfl, rfl, rfl, rfl, rfl, rfl, rfl, rfl, rfl, rfl, rfl, rfl, rfl, rfl, rfl, rfl, rfl, rfl, rfl, rfl, rfl, rfl, rfl, rfl, rfl, rfl, rfl, rfl, rfl, rfl, rfl, rfl, rfl, rfl, rfl⟩

@[simp] theorem State.sendMembers_frame (s : State) (t : Task) (m : MgmtMsg) :
    (s.sendMembers t m).pending = s.pending ∧ (s.sendMembers t m).fresh = s.fresh ∧ (s.sendMembers t m).otp = s.otp ∧
    (s.sendMembers t m).fw = s.fw ∧ (s.sendMembers t m).clk = s.clk ∧ (s.sendMembers t m).halls = s.halls ∧
    (s.sendMembers t m).cores = s.cores ∧ (s.sendMembers t m).mesh = s.mesh ∧ (s.sendMembers t m).links = s.links ∧
    (s.sendMembers t m).windows = s.windows ∧ (s.sendMembers t m).fabAddr = s.fabAddr ∧
    (s.sendMembers t m).manifest = s.manifest ∧ (s.sendMembers t m).mgmtUnknown = s.mgmtUnknown ∧
    (s.sendMembers t m).meshBad = s.meshBad ∧ (s.sendMembers t m).gal = s.gal ∧
    (s.sendMembers t m).stackTbl = s.stackTbl ∧ (s.sendMembers t m).granules = s.granules ∧
    (s.sendMembers t m).far = s.far ∧ (s.sendMembers t m).streams = s.streams ∧
    (s.sendMembers t m).freeClock = s.freeClock ∧ (s.sendMembers t m).heldCmds = s.heldCmds ∧
    (s.sendMembers t m).stores = s.stores ∧ (s.sendMembers t m).parkHigh = s.parkHigh ∧
    (s.sendMembers t m).parkLow = s.parkLow ∧ (s.sendMembers t m).strmLead = s.strmLead ∧
    (s.sendMembers t m).strmLeadAddr = s.strmLeadAddr ∧ (s.sendMembers t m).tasks = s.tasks ∧
    (s.sendMembers t m).nextLoad = s.nextLoad ∧ (s.sendMembers t m).nextTask = s.nextTask ∧
    (s.sendMembers t m).fns = s.fns ∧ (s.sendMembers t m).accepted = s.accepted ∧ (s.sendMembers t m).turn = s.turn ∧
    (s.sendMembers t m).parts = s.parts ∧ (s.sendMembers t m).sec = s.sec ∧ (s.sendMembers t m).rst = s.rst ∧
    (s.sendMembers t m).opt = s.opt ∧ (s.sendMembers t m).settings = s.settings ∧
    (s.sendMembers t m).fwWords = s.fwWords ∧ (s.sendMembers t m).diag = s.diag ∧ (s.sendMembers t m).pwr = s.pwr ∧
    (s.sendMembers t m).pensIn = s.pensIn ∧ (s.sendMembers t m).pensTread = s.pensTread ∧
    (s.sendMembers t m).shutdown = s.shutdown :=
  ⟨rfl, rfl, rfl, rfl, rfl, rfl, rfl, rfl, rfl, rfl, rfl, rfl, rfl, rfl, rfl, rfl, rfl, rfl, rfl, rfl, rfl, rfl, rfl, rfl, rfl, rfl, rfl, rfl, rfl, rfl, rfl, rfl, rfl, rfl, rfl, rfl, rfl, rfl, rfl, rfl, rfl, rfl, rfl⟩

@[simp] theorem State.core_setCore (s : State) (i : Nat) (x : Core) : (s.setCore i x).core i = x := tget_tset_same _ _ _ _
theorem State.core_setCore_of (s : State) (i j : Nat) (x : Core) : (s.setCore i x).core j = if j = i then x else s.core j :=
  tget_tset _ _ _ _ _
@[simp] theorem State.core_setCore_ne (s : State) {i j : Nat} (x : Core) (h : j ≠ i) : (s.setCore i x).core j = s.core j :=
  tget_tset_ne _ _ _ h

@[simp] theorem State.hall_setHall (s : State) (i : Nat) (x : Hall) : (s.setHall i x).hall i = x := tget_tset_same _ _ _ _
theorem State.hall_setHall_of (s : State) (i j : Nat) (x : Hall) : (s.setHall i x).hall j = if j = i then x else s.hall j :=
  tget_tset _ _ _ _ _
@[simp] theorem State.hall_setHall_ne (s : State) {i j : Nat} (x : Hall) (h : j ≠ i) : (s.setHall i x).hall j = s.hall j :=
  tget_tset_ne _ _ _ h

@[simp] theorem State.link_setLink (s : State) (i : Nat) (x : Link) : (s.setLink i x).link i = x := tget_tset_same _ _ _ _
theorem State.link_setLink_of (s : State) (i j : Nat) (x : Link) : (s.setLink i x).link j = if j = i then x else s.link j :=
  tget_tset _ _ _ _ _
@[simp] theorem State.link_setLink_ne (s : State) {i j : Nat} (x : Link) (h : j ≠ i) : (s.setLink i x).link j = s.link j :=
  tget_tset_ne _ _ _ h

@[simp] theorem State.stack_setStack (s : State) (i : Nat) (x : Stack) : (s.setStack i x).stack i = x := tget_tset_same _ _ _ _
theorem State.stack_setStack_of (s : State) (i j : Nat) (x : Stack) : (s.setStack i x).stack j = if j = i then x else s.stack j :=
  tget_tset _ _ _ _ _
@[simp] theorem State.stack_setStack_ne (s : State) {i j : Nat} (x : Stack) (h : j ≠ i) : (s.setStack i x).stack j = s.stack j :=
  tget_tset_ne _ _ _ h

@[simp] theorem State.granule_setGranule (s : State) (i : Nat) (x : Granule) : (s.setGranule i x).granule i = x := tget_tset_same _ _ _ _
theorem State.granule_setGranule_of (s : State) (i j : Nat) (x : Granule) : (s.setGranule i x).granule j = if j = i then x else s.granule j :=
  tget_tset _ _ _ _ _
@[simp] theorem State.granule_setGranule_ne (s : State) {i j : Nat} (x : Granule) (h : j ≠ i) : (s.setGranule i x).granule j = s.granule j :=
  tget_tset_ne _ _ _ h

@[simp] theorem State.slot_setSlot (s : State) (i : Nat) (x : GSlot) : (s.setSlot i x).slot i = x := tget_tset_same _ _ _ _
theorem State.slot_setSlot_of (s : State) (i j : Nat) (x : GSlot) : (s.setSlot i x).slot j = if j = i then x else s.slot j :=
  tget_tset _ _ _ _ _
@[simp] theorem State.slot_setSlot_ne (s : State) {i j : Nat} (x : GSlot) (h : j ≠ i) : (s.setSlot i x).slot j = s.slot j :=
  tget_tset_ne _ _ _ h

@[simp] theorem State.stream_setStream (s : State) (i : Nat) (x : StreamEntry) : (s.setStream i x).stream i = x := tget_tset_same _ _ _ _
theorem State.stream_setStream_of (s : State) (i j : Nat) (x : StreamEntry) : (s.setStream i x).stream j = if j = i then x else s.stream j :=
  tget_tset _ _ _ _ _
@[simp] theorem State.stream_setStream_ne (s : State) {i j : Nat} (x : StreamEntry) (h : j ≠ i) : (s.setStream i x).stream j = s.stream j :=
  tget_tset_ne _ _ _ h

@[simp] theorem State.part_setPart (s : State) (i : Nat) (x : Part) : (s.setPart i x).part i = x := tget_tset_same _ _ _ _
theorem State.part_setPart_of (s : State) (i j : Nat) (x : Part) : (s.setPart i x).part j = if j = i then x else s.part j :=
  tget_tset _ _ _ _ _
@[simp] theorem State.part_setPart_ne (s : State) {i j : Nat} (x : Part) (h : j ≠ i) : (s.setPart i x).part j = s.part j :=
  tget_tset_ne _ _ _ h

@[simp] theorem State.fn_setFn (s : State) (i : Nat) (x : HostFn) : (s.setFn i x).fn i = x := tget_tset_same _ _ _ _
theorem State.fn_setFn_of (s : State) (i j : Nat) (x : HostFn) : (s.setFn i x).fn j = if j = i then x else s.fn j :=
  tget_tset _ _ _ _ _
@[simp] theorem State.fn_setFn_ne (s : State) {i j : Nat} (x : HostFn) (h : j ≠ i) : (s.setFn i x).fn j = s.fn j :=
  tget_tset_ne _ _ _ h

@[simp] theorem State.core_updCore (s : State) (i : Nat) (f : Core → Core) : (s.updCore i f).core i = f (s.core i) :=
  tget_tset_same _ _ _ _
@[simp] theorem State.core_updCore_ne (s : State) {i j : Nat} (f : Core → Core) (h : j ≠ i) : (s.updCore i f).core j = s.core j :=
  tget_tset_ne _ _ _ h

@[simp] theorem State.hall_updHall (s : State) (i : Nat) (f : Hall → Hall) : (s.updHall i f).hall i = f (s.hall i) :=
  tget_tset_same _ _ _ _
@[simp] theorem State.hall_updHall_ne (s : State) {i j : Nat} (f : Hall → Hall) (h : j ≠ i) : (s.updHall i f).hall j = s.hall j :=
  tget_tset_ne _ _ _ h

@[simp] theorem State.link_updLink (s : State) (i : Nat) (f : Link → Link) : (s.updLink i f).link i = f (s.link i) :=
  tget_tset_same _ _ _ _
@[simp] theorem State.link_updLink_ne (s : State) {i j : Nat} (f : Link → Link) (h : j ≠ i) : (s.updLink i f).link j = s.link j :=
  tget_tset_ne _ _ _ h

@[simp] theorem State.part_updPart (s : State) (i : Nat) (f : Part → Part) : (s.updPart i f).part i = f (s.part i) :=
  tget_tset_same _ _ _ _
@[simp] theorem State.part_updPart_ne (s : State) {i j : Nat} (f : Part → Part) (h : j ≠ i) : (s.updPart i f).part j = s.part j :=
  tget_tset_ne _ _ _ h

@[simp] theorem State.setCore_readers (s : State) (c : Nat) (k : Core) (j : Nat) :
    (s.setCore c k).hall j = s.hall j ∧ (s.setCore c k).link j = s.link j ∧ (s.setCore c k).stack j = s.stack j ∧
    (s.setCore c k).granule j = s.granule j ∧ (s.setCore c k).stream j = s.stream j ∧
    (s.setCore c k).part j = s.part j ∧ (s.setCore c k).fn j = s.fn j ∧ (s.setCore c k).slot j = s.slot j :=
  ⟨rfl, rfl, rfl, rfl, rfl, rfl, rfl, rfl⟩

@[simp] theorem State.updCore_readers (s : State) (c : Nat) (f : Core → Core) (j : Nat) :
    (s.updCore c f).hall j = s.hall j ∧ (s.updCore c f).link j = s.link j ∧ (s.updCore c f).stack j = s.stack j ∧
    (s.updCore c f).granule j = s.granule j ∧ (s.updCore c f).stream j = s.stream j ∧
    (s.updCore c f).part j = s.part j ∧ (s.updCore c f).fn j = s.fn j ∧ (s.updCore c f).slot j = s.slot j :=
  ⟨rfl, rfl, rfl, rfl, rfl, rfl, rfl, rfl⟩

@[simp] theorem State.setHall_readers (s : State) (h : Nat) (x : Hall) (j : Nat) :
    (s.setHall h x).core j = s.core j ∧ (s.setHall h x).link j = s.link j ∧ (s.setHall h x).stack j = s.stack j ∧
    (s.setHall h x).granule j = s.granule j ∧ (s.setHall h x).stream j = s.stream j ∧
    (s.setHall h x).part j = s.part j ∧ (s.setHall h x).fn j = s.fn j ∧ (s.setHall h x).slot j = s.slot j :=
  ⟨rfl, rfl, rfl, rfl, rfl, rfl, rfl, rfl⟩

@[simp] theorem State.updHall_readers (s : State) (h : Nat) (f : Hall → Hall) (j : Nat) :
    (s.updHall h f).core j = s.core j ∧ (s.updHall h f).link j = s.link j ∧ (s.updHall h f).stack j = s.stack j ∧
    (s.updHall h f).granule j = s.granule j ∧ (s.updHall h f).stream j = s.stream j ∧
    (s.updHall h f).part j = s.part j ∧ (s.updHall h f).fn j = s.fn j ∧ (s.updHall h f).slot j = s.slot j :=
  ⟨rfl, rfl, rfl, rfl, rfl, rfl, rfl, rfl⟩

@[simp] theorem State.setLink_readers (s : State) (l : Nat) (x : Link) (j : Nat) :
    (s.setLink l x).core j = s.core j ∧ (s.setLink l x).hall j = s.hall j ∧ (s.setLink l x).stack j = s.stack j ∧
    (s.setLink l x).granule j = s.granule j ∧ (s.setLink l x).stream j = s.stream j ∧
    (s.setLink l x).part j = s.part j ∧ (s.setLink l x).fn j = s.fn j ∧ (s.setLink l x).slot j = s.slot j :=
  ⟨rfl, rfl, rfl, rfl, rfl, rfl, rfl, rfl⟩

@[simp] theorem State.updLink_readers (s : State) (l : Nat) (f : Link → Link) (j : Nat) :
    (s.updLink l f).core j = s.core j ∧ (s.updLink l f).hall j = s.hall j ∧ (s.updLink l f).stack j = s.stack j ∧
    (s.updLink l f).granule j = s.granule j ∧ (s.updLink l f).stream j = s.stream j ∧
    (s.updLink l f).part j = s.part j ∧ (s.updLink l f).fn j = s.fn j ∧ (s.updLink l f).slot j = s.slot j :=
  ⟨rfl, rfl, rfl, rfl, rfl, rfl, rfl, rfl⟩

@[simp] theorem State.setStack_readers (s : State) (n : Nat) (x : Stack) (j : Nat) :
    (s.setStack n x).core j = s.core j ∧ (s.setStack n x).hall j = s.hall j ∧ (s.setStack n x).link j = s.link j ∧
    (s.setStack n x).granule j = s.granule j ∧ (s.setStack n x).stream j = s.stream j ∧
    (s.setStack n x).part j = s.part j ∧ (s.setStack n x).fn j = s.fn j ∧ (s.setStack n x).slot j = s.slot j :=
  ⟨rfl, rfl, rfl, rfl, rfl, rfl, rfl, rfl⟩

@[simp] theorem State.setGranule_readers (s : State) (g : Nat) (x : Granule) (j : Nat) :
    (s.setGranule g x).core j = s.core j ∧ (s.setGranule g x).hall j = s.hall j ∧
    (s.setGranule g x).link j = s.link j ∧ (s.setGranule g x).stack j = s.stack j ∧
    (s.setGranule g x).stream j = s.stream j ∧ (s.setGranule g x).part j = s.part j ∧
    (s.setGranule g x).fn j = s.fn j ∧ (s.setGranule g x).slot j = s.slot j :=
  ⟨rfl, rfl, rfl, rfl, rfl, rfl, rfl, rfl⟩

@[simp] theorem State.setSlot_readers (s : State) (i : Nat) (x : GSlot) (j : Nat) :
    (s.setSlot i x).core j = s.core j ∧ (s.setSlot i x).hall j = s.hall j ∧ (s.setSlot i x).link j = s.link j ∧
    (s.setSlot i x).stack j = s.stack j ∧ (s.setSlot i x).granule j = s.granule j ∧
    (s.setSlot i x).stream j = s.stream j ∧ (s.setSlot i x).part j = s.part j ∧ (s.setSlot i x).fn j = s.fn j :=
  ⟨rfl, rfl, rfl, rfl, rfl, rfl, rfl, rfl⟩

@[simp] theorem State.setStream_readers (s : State) (i : Nat) (x : StreamEntry) (j : Nat) :
    (s.setStream i x).core j = s.core j ∧ (s.setStream i x).hall j = s.hall j ∧ (s.setStream i x).link j = s.link j ∧
    (s.setStream i x).stack j = s.stack j ∧ (s.setStream i x).granule j = s.granule j ∧
    (s.setStream i x).part j = s.part j ∧ (s.setStream i x).fn j = s.fn j ∧ (s.setStream i x).slot j = s.slot j :=
  ⟨rfl, rfl, rfl, rfl, rfl, rfl, rfl, rfl⟩

@[simp] theorem State.setPart_readers (s : State) (b : Nat) (x : Part) (j : Nat) :
    (s.setPart b x).core j = s.core j ∧ (s.setPart b x).hall j = s.hall j ∧ (s.setPart b x).link j = s.link j ∧
    (s.setPart b x).stack j = s.stack j ∧ (s.setPart b x).granule j = s.granule j ∧
    (s.setPart b x).stream j = s.stream j ∧ (s.setPart b x).fn j = s.fn j ∧ (s.setPart b x).slot j = s.slot j :=
  ⟨rfl, rfl, rfl, rfl, rfl, rfl, rfl, rfl⟩

@[simp] theorem State.updPart_readers (s : State) (b : Nat) (f : Part → Part) (j : Nat) :
    (s.updPart b f).core j = s.core j ∧ (s.updPart b f).hall j = s.hall j ∧ (s.updPart b f).link j = s.link j ∧
    (s.updPart b f).stack j = s.stack j ∧ (s.updPart b f).granule j = s.granule j ∧
    (s.updPart b f).stream j = s.stream j ∧ (s.updPart b f).fn j = s.fn j ∧ (s.updPart b f).slot j = s.slot j :=
  ⟨rfl, rfl, rfl, rfl, rfl, rfl, rfl, rfl⟩

@[simp] theorem State.setFn_readers (s : State) (f : Nat) (x : HostFn) (j : Nat) :
    (s.setFn f x).core j = s.core j ∧ (s.setFn f x).hall j = s.hall j ∧ (s.setFn f x).link j = s.link j ∧
    (s.setFn f x).stack j = s.stack j ∧ (s.setFn f x).granule j = s.granule j ∧ (s.setFn f x).stream j = s.stream j ∧
    (s.setFn f x).part j = s.part j ∧ (s.setFn f x).slot j = s.slot j :=
  ⟨rfl, rfl, rfl, rfl, rfl, rfl, rfl, rfl⟩

@[simp] theorem State.tick_readers (s : State) (j : Nat) :
    (s.tick).core j = s.core j ∧ (s.tick).hall j = s.hall j ∧ (s.tick).link j = s.link j ∧
    (s.tick).stack j = s.stack j ∧ (s.tick).granule j = s.granule j ∧ (s.tick).stream j = s.stream j ∧
    (s.tick).part j = s.part j ∧ (s.tick).fn j = s.fn j ∧ (s.tick).slot j = s.slot j :=
  ⟨rfl, rfl, rfl, rfl, rfl, rfl, rfl, rfl, rfl⟩

@[simp] theorem State.updTask_readers (s : State) (l : Nat) (f : Task → Task) (j : Nat) :
    (s.updTask l f).core j = s.core j ∧ (s.updTask l f).hall j = s.hall j ∧ (s.updTask l f).link j = s.link j ∧
    (s.updTask l f).stack j = s.stack j ∧ (s.updTask l f).granule j = s.granule j ∧
    (s.updTask l f).stream j = s.stream j ∧ (s.updTask l f).part j = s.part j ∧ (s.updTask l f).fn j = s.fn j ∧
    (s.updTask l f).slot j = s.slot j :=
  ⟨rfl, rfl, rfl, rfl, rfl, rfl, rfl, rfl, rfl⟩

@[simp] theorem State.sendMgmt_readers (s : State) (a : BitVec 10) (m : MgmtMsg) (j : Nat) :
    (s.sendMgmt a m).core j = s.core j ∧ (s.sendMgmt a m).hall j = s.hall j ∧ (s.sendMgmt a m).link j = s.link j ∧
    (s.sendMgmt a m).stack j = s.stack j ∧ (s.sendMgmt a m).granule j = s.granule j ∧
    (s.sendMgmt a m).stream j = s.stream j ∧ (s.sendMgmt a m).part j = s.part j ∧ (s.sendMgmt a m).fn j = s.fn j ∧
    (s.sendMgmt a m).slot j = s.slot j :=
  ⟨rfl, rfl, rfl, rfl, rfl, rfl, rfl, rfl, rfl⟩

@[simp] theorem State.sendMembers_readers (s : State) (t : Task) (m : MgmtMsg) (j : Nat) :
    (s.sendMembers t m).core j = s.core j ∧ (s.sendMembers t m).hall j = s.hall j ∧
    (s.sendMembers t m).link j = s.link j ∧ (s.sendMembers t m).stack j = s.stack j ∧
    (s.sendMembers t m).granule j = s.granule j ∧ (s.sendMembers t m).stream j = s.stream j ∧
    (s.sendMembers t m).part j = s.part j ∧ (s.sendMembers t m).fn j = s.fn j ∧
    (s.sendMembers t m).slot j = s.slot j :=
  ⟨rfl, rfl, rfl, rfl, rfl, rfl, rfl, rfl, rfl⟩

end Sys2Proof.Machine
end

