-- ==== Sys2Proof/Laws/Issue.lean ====
section
/-! SUPPORT. Laws of the issue stage: what a presented word does when its checks pass, what a failed check does, and the
effect of the sequential step, the wait and the signal on one core. -/

/-! ### Frames -/

namespace Sys2Proof.Safety

open Sys2Proof.Machine

theorem IssueOnly.refl (k : Core) : IssueOnly k k := rfl

theorem IssueOnly.trans {a b c : Core} (h : IssueOnly a b) (g : IssueOnly b c) : IssueOnly a c := by
  unfold IssueOnly at *
  rw [g, h]

/-! ### One core only -/

theorem OnlyCore.refl (c : Nat) (s : State) : OnlyCore c s s := ⟨rfl, fun _ _ => rfl⟩

theorem OnlyCore.trans {c : Nat} {s t u : State} (h : OnlyCore c s t) (g : OnlyCore c t u) : OnlyCore c s u := by
  refine ⟨?_, fun d hd => (g.2 d hd).trans (h.2 d hd)⟩
  rw [g.1, h.1]

theorem OnlyCore.setCore (s : State) (c : Nat) (k : Core) : OnlyCore c s (s.setCore c k) :=
  ⟨rfl, fun _ hd => State.core_setCore_ne s k hd⟩

theorem OnlyCore.updCore (s : State) (c : Nat) (f : Core → Core) : OnlyCore c s (s.updCore c f) :=
  OnlyCore.setCore s c _

end Sys2Proof.Safety

namespace Sys2Proof.Machine

open Sys2Proof.Safety

/-! ### Presentation -/

/-- A presented word whose checks pass and whose engine is ready issues: `act` runs on the core that has taken it. -/
theorem present_issues (s : State) (c op : Nat) (w : IWord) (checks : Core → Bad) (ready : Core → Bool)
    (act : State → Tag → State) (h : Presented s c op w) (hb : checks (s.core c) = none)
    (hr : ready (s.core c) = true) :
    s.present c op w checks ready act = act (s.setCore c ((s.core c).take w)) (s.tagOf c w) := by
  obtain ⟨h1, h2, h3, h4⟩ := h
  simp [State.present, h1, h2, h3, h4, hb, hr]

/-- A presented word whose check fails halts its core, and the word has no effect (R173). -/
theorem present_bad (s : State) (c op : Nat) (w : IWord) (checks : Core → Bad) (ready : Core → Bool)
    (act : State → Tag → State) (r : BitVec 8) (aux : BitVec 64) (h : Presented s c op w)
    (hr : ready (s.core c) = true) (hb : checks (s.core c) = some (r, aux)) :
    s.present c op w checks ready act = s.haltCore c r (s.core c).pc (.of (engineOf op)) aux := by
  obtain ⟨h1, h2, h3, h4⟩ := h
  simp [State.present, h1, h2, h3, h4, hb, hr]

/-- A word that waits, or whose engine is not ready, changes nothing (R173). -/
theorem present_waits (s : State) (c op : Nat) (w : IWord) (checks : Core → Bad) (ready : Core → Bool)
    (act : State → Tag → State) (h1 : (s.core c).mayIssue = true)
    (h2 : (s.core c).head = some (.word (encodeWord op w)))
    (hw : ((s.core c).waitMet w && ready (s.core c)) = false) :
    s.present c op w checks ready act = s := by
  simp [State.present, h1, h2, hw]

/-! ### The wait -/

theorem consume_cc (k : Core) (i n j : Nat) (h : n ≤ ccVal k i) :
    ccVal (k.consume i n) j = ccVal k j - (if j = i then n else 0) := by
  unfold Core.consume ccVal at *
  split
  · simp_all
  · simp only [tget_tset]
    split
    · subst_vars
      rw [BitVec.toNat_ofNat, Nat.mod_eq_of_lt (by omega)]
    · simp

@[simp] theorem take_frame (k : Core) (w : IWord) :
    (k.take w).st = k.st ∧ (k.take w).pc = k.pc ∧ (k.take w).fetchBuf = k.fetchBuf ∧ (k.take w).k = k.k ∧
    (k.take w).loops = k.loops ∧ (k.take w).lcs = k.lcs ∧ (k.take w).retStack = k.retStack ∧
    (k.take w).vflags = k.vflags ∧ (k.take w).treadSt = k.treadSt ∧ (k.take w).exitOut = k.exitOut ∧
    (k.take w).rgn = k.rgn ∧ (k.take w).ad = k.ad ∧ (k.take w).mem = k.mem ∧ (k.take w).flags = k.flags ∧
    (k.take w).mat = k.mat ∧ (k.take w).vreg = k.vreg ∧ (k.take w).vq = k.vq ∧ (k.take w).sq = k.sq ∧
    (k.take w).trace = k.trace ∧ (k.take w).ord = k.ord + 1 ∧ (k.take w).badWord = k.badWord ∧
    (k.take w).badFlag = k.badFlag ∧ (k.take w).pens = k.pens ∧ (k.take w).xwait = k.xwait := by
  unfold Core.take Core.consume
  split <;> simp

theorem take_issueOnly (k : Core) (w : IWord) : IssueOnly k (k.take w) := by
  unfold IssueOnly Core.take Core.consume
  split <;> rfl

theorem take_cc (k : Core) (w : IWord) (h : k.waitMet w = true) (i : Nat) : ccVal (k.take w) i = ccWaited k w i := by
  have : ccVal (k.take w) i = ccVal (k.consume w.wCc.toNat w.wAmt.toNat) i := rfl
  rw [this, consume_cc]
  · rfl
  · simpa [Core.waitMet, ccVal] using h

/-! ### The sequential step -/

theorem loopBack_issueOnly (n : Nat) (k : Core) : IssueOnly k (loopBack k n) := by
  induction n generalizing k with
  | zero => rfl
  | succ n ih =>
    unfold loopBack
    split
    · rfl
    · rename_i i l _
      split
      · dsimp only
        split
        · have := ih { k with loops := tdel k.loops i, lcs := tset k.lcs i 0 }
          unfold IssueOnly at *
          rw [this]
        · rfl
      · rfl

/-- The step leaves the constants, the counters, VFLAGS, the return stack and the tread's state. -/
theorem loopBack_frame (n : Nat) (k : Core) :
    (loopBack k n).k = k.k ∧ (loopBack k n).cc = k.cc ∧ (loopBack k n).vflags = k.vflags ∧
    (loopBack k n).retStack = k.retStack ∧ (loopBack k n).ord = k.ord ∧ (loopBack k n).firstPc = k.firstPc ∧
    (loopBack k n).treadSt = k.treadSt ∧ (loopBack k n).exitOut = k.exitOut ∧ (loopBack k n).trace = k.trace := by
  induction n generalizing k with
  | zero => simp [loopBack]
  | succ n ih =>
    unfold loopBack
    split
    · simp
    · split
      · dsimp only
        split
        · exact ih { k with loops := tdel k.loops _, lcs := tset k.lcs _ 0 }
        · simp
      · simp

theorem keepLoops_eq (k : Core) : ∃ l, k.keepLoops = { k with loops := l } := by
  exact ⟨_, rfl⟩

theorem advance_issueOnly (k : Core) : IssueOnly k k.advance := by
  obtain ⟨l, hl⟩ := keepLoops_eq k
  have := loopBack_issueOnly 4 { k.keepLoops with fetchBuf := k.keepLoops.fetchBuf.filter fun p => p.1 != k.keepLoops.pc }
  simp only [Core.advance, hl] at *
  unfold IssueOnly at *
  rw [this]

@[simp] theorem advance_frame (k : Core) :
    k.advance.k = k.k ∧ k.advance.cc = k.cc ∧ k.advance.vflags = k.vflags ∧ k.advance.retStack = k.retStack ∧
    k.advance.ord = k.ord ∧ k.advance.firstPc = k.firstPc ∧ k.advance.treadSt = k.treadSt ∧
    k.advance.exitOut = k.exitOut ∧ k.advance.trace = k.trace := by
  obtain ⟨l, hl⟩ := keepLoops_eq k
  have := loopBack_frame 4 { k.keepLoops with fetchBuf := k.keepLoops.fetchBuf.filter fun p => p.1 != k.keepLoops.pc }
  simpa only [Core.advance, hl] using this

/-! ### The signal -/

theorem addCC_some (k : Core) (i n : Nat) (h : ccVal k i + n < 4294967296) :
    k.addCC i n = some { k with cc := tset k.cc i (BitVec.ofNat 32 (ccVal k i + n)) } := by
  unfold Core.addCC ccVal at *
  rw [if_pos h]

/-- A signal that fits counts its counter and changes nothing else. -/
theorem signal_fits (s : State) (c : Nat) (t : Tag) (e : Engine)
    (h : ∀ i, t.sig = some i → ccVal (s.core c) i.toNat + 1 < 4294967296) :
    OnlyCore c s (s.signal c t e) ∧
    (s.signal c t e).core c = { s.core c with cc := ((s.signal c t e).core c).cc } ∧
    ∀ j, ccVal ((s.signal c t e).core c) j =
      ccVal (s.core c) j + (if t.sig.map BitVec.toNat = some j then 1 else 0) := by
  cases hs : t.sig with
  | none => simp [State.signal, hs, OnlyCore.refl]
  | some i =>
    have hi := h i hs
    simp only [State.signal, hs, addCC_some _ _ _ hi]
    refine ⟨OnlyCore.setCore _ _ _, by simp, fun j => ?_⟩
    simp only [State.core_setCore, ccVal, tget_tset, Option.map_some, Option.some.injEq]
    by_cases hj : j = i.toNat
    · subst hj
      unfold ccVal at hi
      rw [if_pos rfl, if_pos rfl, BitVec.toNat_ofNat, Nat.mod_eq_of_lt hi]
    · simp [hj, Ne.symm hj]

theorem tagOf_sig (s : State) (c : Nat) (w : IWord) (j : Nat) :
    (if (s.tagOf c w).sig.map BitVec.toNat = some j then 1 else 0) = sigOf w j := by
  unfold State.tagOf sigOf
  cases w.sEn <;> simp [eq_comm]

end Sys2Proof.Machine
end

