-- ==== Sys2Proof/Laws/Access.lean ====
section
/-! SUPPORT. Laws of the scratchpad accesses: a read keeps every byte, any access touches data only, and what a write
that passes its checks leaves. -/

namespace Sys2Proof.Safety

open Sys2Proof.Machine

theorem DataOnly.refl (k : Core) : DataOnly k k := rfl

theorem DataOnly.trans {a b c : Core} (h : DataOnly a b) (g : DataOnly b c) : DataOnly a c := by
  unfold DataOnly at *
  rw [g, h]

end Sys2Proof.Safety

namespace Sys2Proof.Machine

open Sys2Proof.Safety

/-- Nothing but counts, marks of errors and write-back registers changes. -/
def Core.Checked (k k' : Core) : Prop :=
  DataOnly k k' ∧ k'.mem = k.mem ∧ k'.flags = k.flags ∧ k'.vreg = k.vreg ∧ k'.badWord = k.badWord

theorem Core.Checked.refl (k : Core) : k.Checked k := ⟨rfl, rfl, rfl, rfl, rfl⟩

theorem Core.Checked.trans {a b c : Core} (h : a.Checked b) (g : b.Checked c) : a.Checked c := by
  obtain ⟨h1, h2, h3, h4, h5⟩ := h
  obtain ⟨g1, g2, g3, g4, g5⟩ := g
  exact ⟨h1.trans g1, g2.trans h2, g3.trans h3, g4.trans h4, g5.trans h5⟩

theorem Core.Checked.fold (f : Core → Nat → Core) (h : ∀ (k : Core) w, k.Checked (f k w)) (l : List (Nat × Bool)) (k : Core) :
    k.Checked (l.foldl (fun k p => f k p.1) k) := by
  induction l generalizing k with
  | nil => exact .refl k
  | cons p l ih => exact (h k p.1).trans (ih _)

/-- Checking words changes data check state only, and no byte, flag or register (R64). -/
theorem checkHits_data (k : Core) (hit : Tbl Bool) : k.Checked (k.checkHits hit).1 :=
  .fold Core.corrected (fun _ _ => ⟨rfl, rfl, rfl, rfl, rfl⟩) _ k

theorem checkWords_data (k : Core) (a n : Nat) : k.Checked (k.checkWords a n).1 := checkHits_data k _

theorem checkPart_data (k : Core) (ws : List Nat) : k.Checked (k.checkPart ws).1 := checkHits_data k _

/-- Checking the flag words of an access changes no byte, no flag and no register (R68). -/
theorem checkFlags_data (k : Core) (a n : Nat) : k.Checked (k.checkFlags a n).1 := by
  have h := Core.Checked.fold Core.fcorrected (fun _ _ => ⟨rfl, rfl, rfl, rfl, rfl⟩)
    ((k.badFlag.filter fun p => decide (a / 16384 ≤ p.1) && decide (p.1 ≤ (a + n - 1) / 16384)).filter fun p => !p.2) k
  unfold Core.checkFlags
  dsimp only
  split
  · exact h.trans ⟨rfl, rfl, rfl, rfl, rfl⟩
  · exact h

/-- The flag check of an access, where its region is flagged. -/
theorem flagCheck_data (k : Core) (f : Bool) (a n : Nat) :
    k.Checked (if f = true then k.checkFlags a n else (k, none)).1 := by
  split
  · exact checkFlags_data k a n
  · exact .refl k

/-- Everything a read can do: it keeps every byte, and when it is served it gives the bytes of its range; flags are
emptied only by a consumer's read of a slot's last byte (R75). -/
theorem readAcc_spec (k : Core) (b : Banner) (p : Port) (a n : Nat) :
    (∀ k' d, k.readAcc b p a n = .done k' d →
      DataOnly k k' ∧ k'.mem = k.mem ∧ k'.vreg = k.vreg ∧ k'.badWord = k.badWord ∧ d = memRead k.mem a n ∧
      (∀ t ∈ k'.flags, t ∈ k.flags) ∧ (p.consumer = 0 → k'.flags = k.flags)) ∧
    (∀ k' t, k.readAcc b p a n = .wait k' t → k.Checked k') ∧
    (∀ k' r aux, k.readAcc b p a n = .bad k' r aux → k.Checked k') := by
  unfold Core.readAcc
  split
  · exact ⟨fun _ _ h => (by cases h), fun _ _ h => (by cases h), fun _ _ _ h => by cases h; exact .refl k⟩
  · rename_i e he
    have hc := flagCheck_data k (rgnFlagged e) a n
    generalize (if rgnFlagged e = true then k.checkFlags a n else (k, none)) = x at hc
    obtain ⟨k1, fbad⟩ := x
    simp only at hc ⊢
    cases fbad with
    | some w => exact ⟨fun _ _ h => (by cases h), fun _ _ h => (by cases h), fun _ _ _ h => by cases h; exact hc⟩
    | none =>
      simp only
      split
      · exact ⟨fun _ _ h => (by cases h), fun _ _ h => (by cases h; exact hc), fun _ _ _ h => by cases h⟩
      · have hw := hc.trans (checkWords_data k1 a n)
        generalize k1.checkWords a n = y at hw
        obtain ⟨k2, u⟩ := y
        simp only at hw ⊢
        cases u with
        | some w => exact ⟨fun _ _ h => (by cases h), fun _ _ h => (by cases h), fun _ _ _ h => by cases h; exact hw⟩
        | none =>
          refine ⟨fun k' d h => ?_, fun _ _ h => (by cases h), fun _ _ _ h => (by cases h)⟩
          obtain ⟨c1, c2, c3, c4, c5⟩ := hw
          cases h
          refine ⟨c1.trans rfl, c2, c4, c5, by simp [c2], ?_, ?_⟩
          · intro t ht
            rw [← c3]
            exact (List.mem_filter.mp ht).1
          · intro hp
            rw [← c3]
            simp [hp, Core.setFlags]

theorem clearMarks_data (k : Core) (a n : Nat) : DataOnly k (k.clearMarks a n) := rfl

theorem setFlags_data (k : Core) (fl ts : List Nat) : DataOnly k (k.setFlags fl ts) := rfl

theorem store_data (k : Core) (f : Bool) (a : Nat) (d : List Byte) :
    DataOnly k (k.store f a d) ∧ (k.store f a d).mem = memWrite k.mem a d ∧ (k.store f a d).vreg = k.vreg := ⟨rfl, rfl, rfl⟩

/-- Everything a write can do: it is held or fails and keeps every byte, or it stores its bytes (R63, R65, R74). -/
theorem writeIf_spec (k : Core) (b : Banner) (p : Port) (al : Bool) (a : Nat) (data : List Byte) :
    (∀ k' d, k.writeIf b p al a data = .done k' d →
      DataOnly k k' ∧ k'.mem = memWrite k.mem a data ∧ k'.vreg = k.vreg ∧ d = []) ∧
    (∀ k' t, k.writeIf b p al a data = .wait k' t → k.Checked k') ∧
    (∀ k' r aux, k.writeIf b p al a data = .bad k' r aux → k.Checked k') := by
  unfold Core.writeIf
  dsimp only
  split
  · exact ⟨fun _ _ h => (by cases h), fun _ _ h => (by cases h), fun _ _ _ h => by cases h; exact .refl k⟩
  · rename_i e he
    split
    · exact ⟨fun _ _ h => (by cases h), fun _ _ h => (by cases h), fun _ _ _ h => by cases h; exact .refl k⟩
    · have hc := flagCheck_data k (rgnFlagged e) a data.length
      generalize (if rgnFlagged e = true then k.checkFlags a data.length else (k, none)) = x at hc
      obtain ⟨k1, fbad⟩ := x
      simp only at hc ⊢
      cases fbad with
      | some w => exact ⟨fun _ _ h => (by cases h), fun _ _ h => (by cases h), fun _ _ _ h => by cases h; exact hc⟩
      | none =>
        simp only
        split
        · exact ⟨fun _ _ h => (by cases h), fun _ _ h => (by cases h; exact hc), fun _ _ _ h => by cases h⟩
        · have hw := hc.trans (checkPart_data k1 (partWords a data.length))
          generalize k1.checkPart (partWords a data.length) = y at hw
          obtain ⟨k2, u⟩ := y
          simp only at hw ⊢
          cases u with
          | some w => exact ⟨fun _ _ h => (by cases h), fun _ _ h => (by cases h), fun _ _ _ h => by cases h; exact hw⟩
          | none =>
            refine ⟨fun k' d h => ?_, fun _ _ h => (by cases h), fun _ _ _ h => (by cases h)⟩
            cases h
            obtain ⟨c1, c2, c3, c4, _⟩ := hw
            obtain ⟨s1, s2, s3⟩ := store_data k2 (rgnFlagged e) a data
            exact ⟨c1.trans s1, by rw [s2, c2], s3.trans c4, rfl⟩

/-- What a whole write can do. -/
theorem writeAcc_spec (k : Core) (b : Banner) (p : Port) (a : Nat) (data : List Byte) :
    (∀ k' d, k.writeAcc b p a data = .done k' d →
      DataOnly k k' ∧ k'.mem = memWrite k.mem a data ∧ k'.vreg = k.vreg ∧ d = []) ∧
    (∀ k' t, k.writeAcc b p a data = .wait k' t → k.Checked k') ∧
    (∀ k' r aux, k.writeAcc b p a data = .bad k' r aux → k.Checked k') := writeIf_spec k b p _ a data

end Sys2Proof.Machine

/-! ### Accesses depend on the data part of a core only -/

namespace Sys2Proof.Machine

/-- Core `j` with the regions and the data part of core `k`. -/
def Core.graft (j k : Core) : Core :=
  { j with rgn := k.rgn, mem := k.mem, flags := k.flags, badWord := k.badWord, badFlag := k.badFlag, wback := k.wback,
           fback := k.fback, eccFlag := k.eccFlag, ceCount := k.ceCount, eccAddr := k.eccAddr }

/-- The core of an outcome carried over. -/
def Acc.graft (j : Core) : Acc → Acc
  | .done k d => .done (j.graft k) d
  | .wait k t => .wait (j.graft k) t
  | .bad k r aux => .bad (j.graft k) r aux

theorem graft_fold (j : Core) (f : Core → Nat → Core) (h : ∀ k w, f (j.graft k) w = j.graft (f k w))
    (l : List (Nat × Bool)) (k : Core) :
    l.foldl (fun k p => f k p.1) (j.graft k) = j.graft (l.foldl (fun k p => f k p.1) k) := by
  induction l generalizing k with
  | nil => rfl
  | cons p l ih => simp only [List.foldl_cons, h, ih]

theorem graft_checkHits (j k : Core) (hit : Tbl Bool) :
    (j.graft k).checkHits hit = (j.graft (k.checkHits hit).1, (k.checkHits hit).2) :=
  Prod.ext (graft_fold j Core.corrected (fun _ _ => rfl) _ k) rfl

theorem graft_checkWords (j k : Core) (a n : Nat) :
    (j.graft k).checkWords a n = (j.graft (k.checkWords a n).1, (k.checkWords a n).2) := graft_checkHits j k _

theorem graft_checkPart (j k : Core) (ws : List Nat) :
    (j.graft k).checkPart ws = (j.graft (k.checkPart ws).1, (k.checkPart ws).2) := graft_checkHits j k _

theorem graft_checkFlags (j k : Core) (a n : Nat) :
    (j.graft k).checkFlags a n = (j.graft (k.checkFlags a n).1, (k.checkFlags a n).2) := by
  unfold Core.checkFlags
  simp only [show (j.graft k).badFlag = k.badFlag from rfl, graft_fold j Core.fcorrected (fun _ _ => rfl)]
  split <;> rfl

/-- The flag check of an access on a grafted core. -/
theorem graft_flagCheck (j k : Core) (f : Bool) (a n : Nat) :
    (if f = true then (j.graft k).checkFlags a n else (j.graft k, none)) =
      (j.graft (if f = true then k.checkFlags a n else (k, none)).1,
        (if f = true then k.checkFlags a n else (k, none)).2) := by
  split
  · exact graft_checkFlags j k a n
  · rfl

/-- A read is the same on every core with the same data and regions. -/
theorem graft_readAcc (j k : Core) (b : Banner) (p : Port) (a n : Nat) :
    (j.graft k).readAcc b p a n = (k.readAcc b p a n).graft j := by
  unfold Core.readAcc
  simp only [show (j.graft k).check b p a n = k.check b p a n from rfl]
  cases k.check b p a n with
  | error r => rfl
  | ok e =>
    simp only [graft_flagCheck]
    generalize (if rgnFlagged e = true then k.checkFlags a n else (k, none)) = x
    obtain ⟨k1, fbad⟩ := x
    cases fbad with
    | some w => rfl
    | none =>
      simp only [graft_checkWords, show (j.graft k1).flags = k1.flags from rfl]
      split
      · rfl
      · generalize k1.checkWords a n = y
        obtain ⟨k2, u⟩ := y
        cases u <;> rfl

/-- A write is the same on every core with the same data and regions. -/
theorem graft_writeAcc (j k : Core) (b : Banner) (p : Port) (a : Nat) (data : List Byte) :
    (j.graft k).writeAcc b p a data = (k.writeAcc b p a data).graft j := by
  unfold Core.writeAcc Core.writeIf
  simp only [show (j.graft k).check b p a data.length = k.check b p a data.length from rfl]
  cases k.check b p a data.length with
  | error r => rfl
  | ok e =>
    simp only [graft_flagCheck]
    split
    · rfl
    · generalize (if rgnFlagged e = true then k.checkFlags a data.length else (k, none)) = x
      obtain ⟨k1, fbad⟩ := x
      cases fbad with
      | some w => rfl
      | none =>
        simp only [show (j.graft k1).flags = k1.flags from rfl, graft_checkPart]
        split
        · rfl
        · generalize k1.checkPart (partWords a data.length) = y
          obtain ⟨k2, u⟩ := y
          cases u <;> rfl

end Sys2Proof.Machine
end

