-- ==== Sys2Proof/Laws/Control.lean ====
section
/-! SUPPORT. Laws of the control instructions: the sequential step depends only on the issue registers, and a control
instruction that completes has issued, stepped on, and left the rest of the module. -/

namespace Sys2Proof.Machine

open Sys2Proof.Safety

theorem loopBack_congr (n : Nat) (a b : Core) (h1 : a.pc = b.pc) (h2 : a.loops = b.loops) (h3 : a.lcs = b.lcs)
    (h4 : a.retStack = b.retStack) :
    (loopBack a n).pc = (loopBack b n).pc ∧ (loopBack a n).loops = (loopBack b n).loops ∧
    (loopBack a n).lcs = (loopBack b n).lcs := by
  induction n generalizing a b with
  | zero => simp [loopBack, *]
  | succ n ih =>
    have hi : a.innermost = b.innermost := by simp [Core.innermost, Core.openLevels, h2, h4]
    unfold loopBack
    rw [hi]
    split
    · simp [*]
    · rename_i i l _
      rw [h1]
      split
      · dsimp only
        split
        · exact ih _ _ (by simp [h1]) (by simp [h2]) (by simp [h3]) (by simp [h4])
        · simp [h2, h3]
      · simp [*]

theorem advance_congr (a b : Core) (h1 : a.pc = b.pc) (h2 : a.loops = b.loops) (h3 : a.lcs = b.lcs)
    (h4 : a.retStack = b.retStack) (h5 : a.fetchBuf = b.fetchBuf) :
    a.advance.pc = b.advance.pc ∧ a.advance.loops = b.advance.loops ∧ a.advance.lcs = b.advance.lcs := by
  unfold Core.advance
  apply loopBack_congr
  · simp [Core.keepLoops, h1]
  · simp [Core.keepLoops, h5, h2]
  · simp [Core.keepLoops, h3]
  · simp [Core.keepLoops, h4]

/-- A control instruction whose effect is on the constants and VFLAGS alone. -/
theorem completeControl_issued {op : Nat} (s : State) (c : Nat) (w : IWord) (f : Core → Core)
    (hp : Presented s c op w) (hf : SignalFits (s.core c) w)
    (h : ∀ k, ∃ a b, f k = { k with k := a, vflags := b }) :
    let t := (((s.setCore c ((s.core c).take w)).updCore c f).completeControl c (s.tagOf c w))
    Issued s t c w ∧ NextInOrder (s.core c) (t.core c) ∧ (t.core c).k = (f ((s.core c).take w)).k ∧
      (t.core c).vflags = (f ((s.core c).take w)).vflags := by
  intro t
  obtain ⟨a, b, hab⟩ := h ((s.core c).take w)
  have hcore : (((s.setCore c ((s.core c).take w)).updCore c f).updCore c Core.advance).core c
      = (f ((s.core c).take w)).advance := by simp
  have hcc : ∀ i, ccVal (f ((s.core c).take w)).advance i = ccWaited (s.core c) w i := by
    intro i
    rw [← take_cc _ _ hp.2.2.1]
    simp [ccVal, hab]
  obtain ⟨g1, g2, g3⟩ := signal_fits (((s.setCore c ((s.core c).take w)).updCore c f).updCore c Core.advance) c
    (s.tagOf c w) .control (by
      intro i hi
      rw [hcore, hcc]
      simp only [State.tagOf] at hi
      split at hi
      · cases hi; exact hf ‹_›
      · cases hi)
  have hadv := advance_congr (f ((s.core c).take w)) (s.core c) (by simp [hab]) (by simp [hab]) (by simp [hab])
    (by simp [hab]) (by simp [hab])
  have ht : t.core c = { (f ((s.core c).take w)).advance with cc := (t.core c).cc } := by
    rw [← hcore]; exact g2
  refine ⟨⟨((OnlyCore.setCore _ _ _).trans (OnlyCore.updCore _ _ _)).trans ((OnlyCore.updCore _ _ _).trans g1), ?_, ?_⟩, ?_, ?_, ?_⟩
  · have h1 : IssueOnly (s.core c) (f ((s.core c).take w)) := by
      refine (take_issueOnly (s.core c) w).trans ?_
      rw [hab]; rfl
    have h2 := h1.trans (advance_issueOnly _)
    unfold IssueOnly at *
    rw [ht, h2]
  · intro i
    have := g3 i
    rw [hcore, hcc, tagOf_sig] at this
    exact this
  · unfold NextInOrder
    rw [ht]
    exact ⟨hadv.1, hadv.2.1, hadv.2.2, by simp [hab], by simp [hab], by simp [hab]⟩
  · rw [ht]; simp
  · rw [ht]; simp

theorem tset_tset {α : Type} (t : Tbl α) (k : Nat) (v w : α) : tset (tset t k v) k w = tset t k w := by
  induction t with
  | nil => simp [tset]
  | cons p l ih => 
    obtain ⟨j, x⟩ := p
    simp only [tset]
    split
    · simp [tset]
    · split
      · simp [tset]
      · simp [tset, *]

theorem updCore_id (s : State) (c : Nat) (k : Core) : (s.setCore c k).updCore c id = s.setCore c k := by
  simp [State.updCore]
  simp [State.setCore, tset_tset]

theorem badIf_true (b : Bool) (r aux) (h : b = true) : badIf b r aux = some (r, aux) := by simp [badIf, h]
theorem badIf_false (b : Bool) (r aux) (h : b = false) : badIf b r aux = none := by simp [badIf, h]

theorem setkSimple_issues (s : State) (c : Nat) (w : IWord) (mode : Nat) (f : Core → Core) 
    (hp : Presented s c 0x06 w) (hm : wMod w 2 0 = mode) (hb : setkBad s c w mode (s.core c) = none) :
    setkSimple c w mode f s = ((s.setCore c ((s.core c).take w)).updCore c f).completeControl c (s.tagOf c w) := by
  unfold setkSimple setkRow
  rw [present_issues (h := hp) (hb := hb) (hr := rfl)]
  simp [hm]

theorem setCore_setCore (s : State) (c : Nat) (a b : Core) : (s.setCore c a).setCore c b = s.setCore c b := by
  simp [State.setCore, tset_tset]

/-- An instruction whose effect at issue is an update of its own core's issue registers, and its signal. -/
theorem issued_of (s : State) (c : Nat) (w : IWord) (f : Core → Core) (e : Engine) {op : Nat}
    (hp : Presented s c op w) (hf : SignalFits (s.core c) w)
    (hi : IssueOnly ((s.core c).take w) (f ((s.core c).take w))) (hc : (f ((s.core c).take w)).cc = ((s.core c).take w).cc) :
    let t := (s.setCore c (f ((s.core c).take w))).signal c (s.tagOf c w) e
    Issued s t c w ∧ t.core c = { f ((s.core c).take w) with cc := (t.core c).cc } := by
  intro t
  have hcc : ∀ i, ccVal ((s.setCore c (f ((s.core c).take w))).core c) i = ccWaited (s.core c) w i := by
    intro i
    rw [← take_cc _ _ hp.2.2.1]
    simp [ccVal, hc]
  obtain ⟨g1, g2, g3⟩ := signal_fits (s.setCore c (f ((s.core c).take w))) c (s.tagOf c w) e (by
      intro i hi
      rw [hcc]
      simp only [State.tagOf] at hi
      split at hi
      · cases hi; exact hf ‹_›
      · cases hi)
  refine ⟨⟨(OnlyCore.setCore _ _ _).trans g1, ?_, ?_⟩, ?_⟩
  · have h2 := (take_issueOnly (s.core c) w).trans hi
    have : t.core c = { f ((s.core c).take w) with cc := (t.core c).cc } := by
      rw [State.core_setCore] at g2; exact g2
    unfold IssueOnly at *
    rw [this, h2]
  · intro i
    have := g3 i
    rw [hcc, tagOf_sig] at this
    exact this
  · rw [State.core_setCore] at g2; exact g2

end Sys2Proof.Machine
end

