-- ==== Sys2Proof/Laws/Transport.lean ====
section
/-! SUPPORT. Laws of the command transport: what taking a command up and replying to it change, and that the reply is the
newest in its ring. -/

namespace Sys2Proof.Machine

open Sys2Proof.Safety

/-- The command leaves the list of accepted ones when it has begun and its reply follows. -/
theorem remFirst_updFirst (r : CmdRef) (a1 : Accepted) (h1 : a1.ref = r) (h2 : a1.started = true) (l : List Accepted)
    (hl : ∀ x ∈ l, x.ref = r → x.started = false) :
    remFirst (fun x => x.ref == r && x.started) (updFirst (fun x => x.ref == r && !x.started) (fun _ => a1) l) =
      remFirst (fun x => x.ref == r && !x.started) l := by
  induction l with
  | nil => rfl
  | cons x l ih =>
    have hx := hl x (by simp)
    have ih := ih fun y hy => hl y (by simp [hy])
    by_cases hr : x.ref = r
    · simp [updFirst, remFirst, hr, hx hr, h1, h2]
    · simp [updFirst, remFirst, hr, ih]

theorem find_updFirst (r : CmdRef) (a a1 : Accepted) (h1 : a1.ref = r) (h2 : a1.started = true) (l : List Accepted)
    (hl : ∀ x ∈ l, x.ref = r → x.started = false) (hf : l.find? (fun x => x.on r && !x.started) = some a) (ha : a.ref = r) :
    (updFirst (fun x => x.ref == r && !x.started) (fun _ => a1) l).find? (fun x => x.ref == r && x.started) = some a1 := by
  induction l with
  | nil => simp at hf
  | cons x l ih =>
    have hx := hl x (by simp)
    have ih := ih fun y hy => hl y (by simp [hy])
    by_cases hr : x.ref = r
    · simp [updFirst, hr, hx hr, h1, h2]
    · simp only [updFirst]
      rw [if_neg (by simp [hr])]
      rw [List.find?_cons] at hf ⊢
      simp only [beq_iff_eq, hr, Bool.false_and, beq_eq_false_iff_ne.mpr hr]
      split at hf
      · cases hf; exact absurd ha hr
      · exact ih hf

/-- Everything that taking up a command changes: the command has started. -/
theorem beginCmd_spec {s : State} {r : CmdRef} {op : Nat} {a : Accepted} (h : CmdReady s r op a) :
    s.beginCmd r op = some ({ a with started := true, begun := false },
      { s with accepted := (updFirst (fun x => x.ref == r && !x.started) (fun _ => { a with started := true, begun := false }) s.accepted) }) := by
  obtain ⟨hf, ha, hop, hd, hl, ho, hq, hr, hh⟩ := h
  have hn : (a.ordered && s.accepted.any fun b => b.on r && b.started) = false := by
    cases hao : a.ordered with
    | false => rfl
    | true =>
      simp only [Bool.true_and, List.any_eq_false]
      intro x hx
      cases hxo : x.on r with
      | false => simp
      | true => simp [ho hao x hx hxo]
  unfold State.beginCmd
  rw [hf]
  simp [ha, hop, hn, hr]

/-- A command that has replied in final form does not wait. -/
theorem pendOn_done {s : State} {r : CmdRef} (h : s.accepted.find? (fun a => a.ref == r && a.started) = none) : s.pendOn r = s := by
  unfold State.pendOn
  rw [h]

/-- Raising a vector touches the pending bits of its function alone. -/
theorem raiseIrq_frame (s : State) (f q : Nat) (irq : Bool) :
    s.raiseIrq f q irq = { s with fns := (s.raiseIrq f q irq).fns } ∧
    (s.raiseIrq f q irq).fn f = { s.fn f with pba := ((s.raiseIrq f q irq).fn f).pba } ∧
    (∀ g, g ≠ f → (s.raiseIrq f q irq).fn g = s.fn g) := by
  unfold State.raiseIrq
  dsimp only
  split
  · refine ⟨rfl, ?_, fun g hg => ?_⟩
    · simp [State.setFn, State.fn, tget_tset_same]
    · simp [State.setFn, State.fn, tget_tset_ne, hg]
  · exact ⟨rfl, rfl, fun _ _ => rfl⟩

/-- A reply changes its queue and the pending bits of its function, and nothing else. -/
theorem writeReply_fn {s : State} {f q : Nat} {op st : BitVec 16} {tag : BitVec 32} {p : Payload} {final replayed irq : Bool}
    (h : s.queueOn f q = true) :
    s.writeReply f q op st tag p final replayed irq = { s with fns := (s.writeReply f q op st tag p final replayed irq).fns } ∧
    ∃ b, (s.writeReply f q op st tag p final replayed irq).fn f = { s.fn f with
      queues := tset (s.fn f).queues q ((s.queue f q).put
        { opcode := op, status := st, tag := tag, phase := false, replayed := replayed, event := false, final := final,
          cmdHead := 0, payload := p } irq), pba := b } := by
  unfold State.writeReply
  rw [if_neg (by simp [h])]
  generalize hv : s.setQueue f q _ = v
  obtain ⟨h1, h2, _⟩ := raiseIrq_frame v f q irq
  refine ⟨by rw [h1, ← hv]; rfl, ((v.raiseIrq f q irq).fn f).pba, ?_⟩
  rw [h2, ← hv]
  simp [State.setQueue, State.setFn, State.fn, tget_tset_same]

/-- Everything that the one reply of a command that completes at once changes: the transport alone, and the reply is the
newest in its ring. -/
theorem finish_spec {s u : State} {r : CmdRef} {op : Nat} {a : Accepted} (h : CmdReady s r op a) (st : BitVec 16) (p : Payload)
    (hu : u.accepted = updFirst (fun x => x.ref == r && !x.started)
        (fun _ => { a with started := true, begun := false }) s.accepted) (hf : u.fns = s.fns) :
    Replied s (u.finish r st p) r op st p ∧ HostOnly u (u.finish r st p) := by
  obtain ⟨hfi, ha, hop, hd, hl, ho, hq, _, hh⟩ := h
  unfold State.finish
  rw [hu, remFirst_updFirst r { a with started := true, begun := false } ha rfl s.accepted hl,
    find_updFirst r a { a with started := true, begun := false } ha rfl s.accepted hl hfi ha]
  simp only [hd, Bool.false_eq_true, if_false]
  generalize hw : State.setQueue _ _ _ _ = w
  have hwq : w.queueOn r.fn.val r.queue.val = true := by
    subst hw
    unfold State.queueOn at hq ⊢
    split
    · rename_i h4; simpa [h4] using hq
    · rename_i h4
      rw [if_neg h4] at hq
      simp only [State.setQueue, State.queue, State.setFn, State.fn, tget_tset_same, hf]
      exact hq
  obtain ⟨h1, b, h2⟩ := writeReply_fn (s := w) (op := a.opcode) (st := st) (tag := r.tag) (p := p) (final := true)
    (replayed := false) (irq := a.irq) hwq
  have hheld : ((w.writeReply r.fn.val r.queue.val a.opcode st r.tag p true false a.irq).fn r.fn.val).held = [] := by
    rw [h2]
    subst hw
    simp [State.setQueue, State.queue, State.setFn, State.fn, tget_tset_same, hf]
    exact hh
  rw [hheld]
  simp only [List.length_nil, flushEvents]
  have hacc : (w.writeReply r.fn.val r.queue.val a.opcode st r.tag p true false a.irq).accepted =
      remFirst (fun x => x.ref == r && !x.started) s.accepted := by
    rw [h1, ← hw]; rfl
  have hop' : a.opcode = BitVec.ofNat 16 op := by rw [← hop]; simp
  refine ⟨⟨⟨hacc, ?_, ?_, ?_, ?_, ?_, ?_, ?_⟩, ?_⟩, ?_⟩
  all_goals first
    | (unfold HostOnly; rw [h1, ← hw]; rfl)
    | (simp only [newestReply, State.queue, h2, tget_tset_same, Queue.put, Queue.n, Nat.add_sub_cancel]
       try exact hop'
       try (subst hw; simp [State.setQueue, State.queue, State.setFn, State.fn, tget_tset_same, hf]))

end Sys2Proof.Machine
end

