-- ==== Sys2Proof/Laws/Vector.lean ====
section
/-! SUPPORT. Laws of the vector engine: whatever a V. instruction does, it touches data only (scratchpad, flags, check
bits, vector registers); the program, the counters, the other engines and the descriptors of its core stay. -/

namespace Sys2Proof.Machine

open Sys2Proof.Safety

/-- An execution step touches data only. -/
def VX.Data (x y : VX) : Prop := DataOnly x.k y.k

theorem VX.Data.refl (x : VX) : VX.Data x x := DataOnly.refl _
theorem VX.Data.trans {x y z : VX} (h : VX.Data x y) (g : VX.Data y z) : VX.Data x z := DataOnly.trans h g

theorem VX.Data.fold {α : Type} (f : VX → α → VX) (h : ∀ x a, VX.Data x (f x a)) (l : List α) (x : VX) :
    VX.Data x (l.foldl f x) := by
  induction l generalizing x with
  | nil => exact .refl x
  | cons a l ih => exact (h x a).trans (ih _)

theorem VX.Data.foldP {α β : Type} (f : VX × β → α → VX × β) (h : ∀ p a, VX.Data p.1 (f p a).1) (l : List α) (p : VX × β) :
    VX.Data p.1 (l.foldl f p).1 := by
  induction l generalizing p with
  | nil => exact .refl _
  | cons a l ih => exact (h p a).trans (ih _)

theorem VX.Data.ite {c : Prop} [Decidable c] {x a b : VX} (h : VX.Data x a) (g : VX.Data x b) :
    VX.Data x (if c then a else b) := by
  split <;> assumption

theorem VX.Data.iteP {β : Type} {c : Prop} [Decidable c] {x : VX} {a b : VX × β} (h : VX.Data x a.1)
    (g : VX.Data x b.1) : VX.Data x (if c then a else b).1 := by
  split <;> assumption

theorem VX.fail_data (x : VX) (r : BitVec 8) (aux : BitVec 64) : VX.Data x (x.fail r aux) := by
  unfold VX.fail
  split <;> rfl

theorem VX.newSlice_data (x : VX) : VX.Data x x.newSlice := rfl
theorem VX.ahead_data (x : VX) (l : List (VOpnd × Nat × Nat)) : VX.Data x (x.ahead l) := rfl
theorem VX.andThen_data (x : VX) (l : List (VOpnd × Nat × Nat)) : VX.Data x (x.andThen l) := rfl
theorem VX.breathe_data (x : VX) (g : Nat) : VX.Data x (x.breathe g) := by
  unfold VX.breathe
  split <;> rfl

theorem VX.readSlot_data (x : VX) (t : Nat) (as : List Nat) : VX.Data x (x.readSlot t as).1 := by
  unfold VX.readSlot
  split
  · exact .refl x
  · split
    · exact VX.fail_data x _ _
    · rename_i e _
      dsimp only
      split
      · split <;> rfl
      · have hc := (flagCheck_data x.k (rgnFlagged e) (t * 256) 256).1
        generalize (if rgnFlagged e = true then x.k.checkFlags (t * 256) 256 else (x.k, none)) = y at hc
        obtain ⟨k1, fbad⟩ := y
        cases fbad with
        | some w => exact DataOnly.trans hc (VX.fail_data _ _ _)
        | none =>
          refine VX.Data.iteP hc ?_
          · have h2 := DataOnly.trans hc (checkPart_data k1 (touchedWords as)).1
            split
            · exact DataOnly.trans h2 (VX.fail_data _ _ _)
            · refine DataOnly.trans h2 ?_
              split <;> rfl

theorem clearMarks_fold (l : List Nat) (k : Core) :
    DataOnly k (l.foldl (fun k w => k.clearMarks (w * 8) 8) k) := by
  induction l generalizing k with
  | nil => exact DataOnly.refl _
  | cons w l ih => exact DataOnly.trans (clearMarks_data k _ _) (ih _)

theorem VX.writeSlot_data (x : VX) (t : Nat) (bs : List Host.Cell) : VX.Data x (x.writeSlot t bs) := by
  unfold VX.writeSlot
  split
  · exact .refl x
  · dsimp only
    split
    · exact VX.fail_data x _ _
    · rename_i e _
      split
      · rfl
      · have hc := (flagCheck_data x.k (rgnFlagged e) (t * 256) 256).1
        generalize (if rgnFlagged e = true then x.k.checkFlags (t * 256) 256 else (x.k, none)) = y at hc
        obtain ⟨k1, fbad⟩ := y
        cases fbad with
        | some w => exact DataOnly.trans hc (VX.fail_data _ _ _)
        | none =>
          refine VX.Data.ite hc ?_
          · have h2 := DataOnly.trans hc (checkPart_data k1 (partialWords (distinct (bs.map (·.1))))).1
            generalize k1.checkPart (partialWords (distinct (bs.map (·.1)))) = z at h2
            obtain ⟨k2, u⟩ := z
            cases u with
            | some w => exact DataOnly.trans h2 (VX.fail_data _ _ _)
            | none =>
              refine DataOnly.trans (DataOnly.trans h2 (clearMarks_fold (touchedWords (distinct (bs.map (·.1)))) k2)) ?_
              dsimp only
              split <;> rfl

theorem VX.fetchBytes_data (x : VX) (l : List Nat) : VX.Data x (x.fetchBytes l).1 := by
  unfold VX.fetchBytes
  refine VX.Data.foldP _ (fun p t => ?_) _ (x, _)
  exact VX.readSlot_data p.1 t (l.filter fun a => a / 256 == t)

theorem VX.fetch_data (x : VX) (o : VOpnd) (is : List Nat) : VX.Data x (x.fetch o is).1 := by
  unfold VX.fetch
  split
  · exact .refl x
  · split
    · exact .refl x
    · exact .refl x
    · exact .refl x
    · exact .refl x
    · refine VX.Data.iteP (VX.fail_data _ _ _) ?_
      exact VX.Data.iteP (VX.fetchBytes_data _ _) (VX.fetchBytes_data _ _)

theorem VX.put_data (x : VX) (o : VOpnd) (rs : List (Nat × Nat)) : VX.Data x (x.put o rs) := by
  unfold VX.put
  split
  · exact .refl x
  · split
    · rfl
    · refine VX.Data.ite (VX.fail_data _ _ _) ?_
      exact VX.Data.fold _ (fun x t => VX.writeSlot_data x t _) _ _
    · exact .refl x

theorem VX.deliver_data (x : VX) (e : Bool) (o : VOpnd) (rs : List VRes) : VX.Data x (x.deliver e o rs) := by
  unfold VX.deliver
  split
  · exact .refl x
  · split
    · exact VX.put_data x o _
    · exact (VX.put_data x o _).trans (VX.fail_data _ _ _)

theorem VX.fetchAll_data (l : List (VOpnd × (Nat → Nat))) (is : List Nat) (x : VX) :
    VX.Data x (x.fetchAll l is).1 := by
  induction l generalizing x with
  | nil => exact .refl x
  | cons p l ih => exact (VX.fetch_data x p.1 _).trans (ih _)

theorem VX.elementwise_data (x : VX) (n wd : Nat) (ops : List (VOpnd × (Nat → Nat))) (d : VOpnd)
    (f : List Nat → Nat × Flags) : VX.Data x (x.elementwise n wd ops d f) := by
  unfold VX.elementwise
  exact VX.Data.fold _ (fun x is => (VX.fetchAll_data ops is (x.newSlice.ahead _)).trans (VX.deliver_data _ _ _ _)) _ _

theorem VX.fetchWhole_data (x : VX) (n wd : Nat) (ops : List (VOpnd × (Nat → Nat))) :
    VX.Data x (x.fetchWhole n wd ops).1 := by
  unfold VX.fetchWhole
  refine VX.Data.foldP _ (fun p is => ?_) _ (x, _)
  exact VX.fetchAll_data ops is p.1.newSlice

theorem VX.deliverAll_data (x : VX) (e : Bool) (wd : Nat) (o : VOpnd) (rs : List VRes) :
    VX.Data x (x.deliverAll e wd o rs) := by
  unfold VX.deliverAll
  exact VX.Data.fold _ (fun x is => VX.deliver_data (x.newSlice.ahead _) _ _ _) _ _

theorem fetchIdx_data (x : VX) (n wd L : Nat) (oob : Bool) (ops : List (VOpnd × (Nat → Nat))) :
    VX.Data x (fetchIdx x n wd L oob ops).1 := by
  unfold fetchIdx
  refine VX.Data.foldP _ (fun p is => ?_) _ (x, _)
  dsimp only
  refine (VX.fetchAll_data ops is p.1.newSlice).trans ?_
  split
  · exact VX.fail_data _ _ _
  · exact .refl _

/-! ### The plans -/

theorem planArith_data (kind : Nat) (w : IWord) (k : Core) (x : VX) : VX.Data x ((planArith kind w k).run x) :=
  VX.elementwise_data _ _ _ _ _ _
theorem planCmp_data (w : IWord) (k : Core) (x : VX) : VX.Data x ((planCmp w k).run x) :=
  VX.elementwise_data _ _ _ _ _ _
theorem planSelect_data (w : IWord) (k : Core) (x : VX) : VX.Data x ((planSelect w k).run x) :=
  VX.elementwise_data _ _ _ _ _ _
theorem planUnary_data (op : Nat) (w : IWord) (k : Core) (x : VX) : VX.Data x ((planUnary op w k).run x) :=
  VX.elementwise_data _ _ _ _ _ _

theorem planCvt_data (w : IWord) (k : Core) (x : VX) : VX.Data x ((planCvt w k).run x) := by
  unfold planCvt
  dsimp only
  split
  · refine VX.Data.fold _ (fun x is => ?_) _ _
    refine VX.Data.trans ((VX.Data.trans ?_ (VX.ahead_data _ _)).trans (VX.andThen_data _ _)) (VX.put_data _ _ _)
    refine VX.Data.trans ?_ (VX.Data.fold _ (fun x js => VX.deliver_data ((x.newSlice.ahead _).andThen _) _ _ _) _ _)
    refine VX.Data.foldP _ (fun p js => ?_) _ (x, _)
    exact VX.fetch_data p.1.newSlice _ _
  · split <;> exact VX.elementwise_data _ _ _ _ _ _

theorem planSum_data (w : IWord) (k : Core) (x : VX) : VX.Data x ((planSum w k).run x) := by
  unfold planSum
  dsimp only
  exact VX.Data.trans (VX.fetchWhole_data _ _ _ _) (VX.deliverAll_data _ _ _ _ _)
theorem planNorm_data (w : IWord) (k : Core) (x : VX) : VX.Data x ((planNorm w k).run x) := by
  unfold planNorm
  dsimp only
  exact VX.Data.trans (VX.fetchWhole_data _ _ _ _) (VX.deliverAll_data _ _ _ _ _)

theorem planRope_data (w : IWord) (k : Core) (x : VX) : VX.Data x ((planRope w k).run x) := by
  unfold planRope
  dsimp only
  refine VX.Data.trans ?_ (VX.deliverAll_data _ _ _ _ _)
  refine VX.Data.foldP _ (fun p is => ?_) _ (x, _)
  have h := VX.fetch_data p.1.newSlice
  refine VX.Data.iteP (VX.Data.trans (h _ _) (VX.fail_data _ _ _)) ?_
  refine VX.Data.iteP (VX.Data.trans (h _ _) (VX.fail_data _ _ _)) ?_
  exact VX.Data.trans (h _ _) (VX.fetchBytes_data _ _)

theorem planGather_data (w : IWord) (k : Core) (x : VX) : VX.Data x ((planGather w k).run x) := by
  unfold planGather
  dsimp only
  refine VX.Data.trans ?_ (VX.deliverAll_data _ _ _ _ _)
  refine VX.Data.trans (VX.Data.trans (fetchIdx_data _ _ _ _ _ _) (VX.newSlice_data _))
    (VX.Data.foldP _ (fun p is => ?_) _ (VX.newSlice _, _))
  exact VX.Data.iteP (VX.fail_data _ _ _) ((VX.breathe_data _ _).trans (VX.fetchBytes_data _ _))

theorem planScatter_data (w : IWord) (k : Core) (x : VX) : VX.Data x ((planScatter w k).run x) := by
  unfold planScatter
  dsimp only
  refine VX.Data.trans ?_
    (VX.Data.fold _ (fun x b => (VX.newSlice_data x).trans (VX.put_data _ _ _)) _ _)
  exact fetchIdx_data _ _ _ _ _ _

theorem planTopk_data (w : IWord) (k : Core) (x : VX) : VX.Data x ((planTopk w k).run x) := by
  unfold planTopk
  dsimp only
  exact VX.Data.trans ((((VX.fetchWhole_data _ _ _ _).trans (VX.andThen_data _ _)).trans
    (VX.deliverAll_data _ _ _ _ _)).trans (VX.andThen_data _ _)) (VX.deliverAll_data _ _ _ _ _)
theorem planSort_data (w : IWord) (k : Core) (x : VX) : VX.Data x ((planSort w k).run x) := by
  unfold planSort
  dsimp only
  exact VX.Data.trans ((((VX.fetchWhole_data _ _ _ _).trans (VX.andThen_data _ _)).trans
    (VX.deliverAll_data _ _ _ _ _)).trans (VX.andThen_data _ _)) (VX.deliverAll_data _ _ _ _ _)
theorem planRand_data (w : IWord) (k : Core) (x : VX) : VX.Data x ((planRand w k).run x) := by
  unfold planRand
  exact VX.deliverAll_data _ _ _ _ _

/-- Every plan of Table 9.1 touches data only. -/
theorem vPlan_data (op : Nat) (w : IWord) (k : Core) (x : VX) : VX.Data x ((vPlan op w k).run x) := by
  unfold vPlan
  split
  · exact planArith_data _ _ _ _
  · exact planArith_data _ _ _ _
  · exact planArith_data _ _ _ _
  · exact planArith_data _ _ _ _
  · exact planArith_data _ _ _ _
  · exact planArith_data _ _ _ _
  · exact planCmp_data _ _ _
  · exact planSelect_data _ _ _
  · exact planCvt_data _ _ _
  · exact planUnary_data _ _ _ _
  · exact planUnary_data _ _ _ _
  · exact planUnary_data _ _ _ _
  · exact planUnary_data _ _ _ _
  · exact planUnary_data _ _ _ _
  · exact planUnary_data _ _ _ _
  · exact planSum_data _ _ _
  · exact planNorm_data _ _ _
  · exact planRope_data _ _ _
  · exact planGather_data _ _ _
  · exact planScatter_data _ _ _
  · exact planTopk_data _ _ _
  · exact planSort_data _ _ _
  · exact planRand_data _ _ _

end Sys2Proof.Machine
end

