-- ==== Sys2Proof/Tests/Slice0.lean ====
section
/-! SUPPORT. Tests: a witness for the hypotheses of every statement, at the values where its clauses meet, and ill-formed
commands that the checks refuse. What the manual gives is taken from its tables and rules; a state that a test starts from is
small and stands for what its name says. -/

namespace Sys2Proof.Tests

open Sys2Proof.Machine Sys2Proof.Safety

set_option maxRecDepth 20000

/-! ### What the tests start from -/

def w0 : IWord :=
  { mod := 0, wCc := 0, wAmt := 0, sCc := 0, sEn := false, rsv := false, o0 := 0, o1 := 0, o2 := 0, o3 := 0, o4 := 0, o5 := 0 }

/-- A region entry over the whole scratchpad of a G-core, every permission, banner 0, no flags (Table 3.6). -/
def rgnAll : BitVec 128 := 0x3FF#128 <<< 64 ||| 0x18000#128 <<< 32
/-- The same region with flags that the vector engine's reads empty, grace 1. -/
def rgnFlag : BitVec 128 := rgnAll ||| 1#128 <<< 112 ||| 2#128 <<< 104 ||| 1#128 <<< 102

/-- A running core with the instruction address 0x1000 and one region. -/
def kRun : Core := { Core.reset with st := .running, pc := 0x1000, rgn := [(0, rgnAll)] }

/-- A valid local descriptor of count 1 at byte address `a` (Table 8.4). -/
def dLoc (a : Nat) : BitVec 384 :=
  1#384 <<< 363 ||| 1#384 <<< 64 ||| 1#384 <<< 80 ||| 1#384 <<< 96 ||| 1#384 <<< 112 ||| 1#384 <<< 128 ||| 1#384 <<< 144 |||
  BitVec.ofNat 384 a

/-- Core 0 is `k`, every other core is as after reset. -/
def sK (k : Core) : State := { State.reset with cores := [(0, k)] }
/-- Core 0 is `k` with the word of opcode `op` and fields `w` at its head. -/
def sOp (op : Nat) (w : IWord) (k : Core) : State := sK { k with fetchBuf := [(k.pc, .word (encodeWord op w))] }

/-- A running task of one round of 8 treads on cores 0 to 7 of hall 0 (load 0, task 1, banner 0). -/
def tRun : Task :=
  { (default : Task) with loadId := 0, id := 1, epoch := 1, st := .running, cores := [0, 1, 2, 3, 4, 5, 6, 7],
                          kinds := [{ (default : RoundKind) with length := 8, landing := 2 }] }

/-- A lane selector, a constant selector and an immediate selector (Table 8.3). -/
def selK (n : Nat) : BitVec 16 := BitVec.ofNat 16 (0xC000 + n)
def selI : BitVec 16 := 0xE000

/-! ### Queue and control -/

theorem test_step_takes_the_front : (step { State.reset with pending := [.dbg, .swr] }) =
    exec .dbg { State.reset with pending := [.swr] } := by rfl

theorem test_witness_nop :
    let s := sOp 0x00 { w0 with sEn := true, sCc := 15 } { kRun with cc := [(15, 0xFFFFFFFE)] }
    SignalFits (s.core 0) { w0 with sEn := true, sCc := 15 } ∧ Presented s 0 0x00 { w0 with sEn := true, sCc := 15 } ∧
    checkWord { w0 with sEn := true, sCc := 15 } 0 (List.replicate 6 .unused) = none := by
  unfold SignalFits Presented; decide

/-- Words of the SETK modes: destination K63, immediate 3, source K0 or descriptor 0. -/
def wSet (mode : Nat) : IWord :=
  { w0 with mod := BitVec.ofNat 8 mode, o0 := selK 63, o5 := 3, o1 := 0 }
def wNoImm (mode : Nat) (o1 : BitVec 16) : IWord := { w0 with mod := BitVec.ofNat 8 mode, o0 := selK 63, o1 := o1 }
def wFlag (mode : Nat) (v : BitVec 16) : IWord := { w0 with mod := BitVec.ofNat 8 mode, o0 := selK 0, o5 := v }

theorem test_witness_setk_set :
    let s := sOp 0x06 (wSet 0) kRun
    Presented s 0 0x06 (wSet 0) ∧ wMod (wSet 0) 2 0 = 0 ∧ setkBad s 0 (wSet 0) 0 (s.core 0) = none := by
  unfold Presented; decide
theorem test_witness_setk_add :
    let s := sOp 0x06 (wSet 1) kRun
    Presented s 0 0x06 (wSet 1) ∧ wMod (wSet 1) 2 0 = 1 ∧ setkBad s 0 (wSet 1) 1 (s.core 0) = none := by
  unfold Presented; decide
theorem test_witness_setk_copy :
    let w := wNoImm 2 (selK 0)
    let s := sOp 0x06 w kRun
    Presented s 0 0x06 w ∧ wMod w 2 0 = 2 ∧ setkBad s 0 w 2 (s.core 0) = none := by
  unfold Presented; decide
theorem test_witness_setk_load :
    let w := wNoImm 3 0
    let s := sOp 0x06 w { kRun with ad := [(0, dLoc 0x17FFFFC)] }
    Presented s 0 0x06 w ∧ wMod w 2 0 = 3 ∧ setkBad s 0 w 3 (s.core 0) = none ∧
    ∃ k1 d, ((s.core 0).take w).readAcc (s.coreBanner 0) .control ((s.core 0).baseOf w.o1) 4 = .done k1 d := by
  refine ⟨by unfold Presented; decide, by decide, by decide, ⟨_, _, rfl⟩⟩
theorem test_witness_setk_flags :
    let w := wNoImm 4 0
    let s := sOp 0x06 w kRun
    Presented s 0 0x06 w ∧ wMod w 2 0 = 4 ∧ setkBad s 0 w 4 (s.core 0) = none := by
  unfold Presented; decide
theorem test_witness_setk_flag_clear :
    let w := wFlag 5 0x3FF
    let s := sOp 0x06 w kRun
    Presented s 0 0x06 w ∧ wMod w 2 0 = 5 ∧ setkBad s 0 w 5 (s.core 0) = none := by
  unfold Presented; decide
theorem test_witness_setk_flag_set :
    let w := wFlag 6 0x3FF
    let s := sOp 0x06 w kRun
    Presented s 0 0x06 w ∧ wMod w 2 0 = 6 ∧ setkBad s 0 w 6 (s.core 0) = none := by
  unfold Presented; decide

theorem test_witness_waitcc :
    let w := { w0 with o0 := 15, o1 := selI, o5 := 3, wCc := 15, wAmt := 63 }
    let s := sOp 0x07 w { kRun with cc := [(15, 66)] }
    Presented s 0 0x07 w ∧
    checkWord w 0 ([.num 15, .sel [.konst, .imm], .unused, .unused] ++ immUse (isImm w.o1)) = none ∧
    SignalFits (s.core 0) w ∧ constOrImm (s.core 0) w w.o1 ≠ 0 ∧
    constOrImm (s.core 0) w w.o1 + (if w.wCc.toNat = ccIdx w.o0 then w.wAmt.toNat else 0) ≤
      ccVal (s.core 0) (ccIdx w.o0) := by
  unfold SignalFits Presented; decide
theorem test_witness_signal :
    let w := { w0 with o0 := 15, o1 := selI, o4 := 0xFFFF, o5 := 0xFFFF }
    let s := sOp 0x08 w kRun
    Presented s 0 0x08 w ∧
    checkWord w 0 ([.num 15, .sel [.konst, .imm], .unused, .unused] ++ immUse (isImm w.o1)) = none ∧
    constOrImm (s.core 0) w w.o1 ≠ 0 ∧
    (∀ i, ccWaited (s.core 0) w i + (if i = ccIdx w.o0 then constOrImm (s.core 0) w w.o1 else 0) + sigOf w i < 4294967296) := by
  refine ⟨by unfold Presented; decide, by decide, by decide, fun i => ?_⟩
  have h : sigOf { w0 with o0 := 15, o1 := selI, o4 := 0xFFFF, o5 := 0xFFFF } i = 0 := by simp [sigOf, w0]
  have h2 : ∀ k : Core, k.cc = [] → ccWaited k { w0 with o0 := 15, o1 := selI, o4 := 0xFFFF, o5 := 0xFFFF } i = 0 := by
    intro k hk; simp [ccWaited, ccVal, hk, tget, w0]
  rw [h, h2 _ rfl]
  split
  · decide
  · omega
theorem test_witness_fence :
    let w := { w0 with mod := 15 }
    let s := sOp 0x0B w kRun
    Presented s 0 0x0B w ∧ checkWord w 15 (List.replicate 6 .unused) = none ∧ SignalFits (s.core 0) w ∧
    (s.core 0).fenceMet (wMod w 3 0) = true := by
  unfold SignalFits Presented; decide

def wTo (a : BitVec 16) : IWord := { w0 with o5 := a }
def eight : List (BitVec 32) := [1, 2, 3, 4, 5, 6, 7, 8]

theorem test_witness_jump :
    let s := sOp 0x03 (wTo 0xFFF0) kRun
    Presented s 0 0x03 (wTo 0xFFF0) ∧
    checkWord (wTo 0xFFF0) 0 (List.replicate 4 .unused ++ [.half, .half]) (pcRsv (wTo 0xFFF0)) = none ∧
    jumpBad (s.core 0) (wImm (wTo 0xFFF0)) = false := by
  unfold Presented; decide
theorem test_witness_call :
    let s := sOp 0x04 (wTo 0x40) { kRun with retStack := eight.drop 1 }
    Presented s 0 0x04 (wTo 0x40) ∧
    checkWord (wTo 0x40) 0 (List.replicate 4 .unused ++ [.half, .half]) (pcRsv (wTo 0x40)) = none ∧
    (s.core 0).lastOfBody = false ∧ (s.core 0).retStack.length < 8 := by
  unfold Presented; decide
theorem test_witness_ret :
    let s := sOp 0x05 w0 { kRun with retStack := eight }
    Presented s 0 0x05 w0 ∧ checkWord w0 0 (List.replicate 6 .unused) = none ∧ (s.core 0).lastOfBody = false ∧
    (s.core 0).innermost = none ∧ (s.core 0).retStack = 1 :: eight.drop 1 := by
  unfold Presented; decide
theorem test_witness_call_depth :
    let s := sOp 0x04 (wTo 0x40) { kRun with retStack := eight }
    Presented s 0 0x04 (wTo 0x40) ∧ (s.core 0).lastOfBody = false ∧ 8 ≤ (s.core 0).retStack.length := by
  unfold Presented; decide
theorem test_witness_ret_depth :
    let s := sOp 0x05 w0 kRun
    Presented s 0 0x05 w0 ∧ (s.core 0).innermost = none ∧ (s.core 0).retStack = [] := by
  unfold Presented; decide
theorem test_witness_misaligned_target :
    pcRsv (wTo 1) = true ∧ Presented (sOp 0x03 (wTo 1) kRun) 0 0x03 (wTo 1) ∧
    Presented (sOp 0x04 (wTo 1) kRun) 0 0x04 (wTo 1) ∧
    let s := sK { kRun with fetchBuf := [(0x1000, .word (encodeWord 0x0C (wTo 1))), (0x1010, .word (encodeWord 0x09 w0))] }
    Presented s 0 0x0C (wTo 1) ∧ (s.core 0).following ≠ none := by
  unfold Presented; decide

theorem test_witness_loop :
    let w : IWord := { w0 with mod := 0, o0 := selI, o1 := 65535 }
    let v : IWord := { w with o4 := 0xFFFF, o5 := 0xFFFF }
    (Presented (sOp 0x02 w kRun) 0 0x02 w ∧
      checkWord w 3 ([.sel [.konst, .imm], .num 65535, .unused, .unused] ++ immUse (isImm w.o0)) = none ∧
      loopBad ((sOp 0x02 w kRun).core 0) (wMod w 1 0) w.o1.toNat = false ∧
      BitVec.ofNat 32 (constOrImm ((sOp 0x02 w kRun).core 0) w w.o0) = 0) ∧
    (Presented (sOp 0x02 v kRun) 0 0x02 v ∧
      checkWord v 3 ([.sel [.konst, .imm], .num 65535, .unused, .unused] ++ immUse (isImm v.o0)) = none ∧
      loopBad ((sOp 0x02 v kRun).core 0) (wMod v 1 0) v.o1.toNat = false ∧
      BitVec.ofNat 32 (constOrImm ((sOp 0x02 v kRun).core 0) v v.o0) ≠ 0) := by
  unfold Presented; decide

def lvl (n : BitVec 32) : LoopLvl := { count := n, first := 0xFF0, last := 0x1000, depth := 0, buf := [] }
theorem test_witness_loop_end :
    (kRun.lastOfBody = false) ∧
    (∀ n, { kRun with loops := [(0, lvl n)] }.innermost = some (0, lvl n) ∧ (lvl n).last = kRun.pc) ∧
    ({ { kRun with loops := [(0, lvl 1)] } with loops := tdel [(0, lvl 1)] 0 }.innermost = none) :=
  ⟨by decide, fun _ => ⟨rfl, rfl⟩, by decide⟩

theorem test_witness_land :
    let s := sOp 0x09 w0 kRun
    SignalFits (s.core 0) w0 ∧ Presented s 0 0x09 w0 ∧ checkWord w0 0 (List.replicate 6 .unused) = none := by
  unfold SignalFits Presented; decide
theorem test_witness_exit :
    let w := wTo 0x40
    let k := { kRun with loadId := some 0, ad := [(0, dLoc 0x17FFFF8)],
                         fetchBuf := [(0x1000, .word (encodeWord 0x0C w)), (0x1010, .word (encodeWord 0x09 w0))] }
    let s := { sK k with tasks := [{ tRun with tread := 7 }] }
    Presented s 0 0x0C w ∧ (s.core 0).following = some (.word (encodeWord 0x09 w0)) ∧ opcodeOf (encodeWord 0x09 w0) = 0x09 ∧
    s.lastTread 0 = true ∧ (s.core 0).lastOfBody = false ∧
    checkWord w 0 [.sel [.desc], .unused, .unused, .unused, .half, .half] (pcRsv w) = none ∧
    s.checkDesc 0 (s.core 0) w.o0 [0] = none ∧ (s.core 0).baseOf w.o0 % 8 = 0 ∧
    ∃ k1 d, ((s.core 0).take w).readAcc (s.coreBanner 0) .control ((s.core 0).baseOf w.o0) 8 = .done k1 d := by
  refine ⟨by unfold Presented; decide, by decide, by decide, by decide, by decide, by decide, by decide, by decide,
    ⟨_, _, rfl⟩⟩

theorem test_witness_until :
    let w (n : Nat) : IWord := { w0 with o0 := selI, o5 := BitVec.ofNat 16 n }
    let s (n : Nat) := { sOp 0x0A (w n) { kRun with loadId := some 0 } with tasks := [{ tRun with tread := 3 }] }
    (∀ n ∈ [2, 3, 4], SignalFits ((s n).core 0) (w n) ∧ Presented (s n) 0 0x0A (w n) ∧
      checkWord (w n) 0 ([.sel [.konst, .imm], .unused, .unused, .unused] ++ immUse (isImm (w n).o0)) = none ∧
      constOrImm ((s n).core 0) (w n) (w n).o0 = n) ∧ (s 0).treadOf 0 = 3 := by
  unfold SignalFits Presented; decide
theorem test_witness_until_boundary :
    let g : Tag := { ord := 0, pc := 0x1000, sig := some 3, tread := 0 }
    let s := sK { kRun with treadSt := .untilT 5 g }
    (s.core 0).st = .running ∧ (s.core 0).treadSt = .untilT 5 g ∧ ((s.core 0).cc = []) := by decide

theorem test_witness_halt :
    let w : IWord := { w0 with o4 := 0x1234, o5 := 0x5678 }
    Presented (sOp 0x01 w kRun) 0 0x01 w ∧ checkWord w 0 (List.replicate 4 .unused ++ [.half, .half]) = none := by
  unfold Presented; decide
theorem test_witness_illegal :
    let s := sOp 0xFF w0 kRun
    (s.core 0).mayIssue = true ∧ (s.core 0).head = some (.word (encodeWord 0xFF w0)) ∧
    assignedOp (opcodeOf (encodeWord 0xFF w0)) = false := by decide
theorem test_witness_fetch :
    (((sK kRun).core 0).st = .running ∧ nextFetch ((sK kRun).core 0).fetchBuf 32 ((sK kRun).core 0).pc = some 0x1000 ∧
      ∃ k1 d, ((sK kRun).core 0).readAcc ((sK kRun).coreBanner 0) .fetch 0x1000 16 = .done k1 d) ∧
    ∃ k1 r aux, (({ kRun with rgn := [] } : Core).readAcc ((sK kRun).coreBanner 0) .fetch 0x1000 16) = .bad k1 r aux :=
  ⟨⟨by decide, by decide, ⟨_, _, rfl⟩⟩, ⟨_, _, _, rfl⟩⟩
def refusedAt (wr : Bool) : RefusedAcc := { engine := .vector, ord := 0, part := 0, slot := 0, write := wr, pc := 0x1000, n := 1 }
theorem test_witness_flag_timeout :
    ((sK { kRun with refusals := [refusedAt true, refusedAt false] }).core 0).refusals ≠ [] ∧ kRun.st ≠ .halted := by
  decide

/-- SETK add wraps modulo 2^32 (R181). -/
theorem test_setk_add_wraps :
    ((xSetkAdd 0 (wSet 1) (sOp 0x06 (wSet 1) { kRun with k := [(63, 0xFFFFFFFF)] })).core 0).getK 63 = 2 := by decide
/-- CALL pushes PC + 16 (R185). -/
theorem test_call_pushes :
    let t := (xCall 0 (wTo 0x40) (sOp 0x04 (wTo 0x40) kRun)).core 0
    t.pc = 0x40 ∧ t.retStack = [0x1010] := by decide
/-- SETK in the reserved mode halts with 0x01 (R181). -/
theorem test_setk_reserved_mode :
    ((xSetkSet 0 (wSet 7) (sOp 0x06 (wSet 7) kRun)).core 0).reason = 0x01 := by decide

/-! ### Matrix -/

def tag0 (n : Nat) : Tag := { ord := n, pc := 0x1000, sig := some 3, tread := 0 }
def passOpen : Pass := { Pass.reset with isOpen := true }
/-- An M.RUN of one BF16 line of one row on set 0, half 0, at address 0 (`taken` lines of `n` taken). -/
def run1 (ord n taken : Nat) : AOp :=
  .run (tag0 ord) false false 0 8 8 1 1 n 0 0 0 3 taken 0 none

theorem test_witness_mscale :
    let w : IWord := { w0 with mod := 1, o0 := 0x1FF, o1 := 0x100, o2 := 0xFF }
    let s := sOp 0x24 w kRun
    (s.core 0).matAccepts = true ∧ Presented s 0 0x24 w ∧
    checkWord w 1 [.num 511, .num 511, .num 511, .unused, .unused, .unused] = none ∧
    ((s.core 0).pass (wMod w 0 0)).isOpen = false := by unfold Presented; decide
theorem test_witness_mrun :
    let w : IWord := { w0 with mod := 0, o0 := 0, o1 := 0x88, o2 := 4096, o4 := 512 }
    let s := sOp 0x21 w { kRun with ad := [(0, dLoc 0)], mat := { Matrix.reset with pass := [(0, passOpen)], xK := [(0, 8192)] } }
    (s.core 0).matAccepts = true ∧ Presented s 0 0x21 w ∧
    checkWord w 0x0F [.sel [.desc], .num 0xFF, .num 0xFFFF, .num 0x3FFF, .num 0x3FF, .unused] = none ∧
    s.checkDesc 0 (s.core 0) w.o0 [0] = none ∧ mRunBad 0 w (s.core 0) = none := by unfold Presented; decide
theorem test_witness_mdrain :
    let w : IWord := { w0 with mod := 0, o0 := 0, o1 := 1, o2 := 5 }
    let s := sOp 0x22 w { kRun with ad := [(0, dLoc 0), (1, dLoc 2048)],
                                    mat := { Matrix.reset with pass := [(0, { passOpen with hasRun := true, drainE := 127 })] } }
    (s.core 0).matAccepts = true ∧ Presented s 0 0x22 w ∧
    checkWord w 0x07 [.sel [.desc], scaleUse w.o2.toNat, .num 15, .unused, .unused, .unused] = none ∧
    s.checkDesc 0 (s.core 0) w.o0 [0] = none ∧
    (hasPlane w.o2.toNat = true → s.checkDesc 0 (s.core 0) w.o1 [0] = none) ∧ mDrainBad w (s.core 0) = none := by
  unfold Presented; decide
theorem test_witness_mclear :
    let w : IWord := { w0 with mod := 1 }
    let s := sOp 0x23 w kRun
    (s.core 0).matAccepts = true ∧ Presented s 0 0x23 w ∧ checkWord w 0x01 (List.replicate 6 .unused) = none := by
  unfold Presented; decide

theorem test_witness_mflight :
    let w (m q : Nat) : IWord := { w0 with mod := BitVec.ofNat 8 m, o1 := BitVec.ofNat 16 q }
    let s (m q : Nat) := sOp 0x25 (w m q) { kRun with ad := [(0, dLoc 2048)] }
    ∀ x ∈ [(0, 1), (0, 4), (1, 1), (1, 128)], ((s x.1 x.2).core 0).matAccepts = true ∧
      Presented (s x.1 x.2) 0 0x25 (w x.1 x.2) ∧ wMod (w x.1 x.2) 1 0 = x.1 ∧
      checkWord (w x.1 x.2) 0x03 [.sel [.desc], .num 0xFF, .unused, .unused, .unused, .unused] = none ∧
      (s x.1 x.2).checkDesc 0 ((s x.1 x.2).core 0) (w x.1 x.2).o0 [0] = none ∧ (w x.1 x.2).o1.toNat = x.2 ∧
      tileAligned 0 (((s x.1 x.2).core 0).baseOf (w x.1 x.2).o0) = true := by unfold Presented; decide
theorem test_witness_mflight_uniform :
    let w : IWord := { w0 with mod := 2, o5 := 0xFF }
    let s := sOp 0x25 w kRun
    Presented s 0 0x25 w ∧ wMod w 1 0 = 2 ∧
    checkWord w 0x03 [.unused, .unused, .unused, .unused, .half, .half] (fieldOf (wImm w).toNat 31 8 != 0) = none := by
  unfold Presented; decide
theorem test_witness_mloadx :
    let w : IWord := { w0 with o0 := 0, o2 := 8, o3 := 8192, o4 := 8 }
    let s := sOp 0x20 w { kRun with ord := 1, ad := [(0, dLoc 2048)], mat := { Matrix.reset with aq := [run1 0 4 0] } }
    (s.core 0).matAccepts = true ∧ Presented s 0 0x20 w ∧ LoadxPasses s 0 w ∧
    (∃ a ∈ (s.core 0).mat.aq, a.done = false ∧ a.tag.ord < (s.core 0).ord ∧
        ∃ g st b fa fb gg m l ko sa sb an tk fl sc,
          a = .run g st (wMod w 0 0 == 1) b fa fb gg m l ko sa sb an tk fl sc) := by
  refine ⟨by decide, by unfold Presented; decide, by unfold LoadxPasses; decide,
    ⟨run1 0 4 0, by decide, by decide, by decide, tag0 0, false, 0, 8, 8, 1, 1, 4, 0, 0, 0, 3, 0, 0, none, by decide⟩⟩

def kLine (v : BitVec 10) (m : Mem) : Core :=
  { kRun with vflags := v, mem := m, mat := { Matrix.reset with aq := [run1 0 1 0], xLive := [(0, 1)] } }
theorem test_witness_array_line :
    let s := sK (kLine 0 [])
    (s.core 0).engineOn = true ∧ (s.core 0).mat.aq.find? (fun a => !a.done) = some (run1 0 1 0) ∧
    (s.core 0).begun 0 = true ∧ runFree (s.core 0) 0 false false = true ∧
    (∃ k1 d, (s.core 0).readAcc (s.coreBanner 0) .matrixR (lineAddr 0 0 0) (lineBytes 0 8 8) = .done k1 d) ∧
    ∀ l, trapOf (s.core 0).vflags l = none :=
  ⟨by decide, by decide, by decide, by decide, ⟨_, _, rfl⟩, fun _ => rfl⟩
def flight1 : AOp := .flight (tag0 0) .uniform 0 0 0x7F 1 0
theorem test_witness_array_line_uniform :
    let s := sK { kRun with mat := { Matrix.reset with aq := [flight1] } }
    (s.core 0).mat.aq.find? (fun a => !a.done) = some flight1 ∧ (s.core 0).begun 0 = true := by decide
theorem test_witness_array_line_trap :
    let s := sK (kLine 0x200 [(0, 0x80), (1, 0x7F)])
    ∃ k1 d, (s.core 0).readAcc (s.coreBanner 0) .matrixR (lineAddr 0 0 0) (lineBytes 0 8 8) = .done k1 d ∧
      trapOf (s.core 0).vflags (lineSum 0 (s.core 0).mat 0 0 8 8 1 1 0 0 0 0 3 d).2 = some (0x51, 0, 0) :=
  ⟨_, _, rfl, by decide⟩

/-- With one candidate the order leaves no choice. -/
theorem matOrder_one (s : State) (c : Nat) (x : MCand) (h : matCands (s.core c) = [x]) : s.matOrder c = [x] := by
  simp [State.matOrder, h, Nat.mod_one]
def drain1 (snapped : Bool) : DOp := .drain (tag0 0) false false false 0 none 8 0 3 1 1 snapped 0 0
theorem test_witness_drain_snapshot :
    let s := sK { kRun with mat := { Matrix.reset with dq := [drain1 false] } }
    (s.core 0).engineOn = true ∧ (s.core 0).mat.dq = [drain1 false] ∧ (s.core 0).begun 0 = true ∧
    drainFree (s.core 0) 0 false = true := by decide
theorem test_witness_clear_completes :
    let s := sK { kRun with mat := { Matrix.reset with dq := [.clear (tag0 0) true none false] } }
    s.matOrder 0 = [.d (.clear (tag0 0) true none false)] ∧ TagFits (s.core 0) (tag0 0) :=
  ⟨matOrder_one _ _ _ rfl, by intro i h; cases h; decide⟩
theorem test_witness_run_completes :
    let s := sK { kRun with mat := { Matrix.reset with aq := [run1 0 1 1] } }
    s.matOrder 0 = [.a (run1 0 1 1)] := matOrder_one _ _ _ rfl
def load1 : XOp := { tag := tag0 0, half := true, src := 0, scale := none, fmtB := 8, k := 8, cols := 8, reads := 0, copied := false }
theorem test_witness_load_completes :
    let s := sK { kRun with mat := { Matrix.reset with xq := [load1] } }
    s.matOrder 0 = [.x load1] ∧ ∃ k1, loadHalf 0 (s.coreBanner 0) load1 (load1.accesses 0) (s.core 0) = .done k1 [] :=
  ⟨matOrder_one _ _ _ rfl, ⟨_, rfl⟩⟩
theorem test_witness_exact_sums :
    (arrProduct 3 { v := .num false 3 0, beyond := false } { v := .num true 5 (-2), beyond := false } =
      .fin (-(15 * 2 ^ 35)) false) := by rfl

/-- A drain's snapshot empties the set and keeps the other (R113). -/
theorem test_drain_snapshot :
    let k := { kRun with mat := { Matrix.reset with dq := [drain1 false], acc := [(0, [(5, Lane.zero)]), (1, [(6, Lane.zero)])] } }
    let t := (xDrainSnapshot 0 (sK k)).core 0
    t.mat.drainBuf = [(5, Lane.zero)] ∧ t.mat.acc = [(0, []), (1, [(6, Lane.zero)])] := by decide

/-! ### Vector and set -/

/-- A descriptor of 65 words from address 0 (stride 4). -/
def dTab : BitVec 384 := dLoc 0 ||| 64#384 <<< 64 ||| 4#384 <<< 160
/-- An instruction over 64 elements: destination V0, sources V1, V2; `o4`, `o5` and the function as given. -/
def vw (o2 fn o4 o5 : BitVec 16) : IWord :=
  { w0 with o0 := 0x4006, o1 := 0x4406, o2 := o2, o3 := fn * 4096 + 64, o4 := o4, o5 := o5 }
/-- One word of every V. instruction that passes its checks (Table 9.6). -/
def vWords : List (Nat × IWord) :=
  [0x40, 0x41, 0x42, 0x44, 0x45, 0x46].map (fun op => (op, vw 0x4806 0 0 0)) ++
  [(0x43, vw 0x4806 0 0x4C06 0), (0x47, vw 0x4806 0 0x4C06 0), (0x48, vw 0 0 0xAB 0)] ++
  [0x49, 0x4A, 0x4B, 0x4C, 0x4D, 0x4E].map (fun op => (op, vw 0 0 0 0)) ++
  [(0x4F, vw 64 0 0 0), (0x50, vw 0 0 0x8000 64), (0x51, vw 0 0 0x4406 64), (0x52, { vw 0x4806 5 0 0 with o1 := 0 }),
   (0x53, { vw 0x4806 5 0 0 with o0 := 0 }), (0x54, vw 0x4806 0 64 1), (0x55, vw 0x4806 0 0 64),
   (0x56, { vw 0 0 0 0 with o1 := 0x4402 })]
def kV : Core := { kRun with ad := [(0, dTab)] }

theorem test_witness_vector_checks :
    vWords.all (fun p => decide (vChecks (sOp p.1 p.2 kV) 0 p.1 p.2 ((sOp p.1 p.2 kV).core 0) = none)) = true := by decide
theorem test_witness_vector_presented :
    ∀ p ∈ vWords, Presented (sOp p.1 p.2 kV) 0 p.1 p.2 ∧ ((sOp p.1 p.2 kV).core 0).vq = [] := by unfold Presented; decide
theorem test_witness_vector_rows :
    vWords.all (fun p => (vectorRows 0 p.2).any fun r => r.2 == p.1) = true := by decide
/-- A source in the scratchpad, with one element. -/
def wMem : IWord := { w0 with o0 := 0x4006, o1 := 0, o2 := 0x4806, o3 := 1 }
theorem test_witness_vector_runs :
    ((vPlan 0x40 (vw 0x4806 0 0 0) kV).run (vBegin kV 0 0)).stop = .go ∧
    (vChecks (sOp 0x40 wMem kV) 0 0x40 wMem ((sOp 0x40 wMem kV).core 0) = none ∧
      ((vPlan 0x40 wMem { kV with rgn := [] }).run (vBegin { kV with rgn := [] } 0 0)).stop = .bad 0x10 0) := by decide
def pend0 : VPend := { tag := tag0 0, flags := 0x41, old := [], dsts := [], uses := [], todo := none }
theorem test_witness_vector_completion :
    let s := sK { kRun with vq := [pend0] }
    (s.core 0).engineOn = true ∧ (s.core 0).vq = [pend0] ∧ TagFits (s.core 0) pend0.tag :=
  ⟨by decide, by decide, by intro i h; cases h; decide⟩
theorem test_witness_register_lanes :
    let w := vw 0x4806 0 0 0
    (vCf w = 0xA ∨ vCf w = 0xB) ∧ bitA w = false ∧ bitB w = false ∧ bitD w = false ∧ vN w ≤ 64 ∧
    selKind w.o0.toNat = .vreg ∧ selKind w.o1.toNat = .vreg ∧ selKind w.o2.toNat = .vreg ∧
    (vBegin kV 0 0).k.vflags.getLsbD 9 = false ∧ (vBegin kV 0 0).stop = .go := by decide
theorem test_witness_integer_add :
    2147483647 < (0x7FFFFFFF#32).toInt + (1#32).toInt ∧ (0x80000000#32).toInt + (0xFFFFFFFF#32).toInt < -2147483648 := by
  decide
theorem test_witness_ranking : 1 + 1 < (ranked true [Val.zero, Val.nan false, Val.zero]).length ∧
    ranked true [Val.zero, Val.nan false, Val.zero] = [0, 2, 1] := by decide

/-- V.ADD of two FP32 lanes: 1.0 + 2.0 = 3.0 (R101). -/
theorem test_vadd_lane :
    let k := { kV with vreg := [(64, 0x3F800000), (128, 0x40000000)] }
    tget 0 ((vPlan 0x40 (vw 0x4806 0 0 0) k).run (vBegin k 0 0)).k.vreg 0 = 0x40400000 := by decide
/-- V.MAX of two INT32 lanes compares them as signed numbers (R101). -/
theorem test_vmax_signed :
    let w := { vw 0x4806 0 0 0 with mod := 0x30 }
    let k := { kV with vreg := [(64, 0xFFFFFFFF), (128, 1)] }
    tget 0 ((vPlan 0x44 w k).run (vBegin k 0 0)).k.vreg 0 = 1 := by decide

/-! ### Stream -/

/-- Descriptors of count 1: near tier at 0, own scratchpad at `a`. -/
def dNear : BitVec 384 := dLoc 0 ||| 1#384 <<< 352
def dDie : BitVec 384 := dLoc 0 ||| 3#384 <<< 352 ||| 1#384 <<< 32
/-- Descriptor 0 the scratchpad at 64, 1 the near tier, 2 the scratchpad at 0, 3 core 1 of the die. -/
def kS : Core := { kRun with loadId := some 0, ad := [(0, dLoc 64), (1, dNear), (2, dLoc 0), (3, dDie)] }
def sS (op : Nat) (w : IWord) : State := { sOp op w kS with tasks := [tRun] }
/-- One 64-byte element, due `d`. -/
def sw (o0 o1 o2 mod : Nat) (d : Nat) : IWord :=
  { w0 with mod := BitVec.ofNat 8 mod, o0 := BitVec.ofNat 16 o0, o1 := BitVec.ofNat 16 o1, o2 := BitVec.ofNat 16 o2,
            o3 := BitVec.ofNat 16 (d * 4096) }
def transferWords (d : Nat) : List (Nat × Nat × IWord) :=
  [(0x60, 0xE0, sw 0 1 0 0 d), (0x61, 0xE0, sw 0 0xC000 0 0 d), (0x62, 0xF0, sw 0 1 2 0 d), (0x63, 0xF0, sw 1 0 2 0 d),
   (0x64, 0xFC, sw 1 0 0 0 d)]

theorem test_witness_transfers :
    ∀ d ∈ [1, 15], ∀ p ∈ transferWords d, (((sS p.1 p.2.2).core 0).sAccepts = true ∧ Presented (sS p.1 p.2.2) 0 p.1 p.2.2) ∧
      sChecks (sS p.1 p.2.2) 0 p.1 p.2.2 p.2.1 ((sS p.1 p.2.2).core 0) = none := by unfold Presented; decide
theorem test_witness_pennant_issue :
    ∀ m ∈ [0, 1, 2, 3], let w : IWord := { w0 with mod := BitVec.ofNat 8 (m + 0x60), o0 := if m = 1 ∨ m = 2 then 2 else 0 }
      wMod w 1 0 = m ∧ Presented (sS 0x65 w) 0 0x65 w ∧ penChecks (sS 0x65 w) 0 w m ((sS 0x65 w).core 0) = none := by
  unfold Presented; decide
theorem test_witness_no_due :
    ∀ p ∈ transferWords 0, fieldOf p.2.2.o3.toNat 15 12 = 0 ∧
      sChecks (sS p.1 p.2.2) 0 p.1 p.2.2 p.2.1 ((sS p.1 p.2.2).core 0) = some (0x0A, 0) := by decide

def endLoc (a : Nat) : StreamEnd := { kind := .loc, base := a, counts := [1], strides := [], slot := 0, core := 0 }
def endNear (o : Nat) : StreamEnd := { kind := .near, base := o, counts := [1], strides := [], slot := 0, core := 0 }
def endDie : StreamEnd := { kind := .die, base := 0, counts := [1], strides := [], slot := 0, core := 1 }
def instr (op : StreamOp) (src dst : StreamEnd) (n : Nat) : StreamInstr :=
  { tag := tag0 7, op := op, src := src, dst := dst, idx := none, n := 1, esz := 64, due := 1, issueAt := 0, oob := false,
    pn := none, link := 0, next := n, got := [], ixGot := none, doneCount := 0 }
def partG : Part := { Part.reset with granules := [33] }
/-- Banner 0 owns granule 33, on stack 1, with one entry of its wheel. -/
def sNear (k : Core) : State :=
  { sK k with parts := [(0, partG)], stackTbl := [(1, { Stack.reset with wheel := [(15, some 0)] })], tasks := [tRun] }
def sGen (i : StreamInstr) : State := sNear { kS with sq := [i] }

theorem test_witness_generate_fill :
    let i := instr (.fill 1 2) (endLoc 0) (endLoc 64) 0
    ((sGen i).core 0).engineOn = true ∧ ((sGen i).core 0).generating = some i ∧
    ((sGen i).core 0).elems.length < entriesOf 0 ∧ i.idx = none ∧
    (sGen i).endBad 0 i.dst true (endAddr i.dst none i.next) i.esz i.next = none := by decide
theorem test_witness_generate_near :
    let i := instr .copy (endNear 0) (endLoc 64) 0
    ((sGen i).core 0).generating = some i ∧
    (sGen i).endBad 0 i.src false (endAddr i.src none i.next) i.esz i.next = none ∧
    (sGen i).endBad 0 i.dst true (endAddr i.dst none i.next) i.esz i.next = none := by decide
theorem test_witness_generate_die :
    let i := instr .copy endDie (endLoc 64) 0
    ((sGen i).core 0).generating = some i ∧
    (sGen i).endBad 0 i.src false (endAddr i.src none i.next) i.esz i.next = none ∧
    (sGen i).endBad 0 i.dst true (endAddr i.dst none i.next) i.esz i.next = none := by decide

def elem (st : ElemStage) (src dst : Nat) (data : List Byte) : Elem :=
  { ord := 7, elem := 0, stage := st, src := src, dst := dst, data := data, written := 0, oob := false, wait := [], parts := [],
    ue := none }
theorem test_witness_near_request :
    ∀ wr ∈ [false, true],
      let i := if wr then instr .copy (endLoc 0) (endNear 0) 1 else instr .copy (endNear 0) (endLoc 0) 1
      let e := elem .nearReq 0 0 []
      let s := sNear { kS with sq := [i], elems := [e] }
      (s.core 0).sq.find? (fun y => y.tag.ord == 7) = some i ∧
      (s.core 0).elems.find? (fun y => y.ord == 7 && y.elem == e.elem) = some e ∧ e.stage = .nearReq ∧
      s.nearAt (s.coreBanner 0) 0 = some (33, 0) ∧ stackOf 33 = 1 ∧ wheelShare (s.stack 1) (s.coreBanner 0) ≠ 0 ∧
      (s.stack 1).resetBusy = false ∧ nearSide i e = some (0, wr) := by decide
def bytes64 : List Byte := List.replicate 64 7
theorem test_witness_element_completes :
    let i := instr .copy (endLoc 0) (endNear 0) 1
    let j := instr .copy (endNear 0) (endLoc 64) 1
    let e := elem .served 0 64 bytes64
    (∀ x ∈ [i, j], (({ kS with sq := [x], elems := [e] } : Core).engineOn = true ∧ e.canComplete = true ∧
      x.n ≤ x.doneCount + 1 ∧ (x.op = .copy))) ∧ i.dst.kind ≠ .loc ∧ j.dst.kind = .loc ∧ e.ue = none ∧
    ∃ k1, writeElem { kS with sq := [j], elems := [e] } 0 e.dst e.data (e.data.length / 64 + 2) e.written =
      (k1, e.data.length, none) := by
  refine ⟨by decide, by decide, by decide, by decide, ⟨_, rfl⟩⟩
theorem test_witness_written_elements :
    Mem.wf ([(0, 1), (5, 2)] : Mem) = true ∧
    ∃ k1 w, writeElem { kS with mem := [(0, 1), (5, 2)] } 0 64 bytes64 3 0 = (k1, w, none) ∧ w = bytes64.length :=
  ⟨by decide, ⟨_, _, rfl, by decide⟩⟩

def pen (m : BitVec 2) : StreamInstr := { instr (.pennant m 5) (endLoc 0) (endLoc 0) 0 with pn := some 3 }
theorem test_witness_pennants :
    ∀ m ∈ [(0 : BitVec 2), 1, 2, 3], let s := sK { kS with sq := [pen m] }
      (s.core 0).engineOn = true ∧ (s.core 0).sq.find? (fun y => y.tag.ord == 7) = some (pen m) ∧
      (pen m).op = .pennant m 5 ∧ (pen m).pn = some 3 ∧ (s.core 0).generating.map (·.tag.ord) = some 7 ∧
      (s.core 0).sq.any (fun x => decide (x.tag.ord < (pen m).tag.ord) && x.pn == some 3) = false := by decide
theorem test_witness_pennant_memory :
    (∃ k1 d, kS.readAcc 0 .streamR 0 16 = .done k1 d) ∧
    ∃ k1 x, kS.writeAcc 0 .streamW 0 (leBytes 8 0 ++ leBytes 6 0 ++ leBytes 2 0) = .done k1 x := ⟨⟨_, _, rfl⟩, ⟨_, _, rfl⟩⟩

/-- The check value of the digest over "123456789" (R163). -/
theorem test_crc64 : crc64 0 [0x31, 0x32, 0x33, 0x34, 0x35, 0x36, 0x37, 0x38, 0x39] = 0x6C40DF5F0B497347 := by decide

/-! ### Message and mesh -/

def dDie0 : BitVec 384 := dLoc 0 ||| 3#384 <<< 352
def dRem : BitVec 384 := dLoc 0 ||| 4#384 <<< 352 ||| 256#384 <<< 32
/-- Descriptors of kS, 4 the own core as a die end, 5 core 0 of the module at fabric address 1. -/
def kX : Core := { kS with ad := kS.ad ++ [(4, dDie0), (5, dRem)] }
def sX (op : Nat) (w : IWord) : State := { sOp op w kX with tasks := [tRun] }
/-- Source descriptor 2, end `o1`, counter 15, mask 0b11, 16 or 64 bytes. -/
def xw (o1 mask n : Nat) : IWord :=
  { w0 with o0 := 2, o1 := BitVec.ofNat 16 o1, o2 := 15, o3 := BitVec.ofNat 16 n, o5 := BitVec.ofNat 16 mask }

theorem test_witness_send : ∃ d, Begins (sX 0x80 (xw 3 0 0)) 0 0x80 (xw 3 0 0) 0 d :=
  ⟨_, by unfold Presented; decide, by decide, by decide, by decide, ⟨_, rfl⟩, ⟨_, rfl⟩⟩
theorem test_witness_cast :
    let w : IWord := { xw 4 3 31 with mod := 0 }
    ∃ d, Begins (sX 0x81 w) 0 0x81 w 0x01 d :=
  ⟨_, by unfold Presented; decide, by decide, by decide, by decide, ⟨_, rfl⟩, ⟨_, rfl⟩⟩
theorem test_witness_reduce :
    (∃ d, Begins (sX 0x82 (xw 3 3 0)) 0 0x82 (xw 3 3 0) 0x3F d) ∧
    (∃ d, Begins (sX 0x83 (xw 4 3 0)) 0 0x83 (xw 4 3 0) 0x3F d) ∧
    ((sX 0x82 (xw 3 3 0)).core 0).redIn = [] ∧ (farEnd (sX 0x82 (xw 3 3 0)) 0 (xw 3 3 0)).core % 256 ≠ 0 ∧
    (farEnd (sX 0x83 (xw 4 3 0)) 0 (xw 4 3 0)).core % 256 = 0 :=
  ⟨⟨_, by unfold Presented; decide, by decide, by decide, by decide, ⟨_, rfl⟩, ⟨_, rfl⟩⟩,
   ⟨_, by unfold Presented; decide, by decide, by decide, by decide, ⟨_, rfl⟩, ⟨_, rfl⟩⟩, by decide, by decide, by decide⟩
def man2 : Manifest :=
  { rows := 1, columns := 2, masterA := 0, masterB := 0, revision := 0, bytes := [],
    recs := [default, { (default : ManRec) with present := true }] }
def lnk1 : LinkEntry := { kind := 0, tread := 0, link := 0, twoHops := false, flits := 1, dest := 1, offset := 3 }
theorem test_witness_remote_send :
    let w := xw 5 0 3
    let s := { sX 0x80 w with manifest := some man2, tasks := [{ tRun with members := [0, 1], links := [lnk1] }] }
    Presented s 0 0x80 w ∧ xChecks s 0 0x80 w 0 (s.core 0) = none ∧ (s.core 0).xwait = [] ∧ xRemote (s.core 0) w = true ∧
    (∃ d, SourceReads s 0 w d) ∧
    (farEnd s 0 w).core / 256 ≠ s.modAddr ∧ s.entryOk 0 (xSlot w) (flitsOf (xLen w)) = some lnk1 :=
  ⟨by unfold Presented; decide, by decide, by decide, by decide, ⟨_, ⟨_, rfl⟩, ⟨_, rfl⟩⟩, by decide, by decide⟩

theorem test_witness_expect :
    let w : IWord := { w0 with o0 := 15, o1 := selI, o2 := selK 0, o5 := 4 }
    Presented (sX 0x84 w) 0 0x84 w ∧ expectChecks (sX 0x84 w) 0 w ((sX 0x84 w).core 0) = none ∧
    ((sX 0x84 w).core 0).xwait = [] ∧ ((sX 0x84 w).core 0).expects.length < 8 := by unfold Presented; decide
def xwait1 : XWait := { tag := tag0 0, op := 0x80, word := w0, k := [], issued := 0, got := [] }
theorem test_witness_message_waits :
    ∀ p ∈ [(0x80, 0, xw 3 0 0), (0x81, 1, xw 4 3 0), (0x82, 0x3F, xw 3 3 0), (0x83, 0x3F, xw 3 3 0)],
      let s := { sOp p.1 p.2.2 { kX with xwait := [xwait1, xwait1, xwait1] } with tasks := [tRun] }
      Presented s 0 p.1 p.2.2 ∧ xChecks s 0 p.1 p.2.2 p.2.1 (s.core 0) = none ∧ 0 < (s.core 0).xwait.length ∧
      (s.core 0).xwait.length < 4 := by unfold Presented; decide
theorem test_witness_message_completes :
    let x : XPend := { tag := tag0 0, out := [] }
    let s := sK { kX with xq := [x] }
    (s.core 0).engineOn = true ∧ (s.core 0).xq = [x] ∧ (s.core 0).xwait = [] ∧ TagFits (s.core 0) x.tag ∧
    (∀ o ∈ x.out, ∀ m ∈ (s.link o.1).txQ, m.head ≠ o.2) :=
  ⟨by decide, by decide, by decide, (by intro i h; cases h; decide), by intro o h; cases h⟩

/-- A reduction over positions 0 and 1 of a row, both there. -/
def red1 (arr : Bool) : RootRed :=
  { shape := { axis := false, op := 0, fmt := 2, all := false, arrival := arr }, dst := 0, len := 16, rcc := 2, mask := 3,
    slot := 0, remote := false, arrived := [(0, (2, 0)), (1, (2, 1))], started := [0], pc := 0x1000, issued := 0 }
theorem test_witness_combine :
    (∀ arr ∈ [false, true], let s := sK { kX with reds := [red1 arr] }
      (s.core 0).engineOn = true ∧ (s.core 0).reds.find? (·.ready) = some (red1 arr) ∧ (red1 arr).shape.all = false ∧
      ccVal (s.core 0) (red1 arr).rcc.toNat + 1 < 4294967296) ∧
    ∃ k1 x, ({ kX with reds := [red1 false] } : Core).inWrite 0 0 (redResult { kX with reds := [red1 false] } (red1 false)) =
      .ok k1 x := ⟨by unfold ccVal; decide, ⟨_, _, rfl⟩⟩

def pkt (kind : BitVec 4) (addr : BitVec 32) (seq : BitVec 16) : Packet :=
  { kind := kind, banner := 0, source := 1, dest := 0, seq := seq, rcc := 2, part := 0, parts := 0, address := addr,
    payload := [1, 2, 3, 4], atom := none, len := 8, back := 64, reason := 0x11, deadline := 1, fromLink := false }
def sPkt (p : Packet) : State := { sK kX with mesh := [p] }
/-- A window that has 4,095 numbers to come, and the number before it. -/
theorem test_witness_packets :
    (∀ p ∈ [pkt 0xD 0 0, pkt 0xF 0 0], (sPkt p).mesh[0]? = some p ∧ ((sPkt p).core p.dest).st ≠ .halted ∧ 0xD ≤ p.kind.toNat) ∧
    winCheck (tget { low := 0, seen := [] } ((sPkt (pkt 0 0 65535)).core 0).rxWin 1) 65535 = .duplicate ∧
    ((pkt 3 0 65535).kind.toNat ≤ 3) := by decide
theorem test_witness_packet_writes :
    ∃ k, Admits (sPkt (pkt 0 0 0)) (pkt 0 0 0) k ∧ (∃ k1 x, k.inWrite 0 0 [1, 2, 3, 4] = .ok k1 x) ∧
      ccVal ((sPkt (pkt 0 0 0)).core 0) 2 + 1 < 4294967296 ∧ ((pkt 3 0 0).source.toNat / 256 = (sPkt (pkt 3 0 0)).modAddr) :=
  ⟨_, Or.inr ⟨rfl, ⟨{ low := 1, seen := [] }, by decide, rfl⟩⟩, ⟨_, _, rfl⟩, by unfold ccVal; decide, by decide⟩
theorem test_witness_packet_refused :
    ∃ k k1, Admits (sPkt (pkt 3 0x18000000 0)) (pkt 3 0x18000000 0) k ∧
      k.inWrite 0 0x18000000 [1, 2, 3, 4] = .refuse k1 0x10 :=
  ⟨_, _, Or.inr ⟨rfl, ⟨{ low := 1, seen := [] }, by decide, rfl⟩⟩, rfl⟩
theorem test_witness_packet_get :
    (pkt 4 0x17FFFF8 0).kind = 4 ∧ ∃ k1 d, ((sPkt (pkt 4 0x17FFFF8 0)).core 0).inRead 0 0x17FFFF8 8 = .ok k1 d :=
  ⟨rfl, ⟨_, _, rfl⟩⟩

/-- A put of core 0 to core 1 whose one packet, number 9, waits for its notice. -/
def putS : StreamInstr := instr .copy (endLoc 0) endDie 1
def putE : Elem := { elem .awaitAccept 0 0 [] with wait := [9] }
def sPut (kind : BitVec 4) : State :=
  { sK { kX with sq := [putS], elems := [putE] } with mesh := [{ pkt kind 0 9 with rcc := 0 }] }
theorem test_witness_notices :
    ∀ kind ∈ [(6 : BitVec 4), 7], (sPut kind).mesh[0]? = some { pkt kind 0 9 with rcc := 0 } ∧
      ((sPut kind).core 0).putOf { sPut kind with mesh := (sPut kind).mesh.eraseIdx 0 } 1 9 = some (putS, putE) ∧
      putE.wait = [9] ∧ ((sPut kind).core 0).elems.find? (fun y => y.ord == putE.ord && y.elem == putE.elem) = some putE ∧
      (pkt kind 0 9).reason ≠ 0x43 ∧ ((sPut kind).core 0).st ≠ .halted := by decide

/-- An FP32 reduction of two contributions, 1.0 + 2.0 = 3.0 (R211). -/
theorem test_red_combine :
    redCombine { axis := false, op := 0, fmt := 0, all := false, arrival := false } [0, 0, 0x80, 0x3F] [0, 0, 0, 0x40] =
      [0, 0, 0x40, 0x40] := by decide

/-! ### Core events, treads and tasks -/

theorem test_witness_write_back :
    ((sK { kRun with wback := [(511, 3)] }).core 0).wback.find? (fun p => p.1 == 511) = some (511, 3) := by decide
theorem test_witness_scrub :
    let s := sK kRun
    s.enabled 0 = true ∧ (s.core 0).wback.any (fun p => p.1 == 511) = false ∧ (s.core 0).badFlag = [] ∧
    bankWord 511 (tget 0 (s.core 0).scrubPos 511 % wordsPerBank 0) = 4088 ∧ (s.core 0).badWord = [] ∧
    (s.core 0).fback = none ∧
    ((sK { kRun with badWord := [(4088 / 8, true)] }).core 0).runsTask = true := by decide
theorem test_scrub_halts :
    ((xScrubStep 0 511 (sK { kRun with badWord := [(511, true)] })).core 0).reason = 0x60 := by decide

theorem test_witness_boundary : State.reset.rst.off = false ∧ State.reset.clk.calSet = none ∧
    ({ State.reset.clk with calSet := some [2399, 12, 31, 23, 59, 59] }).calSet = some [2399, 12, 31, 23, 59, 59] := by decide
/-- The tick, at the last tread of the count's low half (R51). -/
theorem test_boundary_carries :
    (xTreadBoundary { State.reset with clk := { Clk.reset with treadCount := 0x100000000 } }).clk.treadCount = 0x100000001 := by
  decide
/-- A landed core in a hall at step 1, its task in tread 0 of 8. -/
def kLand : Core := { kRun with loadId := some 0, treadSt := .landed }
def sLand (k : Core) : State := { sK k with tasks := [tRun], halls := [(0, { Hall.reset with stepCur := 1 })] }
theorem test_witness_boundary_checks :
    (kRun.treadSt = .open_ ∧ ((sLand kRun).core 0).st = .running) ∧ (sLand kRun).boundaryCheck tRun 8 0 ≠ none ∧
    (sLand kLand).boundaryCheck tRun 8 0 = none ∧ ((sLand kLand).core 0).dueExpects tRun.tread (decide (8 ≤ tRun.tread + 1)) = [] := by
  decide
/-- The same with a task on core 0 alone, in tread `n` of 8. -/
def tOne (n : Nat) : Task := { tRun with cores := [0], tread := n }
def sOne (k : Core) (n : Nat) : State := { sLand k with tasks := [tOne n] }
theorem test_witness_boundary_off : ({ State.reset with rst := { Rst.reset with off := true } }).rst.off = true := rfl
theorem test_one_task_runs (k : Core) (n : Nat) : OneTaskRuns (sOne k n) (tOne n) :=
  ⟨rfl, rfl, fun _ => rfl, rfl, rfl, rfl, rfl, by simp [tOne], rfl, rfl, by show ¬ (0 + 1) % 512 = 0; decide⟩
theorem test_witness_boundary_ends :
    (tOne 7).kinds[(tOne 7).kind]?.map (·.length) = some 8 ∧ ((sOne kRun 0).core 0).treadSt = .open_ ∧
    ((sOne kLand 0).core 0).treadSt = .landed ∧ (sOne kLand 0).boundaryCheck (tOne 0) 8 0 = none ∧
    (sOne kLand 7).boundaryCheck (tOne 7) 8 0 = none ∧ (sOne kLand 7).isLead (tOne 7) = true ∧
    ((sOne { kLand with treadSt := .untilT 2 default } 0).core 0).st = .running ∧
    (sOne { kLand with treadSt := .untilT 2 default } 0).boundaryCheck (tOne 0) 8 0 = none ∧
    ((sOne kLand 7).core 0).dueExpects 7 true = [] := by decide
/-- A tread of one task ends: the next one opens on its core. -/
theorem test_boundary_opens : ((xTreadBoundary (sOne kLand 0)).core 0).treadSt = .open_ := by decide

def tLand : Task := { tRun with st := .landing, releaseAt := some 5, releaseKind := some 0, releaseEpoch := some 2 }
def sTask (t : Task) (now : Nat) : State :=
  { sK { kLand with st := .landed } with tasks := [t], clk := { Clk.reset with treadCount := now } }
theorem test_witness_landing_release :
    (sTask tLand 5).findTask 1 = some tLand ∧ tLand.releaseAt = some 5 ∧ (sTask tLand 5).stepDue = false ∧
    (sTask tLand 5).confDue = false ∧ tLand.st = .landing ∧ tLand.swap = none ∧
    ((sTask tLand 5).core 0).st = .landed ∧ ((sTask tLand 5).core 0).loadId = some tLand.loadId ∧
    (sTask { tLand with releaseKind := none } 5).findTask 1 = some { tLand with releaseKind := none } := by decide
theorem test_witness_landing_held :
    let t := { tLand with releaseAt := none, landingAt := 7 }
    (sTask t 1000007).findTask 1 = some t ∧ t.landingAt + 1000000 ≤ (sTask t 1000007).clk.treadCount := by decide
theorem test_witness_release_message :
    (sTask tRun 3).findTask 1 = some tRun ∧ tRun.live = true ∧ (sTask tRun 3).clk.treadCount + 1 < 5 ∧
    4 ≤ (sTask tRun 3).clk.treadCount + 1 := by decide
def kind0 (x : Bool) : RoundKind := { (default : RoundKind) with length := 8, landing := 2, exitRound := x, next0 := some 0 }
def tRep (x : Bool) : Task := { tRun with st := .landing, cores := [0, 1], kinds := [kind0 x] }
def sRep (x : Bool) (a b : Option (BitVec 32)) : State :=
  { sTask (tRep x) 9 with cores := [(0, { kLand with exitOut := a }), (1, { kLand with exitOut := b })],
                          rst := { Rst.reset with scRunning := [1] } }
theorem test_witness_landing_report :
    ∀ x ∈ [false, true], let o := if x then some (0x40 : BitVec 32) else none
      (sRep x o o).findTask 1 = some (tRep x) ∧ (tRep x).members.length ≤ 1 ∧ (tRep x).member = 0 ∧ (tRep x).st = .landing ∧
      (tRep x).decided = none ∧ (tRep x).reports = [] ∧ (tRep x).kinds[(tRep x).kind]? = some (kind0 x) ∧ (tRep x).cores ≠ [] ∧
      (tRep x).serving = none ∧ (tRep x).swap = none ∧ (tRep x).unload = false ∧ (tRep x).releaseSent = false ∧
      (sRep x o o).rst.scRunning.contains 1 = true ∧ (tRep x).releaseEpoch = none ∧ (x = true → (kind0 x).exitRound = true) ∧
      (∀ c ∈ (tRep x).cores, ((sRep x o o).core c).exitOut.isSome = x) := by decide
theorem test_witness_landing_diverges :
    ((sRep true none (some 0x40)).core 0).exitOut = none ∧ ((sRep true none (some 0x40)).core 1).exitOut ≠ none := by decide

theorem test_witness_aborts :
    let t := { tRun with origin := some (0x30, 0, 2) }
    (sTask t 3).findTask 1 = some t ∧ t.live = true ∧ (0x30 : BitVec 8) ≠ 0x72 ∧ (0x30 : BitVec 8) ≠ 0x74 ∧
    ((sTask t 3).core 1).st ≠ .halted ∧ (2 : BitVec 32) ≠ t.epoch ∧ (sTask t 3).findTask 2 = none := by decide
theorem test_witness_task_fault :
    let s := { sTask { tRun with cores := [0] } 3 with cores := [(0, { kRun with st := .halted })] }
    s.findTask 1 = some { tRun with cores := [0] } ∧ ∀ c ∈ [0], (s.core c).st = .halted := by decide
theorem test_witness_armed_step :
    let s := { sTask tRun 3 with clk := { Clk.reset with treadCount := 3, armAt := some 3, armSteps := [6, 1] } }
    s.clk.armAt = some 3 ∧ s.clk.armSteps[0]? = some 6 ∧ s.holdsTask 0 = true ∧ s.hallOn 0 = true ∧
    s.pwr.emergency = false ∧ s.holdsTask 1 = false ∧ s.raising 1 = false := by decide
theorem test_witness_armed_notice :
    (sTask tRun 3).clk.armAt = none ∧ (sTask tRun 3).clk.treadCount + 2 ≤ 5 ∧
    (6 : BitVec 3).toNat ≤ maxStep (sTask tRun 3).otp.grade ∧
    (∀ h < 20, ((sTask { tRun with st := .loaded } 3).hall h).stepCur.toNat ≤ maxStep (sTask tRun 3).otp.grade) := by decide
theorem test_witness_armed_notice_halls :
    ∀ h < 20, ({ sTask tRun 3 with cores := [] }).hallRunning h = false := by decide
/-- Hall 0 of the task changes at tread 5; no other hall does. -/
theorem test_witness_armed_cancel :
    let s := { sTask tRun 3 with clk := { Clk.reset with armAt := some 5, treadCount := 3, armSteps := [6, 0] } }
    s.clk.armAt = some 5 ∧ s.clk.treadCount + 2 ≤ 5 ∧ (s.ownHalls tRun).contains 0 = true ∧
    (∀ h < 2, ∀ st, s.clk.armSteps[h]? = some st → (s.ownHalls tRun).contains h = false → st = (s.hall h).stepCur) ∧
    s.isLead tRun = true ∧ s.stepDue = false ∧ s.confDue = false ∧ (4 : Nat) < s.clk.treadCount + 2 := by decide

theorem test_witness_armed_ask :
    let x := { tRun with step := 2, minStep := 1 }
    let s := { sTask x 3 with cores := [] }
    s.findTask 1 = some x ∧ s.isLead x = true ∧ s.mayMove x true = true ∧ s.mayMove x false = true ∧ s.clk.armAt = none ∧
    s.pwr.emergency = false ∧ 1 < x.step.toNat ∧ x.step.toNat ≤ maxStep s.otp.grade ∧
    ∀ g < 20, (s.hall g).stepCur.toNat ≤ maxStep s.otp.grade ∧ ((s.hall g).stepCur = 0 → s.hallRunning g = false) := by decide
/-- Two requests of one tread take the lower step (Table 21.8): halls at S4, the first request asked for S3. -/
theorem test_requests_meet :
    let x := { tRun with cores := [0], step := 3, minStep := 1 }
    let s := { sTask x 3 with halls := [(0, { (default : Hall) with stepCur := 4 })], clk := { Clk.reset with treadCount := 3, armAt := some 9 } }
    s.askedStep x false = 3 ∧ s.askedStep x true = 3 := by decide

/-! ### Reference, calendar, registers, links -/

def sC (c : Clk) : State := { State.reset with clk := c }
/-- All candidates of CLK_MODE 0b00, the beat of L62 present for `n` treads and absent for `m`. -/
def sRef (c : Clk) (n m : Nat) : State := sC { c with presence := [(0, n)], absence := [(0, m)], edges := [.l62] }
theorem test_witness_reference :
    (∀ r ∈ [RefCand.l62, .l63, .tref], (sRef Clk.reset 999 0).candsNow.contains r = true) ∧
    RefCand.l62 ∈ (sRef Clk.reset 999 0).clk.edges ∧ RefCand.l63 ∉ (sRef Clk.reset 999 0).clk.edges ∧
    1000 ≤ tget 0 (sRef Clk.reset 1000 0).clk.presence (candCode .l62) ∧
    tget 0 (sRef Clk.reset 999 0).clk.presence (candCode .l62) < 1000 ∧
    2 ≤ tget 0 (sRef Clk.reset 0 2).clk.absence (candCode .l62) ∧
    (let c := { Clk.reset with refState := .switching, switchLeft := 0, target := some .tref, targetLost := false }
     c.refState = .switching ∧ c.switchLeft = 0 ∧ c.target = some (srcOf .tref) ∧ c.targetLost = false ∧
     ({ c with targetLost := true }).targetLost = true) := by decide
theorem test_witness_reference_best :
    ((sRef Clk.reset 1000 0).clk.setQual .l62 true).best (sRef Clk.reset 1000 0).candsNow = some .l62 ∧
    Clk.reset.refState = .acquire ∧ State.reset.rst.straps.clkMode ≠ 2 ∧
    (let c := { Clk.reset with refState := .locked, source := .tref, qualTref := true }
     (c.setQual .l62 true).sourceLost = false ∧ prio 0 (srcOf .l62) < prio 0 c.source ∧ c.refState = .locked) ∧
    (let c := { Clk.reset with refState := .locked, source := .l62, qual62 := true }
     c.source = srcOf .l62 ∧ (c.setQual .l62 false).best [.l62, .l63, .tref] = none ∧
     ({ c with qual63 := true }.setQual .l62 false).best [.l62, .l63, .tref] = some .l63) := by decide
/-- Table 2.8 at t + 2: L62 lost at the end of t + 1, L63 qualified throughout. -/
theorem test_reference_timeline :
    let s := sRef { Clk.reset with refState := .locked, source := .l62, qual62 := true, qual63 := true } 0 2
    (xReferenceLost .l62 s).clk.refState = .switching ∧ (xReferenceLost .l62 s).clk.target = some .l63 ∧
    (xReferenceLost .l62 s).clk.holdTimer = 1 ∧
    (((xReferenceLost .l62 s).clk.refTick 0 [.l62, .l63, .tref]).holdTimer = 2) := by decide
theorem test_witness_holdover_limit :
    let s := sC { Clk.reset with holdRun := true, holdTimer := 40000 }
    s.clk.holdRun = true ∧ 40000 ≤ s.clk.holdTimer.toNat ∧ s.rst.off = false ∧ s.rst.pend = none ∧ s.gal.pulse = false := by decide
theorem test_witness_beat :
    ({ Clk.reset with refState := .locked, source := .l62 }).ownBeat (.l62 0) = true ∧ (-4000 : Int).natAbs ≤ 4000 ∧
    ({ Clk.reset with refState := .locked, source := .l62 }).ownBeat (.l63 0) = false ∧ 4000 < (4001 : Int).natAbs := by decide
theorem test_witness_calendar :
    1000000 ≤ ({ Clk.reset with subsec := 1000000 }).subsec ∧
    dateOk 2000 2 28 23 59 59 = true ∧ dateOk 2100 2 29 0 0 0 = false ∧ dateOk 2399 12 31 23 59 59 = true := by decide
/-- 28 February 2100 is followed by 1 March, 28 February 2000 by the 29th (R53). -/
theorem test_leap_seconds :
    let c (y : Nat) := { Clk.reset with year := y, month := 2, day := 28, hour := 23, minute := 59, second := 59 }
    ((c 2100).nextSecond.month, (c 2100).nextSecond.day) = (3, 1) ∧
    ((c 2000).nextSecond.month, (c 2000).nextSecond.day) = (2, 29) := by decide

theorem test_witness_counter_reads :
    State.reset.rcGranted 0 .galCe = true ∧ State.reset.rcGranted 1 .galCe = false ∧
    State.reset.rcGranted 1 (.cmdEvLost 1) = true := by decide
theorem test_witness_arm_steps :
    let s := sC { Clk.reset with treadCount := 8, stepAtLo := 10 }
    10 = (0 : Word).toNat * 4294967296 + s.clk.stepAtLo.toNat ∧ s.clk.armAt = none ∧ s.clk.treadCount + 2 ≤ 10 ∧
    s.badSteps s.nextSteps = false ∧
    ({ s with halls := [(19, { Hall.reset with stepNext := 7 })] }).badSteps
      ({ s with halls := [(19, { Hall.reset with stepNext := 7 })] }).nextSteps = true := by decide
theorem test_witness_arm_late :
    let s := sC { Clk.reset with treadCount := 9, stepAtLo := 10 }
    (10 : Nat) ≠ 0 ∧ 10 < s.clk.treadCount + 2 := by decide
theorem test_witness_arm_wheel :
    let s := { sC { Clk.reset with treadCount := 8 } with stackTbl := [(7, { Stack.reset with atLo := 10, armAt := some 8 })] }
    10 = (0 : Word).toNat * 4294967296 + (s.stack 7).atLo.toNat ∧ s.clk.treadCount + 2 ≤ 10 ∧
    (s.stack 7).armAt = some 8 ∧ 8 ≤ s.clk.treadCount ∧ (s.stack 6).armAt = none ∧ (s.stack 7).wheelWant = none ∧
    (({ s with stackTbl := [(7, { Stack.reset with armAt := some 8, wheelWant := some [] })] }).stack 7).wheelWant = some [] := by decide
theorem test_witness_register_writes :
    bannerReg 0x50000 = true ∧ State.reset.sec.bannerWr = true ∧ ¬(2 = 4 ∧ 0x50000 % 4 = 0) ∧
    (0x60010 : BitVec 25).toNat = 0x60010 ∧ ({ Sec.reset with lock := true }).lock = true := by decide
/-- A service core writes PWR_TRIP: cause and sensor are stored, the reserved bits read 0 (Table 21.16). -/
theorem test_witness_firmware_register :
    let s := { State.reset with rst := { Rst.reset with scRunning := [5] } }
    bannerReg 0x30014 = false ∧ fwMask 0x30014 ≠ 0 ∧ 5 ∈ s.rst.scRunning ∧ s.filtered 0 = false ∧
    (s.write4 (.service 5) 0x30014 0x1234FFF5).regWord 0 0x30014 = 0x1234000F - 10 ∧
    (s.write4 (.service 5) 0x30014 0x1234FFF5).regWord 1 0x30014 = 0 := by decide

def idRec : IdentityRec :=
  { isMaster := false, serial := 0, row := 0, column := 1, link := 0, compat := 0, version := 0, config := 0, manifest := 0 }
def det (p : Bool) (o : BitVec 4) : DetectResult := { present := p, openLanes := o, shortLanes := 0, polFixed := true, laneSwap := false }
/-- Link 0 in a state, bring-up done. -/
def sL (k : Link) : State := { State.reset with links := [(0, k)], rst := { Rst.reset with step := 15 } }
def lk (st : LinkSt) : Link := { Link.reset with st := st }
theorem test_witness_detect :
    ((sL (lk .detect)).link 0).st = .detect ∧ ((sL (lk .detect)).link 0).inBackoff = false ∧ (sL (lk .detect)).linksOn = true ∧
    (det true 0).present = true ∧ (det true 0).openLanes = 0 ∧ (det true 0).shortLanes = 0 ∧ (det false 0).present = false ∧
    (det true 8).openLanes ≠ 0 ∧ ({ det true 0 with shortLanes := 1 }).shortLanes ≠ 0 ∧
    ((sL (lk .detect)).link 0).idleUntil ≤ (sL (lk .detect)).clk.treadCount := by decide
theorem test_witness_link_states :
    ∀ st ∈ [LinkSt.equalise, .align, .identify, .secure, .time, .absent, .off, .active, .quarantine],
      ((sL (lk st)).link 0).st = st := by decide
def sMan : State := { sL (lk .identify) with fabAddr := some 0, manifest := some man2 }
theorem test_witness_identify :
    sMan.rightPartner 0 { idRec with column := 2 } = false ∧ sMan.rightPartner 0 idRec = true ∧
    (sL (lk .identify)).rightPartner 0 idRec = true ∧ (sL (lk .identify)).manifest = none ∧ sMan.manifest ≠ none := by decide
theorem test_witness_identify_accepted :
    ∃ r : IdentityRec, r.manifest = sMan.manifestDigest ∧ r.config = sMan.configDigest 0 ∧ r.compat = sMan.fw.compat ∧
      sMan.rightPartner 0 r = true :=
  ⟨{ idRec with manifest := sMan.manifestDigest, config := sMan.configDigest 0 }, rfl, rfl, rfl, rfl⟩
theorem test_witness_secure :
    ((sL (lk .secure)).link 0).quarMark = none ∧ ((sL { lk .secure with quarMark := some 9 }).link 0).quarMark = some 9 ∧
    (sL (lk .secure)).clk.calValid = false ∧ ({ Clk.reset with calValid := true }).calValid = true := by
  decide
theorem test_witness_time_link :
    (sL (lk .time)).refLink 0 = false ∧
    (let s := { State.reset with links := [(62, lk .time)] }; s.refLink 62 = true ∧ s.tasks.any Task.live = false ∧
      (s.link 62).st = .time) ∧ (sL (lk .time)).clk.beatOff = none ∧
    (let c := { Clk.reset with beatOff := some .count }; c.beatOff = some .count ∧ c.timeOut = false) := by decide
/-- At tread 10,000,000 every timeout of a link that has trained from tread 0 has passed, and at tread 0 none. -/
theorem test_witness_training_times :
    let s (n : Nat) (st : LinkSt) : State := { sL { lk st with inBackoff := false, backoff := 1000 } with clk := { Clk.reset with treadCount := n } }
    (∀ st ∈ [LinkSt.equalise, .align, .identify, .secure, .time],
      ((s 10000000 st).link 0).stateAt + timeoutOf st ≤ (s 10000000 st).clk.treadCount ∧
      (s 0 st).clk.treadCount < ((s 0 st).link 0).stateAt + timeoutOf ((s 0 st).link 0).st ∧
      ((s 10000000 st).link 0).trainFrom + 10000000 ≤ (s 10000000 st).clk.treadCount ∧ (s 10000000 st).linksOn = true) ∧
    ((s 1000000 .detect).link 0).stateAt + 1000 * ((s 1000000 .detect).link 0).backoff.toNat ≤ (s 1000000 .detect).clk.treadCount := by decide
theorem test_witness_training_fails :
    (∀ st ∈ [LinkSt.equalise, .align, .identify, .secure, .time], st.training = true ∧ st ≠ .detect ∧ (lk st).inBackoff = false) ∧
    ({ lk .detect with inBackoff := true }).inBackoff = true ∧ LinkSt.detect.training = true := by decide
theorem test_witness_teardown :
    (lk .active).up = true ∧ (lk .quarantine).up = true ∧ (lk .active).st ≠ .off ∧ (lk .active).partnerMgmtFree = false ∧
    ({ lk .off with offPend := true }).offPend = true ∧ (sL (lk .off)).noPartner 0 = false ∧
    ({ lk .active with quiet := 64 }).quiet = 64 ∧ (lk .active).quiet < 64 ∧ (lk .active).mgmtSeen + 100000 ≤ 100000 ∧
    (0 : Nat) < (lk .active).mgmtSeen + 100000 ∧ ({ lk .active with bulkCred := 1 }).bulkCred ≠ 0 ∧ (lk .active).bulkCred = 0 := by decide
/-- The eleventh failure in a row waits 1,000 ms (R275). -/
theorem test_backoff : (({ Link.reset with failures := 9 }).fail 1 0).backoff = 512 ∧
    (({ Link.reset with failures := 10 }).fail 1 0).backoff = 1000 := by decide

/-! ### Block resets and frames -/

theorem test_witness_block_resets :
    ((hallCores 19).any State.reset.enabled = true ∧ State.reset.enabled 159 = true) ∧
    (let s := { State.reset with rst := { Rst.reset with blockSc := [5], blockNear := [7], blockFar := true } }
     5 ∈ s.rst.blockSc ∧ 7 ∈ s.rst.blockNear ∧ s.rst.blockFar = true) := by decide
theorem test_witness_service_watchdog :
    let s (l : List Nat) := { State.reset with rst := { Rst.reset with ticks := 60000000, wdtTimes := [(2, l)] } }
    ((tget [] (s [0, 1]).rst.wdtTimes 2).filter fun x => decide ((s [0, 1]).rst.ticks < x + 60000000)).length < 2 ∧
    2 ≤ ((tget [] (s [1, 2]).rst.wdtTimes 2).filter fun x => decide ((s [1, 2]).rst.ticks < x + 60000000)).length ∧
    (s [1, 2]).rst.off = false ∧ (s [1, 2]).rst.pend = none := by decide

def head0 : HeadInfo :=
  { kind := 0, banner := 0, source := 256, sequence := 4095, rcc := 0, dest := 0, slot := 0, address := 0, deadline := 2, flits := 1,
    destMod := 0, twoHops := false, forwarded := false }
def tx0 : TxMsg := { head := head0, data := [], start := 1, tread := 0, placed := 0, bulk := false }
def txf0 : TxFrame := { kind := .bulkData, seq := 9, body := .data [], bytes := [] }
def held0 : HeldFrame :=
  { cls := 2, seq := 9, replays := 0, nakked := true, unsent := false, head := none, frame := txf0, sentAt := 0 }
theorem test_witness_slots :
    (Link.reset.up = false) ∧ (lk .active).up = true ∧ (∀ c < 4, tget 0 ({ lk .active with txSeq := [(0, 0xFFFFFFBD)] }).txSeq c + 66 < 4294967296) ∧
    isControl 226 = true ∧ isControl 2 = false ∧ isUnscheduled 2 = false ∧ schedIndex 2 = 1 ∧
    ({ lk .active with txQ := [tx0] }).atIndex 0 (schedIndex 2) = some tx0 ∧
    isControl 335 = false ∧ isUnscheduled 335 = true ∧
    (let k := { lk .active with held := [held0] }
     k.lost.all (·.nakSent) = true ∧ (k.prune 0).nextReplay = some held0 ∧ held0.unsent = false ∧ k.fwd = []) ∧
    (lk .identify).st.shakes = true ∧ (lk .off).st.shakes = false ∧ (lk .off).st ≠ .time ∧
    (let f := { held0 with head := some head0 }
     let k := { lk .active with fwd := [(0, 1, f)] }
     k.atIndex 0 (schedIndex 2) = none ∧ k.fwdAt 0 (schedIndex 2) = some (0, 1, f) ∧ head0.flits ≤ 64 ∧ 0 ≤ head0.deadline ∧
     k.blocks.all (fun b => decide (0 ≤ b.1.deadline)) = true) := by decide
/-- The slot of each scheduled index, and back (R257). -/
theorem test_sched_slots : ∀ i < 252, schedIndex (schedSlot i) = i := by decide
/-- The payloads of Tables 12.3 and 12.4 are of 64 bytes, with the deadline, flits and destination where they lie. -/
theorem test_payloads :
    (headBytes head0 false).length = 64 ∧ natAt (headBytes head0 false) 16 8 = 2 ∧ natAt (headBytes { head0 with destMod := 37, flits := 64 } false) 24 3 = 37 * 256 + 63 ∧
    fieldOf (natAt (headBytes head0 false) 0 16) 112 95 = 256 ∧ fieldOf (natAt (headBytes head0 false) 0 16) 94 79 = 4095 := by decide

def frame0 (fec auth : Bool) (q : BitVec 12) : Frame :=
  { kind := .schedData, slot := 1, epoch := false, seq12 := q, fixed := 1, uncorr := b2n (!fec), fecOk := fec, authOk := auth, head := none,
    data := bytes64 }
theorem test_witness_frames :
    (frame0 false true 0).fecOk = false ∧ (frame0 true false 0).authOk = false ∧ (frame0 true true 5).kind ≠ .reserved ∧
    frameClass (frame0 true true 5).kind = some 0 ∧
    ((lk .active).authFailed 0).overFailures 0 = false ∧ (lk .active).overLosses 0 = false ∧
    (lk .active).overFailures 0 = false ∧ (lk .active).accepts (frame0 true true 5).epoch = true := by decide
theorem test_witness_frame_numbers :
    rebuild 4096 4095 0 = some 4096 ∧ rebuild 4096 4096 4095 = some 4095 ∧ rebuild 4096 4096 0 = some 4096 ∧
    tget [] (lk .active).rxSeen 0 = [] ∧ (lk .active).buffered < 1024 := by decide
def status0 (td : Bool) : StatusPayload :=
  { tread := 0, slot := 113, sent := [], ack := [0, 0, 0], bulkCredit := 5, mgmtFree := true, rekeyArm := false, teardown := td,
    rekeyAt := 0, rekeyEpoch := false, naks := [] }
theorem test_witness_status : (status0 true).teardown = true ∧ (status0 false).teardown = false ∧ (status0 false).naks = [] ∧
    (status0 false).slot ≠ 0 ∧ (status0 false).sent = [] ∧ ({ status0 false with slot := 0 }).slot = 0 := by decide
/-- A NAK for a frame held, once new and once replayed long ago. -/
theorem test_witness_nak (b : Bool) :
    let e : NakEntry := { seq := 9, cls := 2 }
    let f : HeldFrame := { held0 with nakked := false, replays := b2n b, head := some head0 }
    let k := { lk .active with held := [f] }
    ({ status0 false with naks := [e] }).naks = [e] ∧
    (k.acked [0, 0, 0]).held.find? (fun f => f.cls == e.cls && f.seq % 65536 == e.seq.toNat && !f.unsent) = some f ∧
    f.sentAt + 204 ≤ slotTime 1 0 ∧ (b = true → f.replays ≠ 0) ∧ (b = false → f.replays = 0) := by revert b; decide
theorem test_status_bytes : (statusBytes { status0 true with sent := [1, 2, 3], naks := [{ seq := 9, cls := 2 }] }).length = 64 ∧
    natAt (statusBytes { status0 true with sent := [1, 2, 3], naks := [{ seq := 9, cls := 2 }] }) 35 4 = 1 + 256 * (9 + 65536 * 2) ∧
    natAt (statusBytes { status0 true with sent := [1, 2, 3] }) 22 4 = 5 + 65536 + 0x2000000 := by decide
def rxOk (t : Option (Int × Int)) : StatusRx := { fixed := 0, uncorr := 0, fecOk := true, authOk := true, time := t }
theorem test_witness_status_rx : (rxOk (some (7, 4000))).fecOk = true ∧ (rxOk none).authOk = true ∧ (rxOk (some (8007, 7))).time = some (8007, 7) ∧ (8007 : Int) - 7 = 2 * 4000 ∧
    (4000 : Int).natAbs ≤ 4000 ∧ 4000 < (4001 : Int).natAbs := by decide

/-- A message of one flit with its frame, which two hops carry on or which is for this module. -/
def rx0 (two : Bool) : RxMsg :=
  { bulk := false, headSeq := 65535, fed := [], head := { head0 with twoHops := two, destMod := if two then 32 else 0, deadline := if two then 3 else 2 },
    frames := [(1, bytes64)], issued := [], start := some 5, forwarded := [] }
def sRx (two : Bool) : State :=
  { State.reset with links := [(0, { lk .active with rxMsgs := [rx0 two] }), (31, lk .active)],
                     parts := [(0, { Part.reset with links := 0x80000000 })] }
theorem test_witness_assembled :
    (sRx false).link 0 = { lk .active with rxMsgs := [rx0 false] } ∧
    ((sRx false).link 0).msgOf 0xFFFF (fun m => m.head.destMod.toNat == (sRx false).modAddr) = some (rx0 false) ∧
    groupFrames (rx0 false).head.flits 0 = [1] ∧ (rx0 false).issued = [] ∧
    (rx0 false).frames.any (fun f => f.1 == 1) = true ∧ (sRx false).clk.treadCount ≤ (rx0 false).head.deadline := by decide
theorem test_witness_bank_window :
    (∃ w, bankCheck [] head0 = .fresh w) ∧ bankCheck [(65536, { low := 4096, seen := [] })] head0 = .duplicate :=
  ⟨⟨[(65536, { low := 0, seen := [4095] })], by decide⟩, by decide⟩
theorem test_witness_two_hops :
    let s := sRx true
    ((s.link 0).rxMsgs.find? (fun m => !m.bulk && m.headSeq % 65536 == (0xFFFF : BitVec 16).toNat && m.head.twoHops &&
        m.head.destMod.toNat != s.modAddr)) = some (rx0 true) ∧
    colLink (s.modAddr / 32) ((rx0 true).head.destMod.toNat / 32) = 31 ∧ 1 ≤ (rx0 true).head.flits ∧ 1 ∉ (rx0 true).forwarded ∧
    (rx0 true).frames.any (fun f => f.1 == 1) = true ∧ (rx0 true).head.deadline = s.clk.treadCount + 3 ∧
    (s.link 31).st = .active ∧ (s.part (rx0 true).head.banner).links.getLsbD 31 = true ∧
    (rx0 true).start = some 5 ∧ (s.link 31).fwdTaken 0 0 (5 + 1) = false ∧
    ({ lk .active with lastSlot := 20 }).fwdTaken 0 0 (5 + 1) = true := by decide
theorem test_witness_late_at_link :
    let s := { sRx false with clk := { Clk.reset with treadCount := 3 } }
    (s.link 0).rxMsgs.find? (fun m => !m.bulk && m.headSeq % 65536 == (0xFFFF : BitVec 16).toNat && decide (m.head.deadline < s.clk.treadCount)) =
      some (rx0 false) ∧ (rx0 false).head.source.toNat / 256 ≠ s.modAddr := by decide
theorem test_witness_epochs :
    (lk .active).rekeyAt = none ∧ (lk .active).txOverlap = none ∧ State.reset.clk.treadCount + 16 ≤ 16 ∧
    (let k := { lk .active with rekeyAt := some 0 }; k.rekeyAt = some 0 ∧ k.rxRekeyAt = none) ∧
    (let k := { lk .active with rxRekeyAt := some (0, true) }; k.rxRekeyAt = some (0, true) ∧ true ≠ k.rxEpoch ∧ k.rekeyAt = none) ∧
    ({ lk .active with rxOverlapUntil := some 0 }).rxOverlapUntil = some 0 := by decide
/-- Slots 0, 113 and 226 of 339 carry status frames, and 84 are unscheduled (R257). -/
theorem test_slot_counts : ((List.range 339).filter isScheduled).length = 252 := by decide

/-! ### The command transport -/

/-- A command of queue 0 of function `f`, its place among the accepted ones, and the state in which it is the next. -/
def rf (f : FnId) : CmdRef := { fn := f, queue := 0, tag := 7 }
def accf (f : FnId) (op : Nat) (params : List Byte) : Accepted :=
  { ref := rf f, opcode := BitVec.ofNat 16 op, banner := 0, params := params, irq := false, ordered := false, started := false,
    begun := false, discard := false }
def qOn : Queue := { Queue.reset with enable := true, size := 4 }
def fnOn (l : Tbl Queue) : HostFn := { HostFn.reset with present := true, queues := l }
def acc0 (op : Nat) (params : List Byte) : Accepted := accf 0 op params
def sOnCmd (s : State) (f : FnId) (op : Nat) (params : List Byte) : State :=
  { s with accepted := [accf f op params], fns := [(f.val, fnOn [(0, qOn)])] }
/-- The command of function 0, in a module that has `b` as banner 0. -/
def sCmd (op : Nat) (params : List Byte) (b : Part) : State :=
  { sOnCmd State.reset 0 op params with parts := [(0, b)] }
/-- The same command after it began. -/
def sWait (op : Nat) (b : Part) : State :=
  { sCmd op [] b with accepted := [{ acc0 op [] with started := true, begun := true }] }
def accWait (op : Nat) : Accepted := { acc0 op [] with started := true, begun := true }
def partOn : Part := { Part.reset with valid := true, owner := some 0, rangeBase := 10, rangeCount := 2, ns := 1, power := 5 }

theorem test_witness_queue_enable :
    let s := { State.reset with fns := [(0, fnOn [])] }
    let v (n : Nat) : Word := BitVec.ofNat 32 (0x80000000 + n * 256)
    (s.fn 0).present = true ∧ (s.queue 0 15).enable = false ∧ (∀ n < 16, (v n).getLsbD 31 = true) ∧ (s.fn 0).held = [] ∧
    4 ≤ fieldOf (v 4).toNat 11 8 ∧ fieldOf (v 10).toNat 11 8 ≤ 10 ∧ fieldOf (v 3).toNat 11 8 < 4 ∧
    10 < fieldOf (v 11).toNat 11 8 ∧ (sCmd 0 [] partOn).queueOn 0 0 = true := by decide
theorem test_witness_events_and_tenants :
    let e : Event := .stream 1 [2] false false false false .ready 0 0
    let s := { State.reset with fns := [(1, { fnOn [(2, qOn)] with eventQ := some 2, held := [(5, e)] })] }
    (s.fn 1).eventQ = some 2 ∧ (s.fn 1).held = [(5, e)] ∧ (s.queue 1 2).enable = true ∧
    (s.queue 1 2).pending < (s.queue 1 2).free ∧ s.isMgmt 1 = false := by decide

/-- A packet of 16 bytes: opcode, flags 0, length, banner, tag 7. -/
def pkt16 (op : Nat) : List Byte := leBytes 2 op ++ zeros 4 ++ leBytes 2 16 ++ leBytes 4 7 ++ zeros 4
def sFetch (c : List CacheEntry) : State :=
  { State.reset with rst := { Rst.reset with isReady := true, scRunning := [0, 1, 2, 3, 4, 5] },
                     fns := [(0, fnOn [(0, { qOn with cmdTail := 1, cache := c })])] }
theorem test_witness_command_fetch :
    let p := pkt16 0x0101
    let s := sFetch []
    s.fetching = true ∧ s.nextQueue = some (0, 0) ∧ natAt p 6 2 = 16 ∧ (opInfo (natAt p 0 2)).isSome = true ∧
    (p ++ zeros 16).take 16 = p ∧ (rf 0).tag = BitVec.ofNat 32 (natAt p 8 4) ∧
    acceptCheck s 0 p = none ∧ acceptCheck s 0 (pkt16 0x0103) = some stBadLength ∧
    (let e : CacheEntry := { tag := 7, content := p, final := some (stOk, .none) }
     (sFetch [e]).nextQueue = some (0, 0) ∧ (sFetch [e]).queue 0 0 = { qOn with cmdTail := 1, cache := [e] } ∧
     [e].find? (fun x => x.tag == (rf 0).tag) = some e ∧ e.content = p ∧ e.content ≠ pkt16 0x0102) := by decide

theorem test_witness_command_ready :
    ∀ op ∈ [0x0101, 0x0102, 0x0103, 0x0104, 0x0105, 0x0106, 0x0107, 0x0108, 0x0201, 0x0202, 0x0203, 0x0204, 0x0205, 0x0301,
            0x0302, 0x0303, 0x0304, 0x0305, 0x0401, 0x0402, 0x0403, 0x0404, 0x0405, 0x0406, 0x0407, 0x0501, 0x0502, 0x0503,
            0x0504, 0x0505, 0x0506, 0x0601, 0x0602, 0x0603, 0x0604, 0x0605, 0x0701, 0x0702, 0x0703, 0x0704, 0x0801, 0x0802,
            0x0803, 0x0804, 0x0901, 0x0902, 0x0903, 0x0904, 0x0A01, 0x0A02],
      CmdReady (sCmd op [] partOn) (rf 0) op (acc0 op []) ∧ (opInfo op).isSome = true := by unfold CmdReady; decide
theorem test_witness_command_waits : ∀ op ∈ [0x0202, 0x0301, 0x0402, 0x0403, 0x0404, 0x0406, 0x0602],
    Awaits (sWait op partOn) (rf 0) (accWait op) := by unfold Awaits; decide
theorem test_witness_quiet : Quiet (sCmd 0x0108 [] partOn) := by
  intro f; by_cases h : f = 0 <;> simp [sCmd, sOnCmd, State.fn, fnOn, tget, HostFn.reset, h, eq_comm]
theorem test_sideband_is_always_on : CmdReady (sOnCmd State.reset 4 0x0103 []) (rf 4) 0x0103 (accf 4 0x0103 []) := by
  unfold CmdReady; decide

theorem test_witness_queries :
    let s := sCmd 0x0304 [] partOn
    let t1 := { tRun with banner := 0 }
    s.bannerTask 0 1 = none ∧ ({ s with tasks := [t1] }).bannerTask 0 1 = some t1 ∧
    s.filtered 0 = false ∧ s.isMgmt 0 = true ∧
    (let u := { s with gal := { Gal.reset with slots := [(7, { GSlot.reset with st := .valid })] } }
     u.seesSlot 0 (u.slot 7) = true ∧ (u.slot 7).st = .valid) ∧
    (let u := { sOnCmd State.reset 1 0x0704 [] with parts := [(0, { partOn with owner := some 1, links := 8 })] }
     CmdReady u (rf 1) 0x0704 (accf 1 0x0704 []) ∧ u.filtered 1 = true ∧ u.ownLink 1 2 = false ∧ u.ownLink 1 3 = true ∧
     u.isMgmt 1 = false ∧ u.ownsIdx 1 0 = true ∧ u.ownsIdx 1 1 = false ∧ u.seesSlot 1 (u.slot 7) = false) := by
  unfold CmdReady; decide
/-- Stream `i` of the first block of the banner's range: entry 40,960. -/
def sStr (op : Nat) (e : StreamEntry) : State :=
  { sCmd op [] partOn with strmLead := 1, streams := [(40960, e)] }
def eStr (st : StreamSt) : StreamEntry := { StreamEntry.reset with gen := 3, st := st, banner := 0 }
theorem test_witness_stream_query :
    let s := sStr 0x0506 (eStr .ready)
    s.leads 0 = true ∧ (s.part 0).rangesDiffer = false ∧ streamOf 0x3A000 = 40960 ∧ (s.part 0).inRange 40960 = true ∧
    (s.part 0).inRange 49151 = true ∧ (s.part 0).inRange 49152 = false ∧
    (s.stream 40960).gen.toNat = (0x3A000 : Word).toNat / 65536 ∧ (s.stream 40960).gen.toNat ≠ (0x2A000 : Word).toNat / 65536 := by
  decide
theorem test_witness_module_reads :
    (let p := { partOn with penTask := 9 }
     let a := leBytes 4 9 ++ zeros 4 ++ [127]
     CmdReady (sCmd 0x0901 a p) (rf 0) 0x0901 (acc0 0x0901 a) ∧ natAt a 0 4 = p.penTask.toNat ∧ p.penTask ≠ 0 ∧ natAt a 8 1 = 127) ∧
    (let p := { partOn with crash := some (9, [1, 2]) }
     let a := leBytes 4 9 ++ zeros 4 ++ leBytes 2 4064
     CmdReady (sCmd 0x0903 a p) (rf 0) 0x0903 (acc0 0x0903 a) ∧ p.crash = some (9, [1, 2]) ∧ natAt a 0 4 = 9 ∧ natAt a 8 2 = 4064) ∧
    ({ sCmd 0x0702 [] partOn with manifest := some man2 }).manifest = some man2 := by unfold CmdReady; decide
theorem test_witness_module_commands :
    let s := sCmd 0x0105 [] partOn
    s.rst.off = false ∧ s.rst.pend = none ∧ s.tasks.any Task.live = false ∧ s.far.waiting = [] ∧ (∀ p ∈ s.cores, p.2.elems = []) ∧
    ({ s with tasks := [tRun] }).tasks.any Task.live = true ∧
    (let a (w n : Nat) : List Byte := leBytes 2 w ++ [1, 0] ++ leBytes 2 n ++ [5, 0, 0, 0, 0, 0, 0, 0]
     natAt (a 1000 1) 0 2 = 1000 ∧ natAt (a 2400 10000) 0 2 = 2400 ∧ natAt (a 2400 1) 4 2 ≠ 0 ∧ natAt (a 1000 10000) 4 2 = 10000 ∧
     (∀ b < 8, natAt (a 1000 1) (6 + b) 1 ≤ 100) ∧
     (∀ b < 8, natAt (a 1000 1) (6 + b) 1 = if (s.part b).valid = true then (s.part b).power else 0) ∧
     natAt (a 1000 1) 6 1 ≠ (if (State.reset.part 0).valid = true then (State.reset.part 0).power else 0) ∧
     CmdReady (sCmd 0x0106 (a 1000 1) partOn) (rf 0) 0x0106 (acc0 0x0106 (a 1000 1))) := by unfold CmdReady; decide
theorem test_witness_calendar_setting :
    dateOk 2000 2 29 23 59 59 = true ∧ dateOk 2100 2 29 0 0 0 = false ∧ dateOk 2399 12 31 0 0 0 = true ∧
    dateOk 1999 12 31 0 0 0 = false := by decide
theorem test_witness_images_staged :
    let img (d : Bool) (v : BitVec 16) : FwImage := { (default : FwImage) with digestOk := d, secver := v }
    (img true 0).digestOk = true ∧ State.reset.sec.rollback.toNat ≤ (img true 0).secver.toNat ∧ (img false 0).digestOk = false ∧
    (img true 4).secver.toNat < ({ State.reset with sec := { Sec.reset with rollback := 5 } }).sec.rollback.toNat := by decide

/-! ### Partitions and programs -/

/-- PARTITION.CREATE of banner 2: hall 0, link 0, block 0, granule 0 with two wheel entries, one namespace unit. -/
def reqBytes : List Byte :=
  [2, 10] ++ leBytes 2 100 ++ leBytes 3 1 ++ [0, 1, 0] ++ leBytes 2 1 ++ zeros 4 ++ leBytes 8 1 ++ [2] ++ zeros 7 ++ leBytes 33 1 ++
    zeros 15 ++ leBytes 48 77
def sCreate : State := { sCmd 0x0201 reqBytes partOn with stackTbl := [(0, { Stack.reset with trained := true })] }
theorem test_witness_partition_create :
    CmdReady sCreate (rf 0) 0x0201 (acc0 0x0201 reqBytes) ∧ (partReq reqBytes).banner = 2 ∧ sCreate.createCheck (partReq reqBytes) = none ∧
    (sCmd 0x0201 [] partOn).createCheck (partReq []) = some (stBusy, .none) ∧ ((sCmd 0x0201 [] partOn).part 0).valid = true := by
  unfold CmdReady; decide
/-- The wheel change of a create where one is pending for the next tread, and for the tread after it. -/
theorem test_witness_partition_wheel :
    let s (n : Nat) := { sCreate with stackTbl := [(0, { Stack.reset with trained := true, armAt := some n })] }
    (∀ n ∈ [1, 2], CmdReady (s n) (rf 0) 0x0201 (acc0 0x0201 reqBytes) ∧ (s n).createCheck (partReq reqBytes) = none) ∧
    0 ∈ (partReq reqBytes).stackTbl ∧ ((s 1).stack 0).armAt = some 1 ∧ 1 < (s 1).clk.treadCount + 2 ∧
    (s 2).clk.treadCount + 2 ≤ 2 ∧ (((s 1).stack 0).giveWheel 0 2 2).wheelWant.isSome = true ∧
    (((s 2).stack 0).giveWheel 0 2 2).armAt = some 2 ∧ ((Stack.reset).giveWheel 0 2 2).armAt = some 2 := by
  unfold CmdReady; decide

def partTd : Part := { partOn with teardown := true, tdZero := true, tdErase := false, tdRef := some (rf 0), halls := [0], granules := [0] }
theorem test_witness_partition_destroy :
    (partOn.valid = true ∧ partOn.teardown = false ∧ natAt [0, 0] 1 1 = 0 ∧ (0 : Banner) = Fin.ofNat 8 (natAt [0, 0] 0 1) ∧
      (∀ x ∈ (sCmd 0x0202 [0, 0] partOn).tasks, x.banner ≠ 0) ∧
      (∀ x ∈ (sCmd 0x0202 [0, 0] partOn).accepted, x.begun = true → (sCmd 0x0202 [0, 0] partOn).cmdOf 0 x = false) ∧
      CmdReady (sCmd 0x0202 [0, 0] partOn) (rf 0) 0x0202 (acc0 0x0202 [0, 0])) ∧
    ((sCmd 0x0202 [0, 0] Part.reset).part 0).valid = false ∧
    (((sWait 0x0202 partTd).part 0) = partTd ∧ partTd.valid = true ∧ partTd.teardown = true ∧ partTd.tdRef = some (rf 0) ∧
      partTd.tdHalls = []) := by
  unfold CmdReady; decide
/-- Commands that name a banner during its teardown, and otherwise. -/
theorem test_witness_tearing : ∀ op ∈ [0x0401, 0x0405, 0x0902],
    (sCmd op [] partTd).tearing 0 = true ∧ CmdReady (sCmd op [] partTd) (rf 0) op (acc0 op []) ∧ (acc0 op []).banner = 0 ∧
    (sCmd op [] partOn).tearing 0 = false := by unfold CmdReady; decide
/-- A teardown of hall 0 at S0, which it raises first, and at S1. -/
theorem test_witness_partition_halls :
    let p := { partOn with halls := [0], granules := [0] }
    let s := sCmd 0x0202 [0, 0] p
    p.halls ≠ [] ∧ (∀ h ∈ p.halls, s.mayClear h = false) ∧ (s.part 0) = p ∧ p.valid = true ∧ p.teardown = false ∧
    (∀ h ∈ p.halls, ({ s with halls := [(0, { Hall.reset with stepCur := 1 })] }).mayClear h = true) ∧
    (∀ x ∈ s.tasks, x.banner ≠ 0) ∧ (∀ x ∈ s.accepted, x.begun = true → s.cmdOf 0 x = false) ∧
    CmdReady s (rf 0) 0x0202 (acc0 0x0202 [0, 0]) := by
  unfold CmdReady; decide
theorem test_witness_partition_settings :
    let s := sCmd 0x0205 [] { partOn with signKeys := [(0, 1, 5)], links := 1, erasing := true }
    s.taskLoaded 0 = false ∧ ({ s with tasks := [{ tRun with keyId := 1 }] }).taskLoaded 0 = true ∧
    (s.part 0).signKeys.find? (fun k => k.1 == 1) = none ∧ (s.part 0).signKeys.find? (fun k => k.1 == 0) = some (0, 1, 5) ∧
    ((1 : BitVec 32), (5 : BitVec 768)) ≠ (1, 6) ∧ tRun.live = true ∧ tRun.banner = 0 ∧ (s.part 0).erasing = true ∧
    (s.part 0).valid = true ∧ (s.part 0).teardown = false := by decide
theorem test_witness_load_refused :
    let s := sCmd 0x0301 (leBytes 4 0 ++ zeros 12 ++ leBytes 8 0xFFFFFFFFFFFFFFFF) partOn
    s.capturing 0 = false ∧ s.pwr.thermHold = false ∧ s.shutdown = false ∧ s.clk.calFail = false ∧ s.owns 0 0 = true ∧
    (memberMap []).length ≤ 1 ∧ (s.checkImage 0 [] 0 none).isSome = true ∧
    ({ s with pwr := { Pwr.reset with thermHold := true } }).pwr.thermHold = true := by decide
theorem test_witness_abort_unload :
    let s := { sCmd 0x0302 [] partOn with tasks := [{ tRun with st := .loaded }] }
    s.bannerTask 0 2 = none ∧ s.bannerTask 0 1 = some { tRun with st := .loaded } ∧ ({ tRun with st := .loaded } : Task).live = true ∧
    tRun.unloadRef = [] ∧ tRun.swap = none ∧ s.clk.armAt = none ∧ tRun.st = .running ∧ ({ tRun with st := .ended } : Task).live = false ∧
    ({ s with tasks := [{ tRun with st := .ended }] }).bannerTask 0 1 = some { tRun with st := .ended } := by decide
/-- A load of an instance on two modules, waiting for member 1 at its lead. -/
def tLoading : Task :=
  { tRun with id := 0, st := .loading, members := [0, 1], loadRef := some (rf 0), loadReports := [(0, 0, tRun.membersDigest)] }
def sLoading (t : Task) (now : Nat) : State :=
  { sWait 0x0301 partOn with tasks := [t], clk := { Clk.reset with treadCount := now } }
theorem test_witness_instance_load :
    let s := sLoading tLoading 10000000
    let f := sLoading { tLoading with st := .loaded } 0
    (sWait 0x0301 partOn).tasks.find? (fun t => t.st == .loading && t.banner == 0) = none ∧
    (s.part 0).owed s.clk.treadCount 1 0 = false ∧ (s.part 0).owed s.clk.treadCount 1 tRun.membersDigest = false ∧
    s.findLoad tLoading.loadId = some tLoading ∧ tLoading.loadRef = some (rf 0) ∧ Awaits s (rf 0) (accWait 0x0301) ∧
    s.tasks.find? (fun t => t.st == .loading && t.banner == 0) = some tLoading ∧
    (∀ p ∈ tLoading.loadReports, p.2.1 = 0 ∧ p.2.2 = tLoading.membersDigest) ∧
    (∀ k < tLoading.members.length, k ≠ 1 → tLoading.loadReports.any (fun p => p.1 == k) = true) ∧
    tLoading.landingAt + 10000000 ≤ s.clk.treadCount ∧ (sLoading tLoading 0).clk.treadCount < tLoading.landingAt + 10000000 ∧
    f.tasks.find? (fun t => t.st == .loaded && t.id == 0 && t.banner == 0) = some { tLoading with st := .loaded } ∧
    f.findLoad 0 = some { tLoading with st := .loaded } := by unfold Awaits; decide

theorem leNat_leBytes (n : Nat) : ∀ v, leNat (leBytes n v) = v % 256 ^ n := by
  induction n with
  | zero => intro v; simp [leBytes, leNat, Nat.mod_one]
  | succ n ih =>
    intro v
    simp only [leBytes, leNat, ih, BitVec.toNat_ofNat]
    rw [show 256 ^ (n + 1) = 256 * 256 ^ n from by rw [Nat.mul_comm, Nat.pow_succ], Nat.mod_mul]
theorem leNat_digest (d : BitVec 384) : BitVec.ofNat 384 (leNat (leBytes 48 d.toNat)) = d := by
  rw [leNat_leBytes, Nat.mod_eq_of_lt (Nat.lt_of_lt_of_le d.isLt (by decide))]; simp

/-- An image with one round kind of one tread and no core for one module, for the manifest of digest `d` (Tables 10.2, 10.4). -/
def imgMin (d : BitVec 384) : List Byte :=
  let e (ty var off size : Nat) : List Byte := leBytes 2 ty ++ [BitVec.ofNat 8 var, 0] ++ leBytes 4 off ++ leBytes 4 size ++ zeros 4
  leBytes 4 0x4D49474B ++ leBytes 2 1 ++ leBytes 2 11 ++ leBytes 8 456 ++ leBytes 4 1 ++ [1, 1] ++ leBytes 2 0 ++ leBytes 2 1 ++ zeros 14 ++
    leBytes 48 d.toNat ++ zeros 40 ++
    e 2 0 304 0 ++ e 3 0 304 0 ++ e 4 0 304 0 ++ e 5 0 304 0 ++ e 6 0 304 0 ++ e 7 0 304 26 ++ e 8 255 336 0 ++ e 9 0 336 0 ++
    e 10 255 336 0 ++ e 13 255 336 2 ++ e 15 255 352 104 ++
    [1, 0, 0, 0, 0, 0, 0, 0] ++ leBytes 2 1 ++ [1, 0] ++ leBytes 2 0 ++ leBytes 2 0xFFFF ++ leBytes 4 24 ++ zeros 4 ++ [0, 0] ++ zeros 6 ++
    leBytes 2 0 ++ zeros 14 ++ leBytes 4 9 ++ zeros 4 ++ leBytes 48 3 ++ leBytes 48 4
def manAll : Manifest := { man2 with recs := [{ (default : ManRec) with present := true }, { (default : ManRec) with present := true }] }
def sLoad : State :=
  { sCmd 0x0301 (leBytes 4 0 ++ zeros 4 ++ leBytes 4 456 ++ zeros 4 ++ leBytes 8 0xFFFFFFFFFFFFFFFF) { partOn with signKeys := [(0, 9, 5)] } with
    manifest := some manAll, fabAddr := some 0, clk := { State.reset.clk with refState := .locked } }
/-- That image passes every check where its signature is a valid one of the key (whether it is, is the enclave's word, log 3). -/
theorem test_witness_image_passes (h : Config.ecdsaVerify 5 (Config.sha384 ((imgMin (Config.sha384 manAll.bytes)).take 352)) 3 4 = true) :
    sLoad.checkImage 0 (imgMin (Config.sha384 manAll.bytes)) 456 none = none := by
  have hs : sLoad.checkSig 0 (imgMin (Config.sha384 manAll.bytes)) = none := by
    show errIf (!(Config.ecdsaVerify 5 (Config.sha384 ((imgMin (Config.sha384 manAll.bytes)).take 352)) 3 4)) _ _ = none
    rw [h]; rfl
  have hd : BitVec.ofNat 384 (natAt (imgMin (Config.sha384 manAll.bytes)) 40 48) = Config.sha384 manAll.bytes := leNat_digest _
  have hm : sLoad.checkManifest (imgMin (Config.sha384 manAll.bytes)) = none := by
    have : sLoad.manifestDigest = Config.sha384 manAll.bytes := rfl
    unfold State.checkManifest
    rw [hd, this]
    simp only [bne_self_eq_false, Bool.false_or]
    decide
  have hf : checkFrame (imgMin (Config.sha384 manAll.bytes)) 456 = none := by decide
  unfold State.checkImage
  rw [hf, hs, hm]
  decide
theorem test_witness_image_loads :
    let img := imgMin (Config.sha384 manAll.bytes)
    (memberMap img).length ≤ 1 ∧ sLoad.lockedFor img = true ∧ sLoad.badLayer (sLoad.newTask (rf 0) 0 img none).grefs = none ∧
    (∀ x ∈ sLoad.tasks, x.loadId ≠ sLoad.nextLoad) ∧ sLoad.capturing 0 = false ∧ sLoad.pwr.thermHold = false ∧ sLoad.shutdown = false ∧
    sLoad.clk.calFail = false ∧ sLoad.owns 0 0 = true ∧
    CmdReady sLoad (rf 0) 0x0301 (acc0 0x0301 (leBytes 4 0 ++ zeros 4 ++ leBytes 4 456 ++ zeros 4 ++ leBytes 8 0xFFFFFFFFFFFFFFFF)) := by
  unfold CmdReady; decide

/-! ### The weight gallery -/

/-- An image of one layer of 256 zero bytes at 4,096, whose digests are those of its bytes. -/
def layerW : BitVec 384 := Config.sha384 (leBytes 48 (Config.sha384 (List.replicate 4096 0)).toNat ++ [])
def bodyW : Mem := memWrite [(1, 16), (9, 1)] 16 (leBytes 48 layerW.toNat)
def headW : List Byte := zeros 6 ++ [1, 0] ++ zeros 40 ++ leBytes 48 (Config.sha384 (memRead bodyW 0 64)).toNat
def slotW (st : SlotSt) : GSlot :=
  { GSlot.reset with st := st, header := headW, pendHdr := headW, body := bodyW, length := 8192, extents := [0, 5] }
theorem leBytes_length (n : Nat) : ∀ v, (leBytes n v).length = n := by
  induction n with
  | zero => intro v; rfl
  | succ n ih => intro v; simp [leBytes, ih]
theorem bodyW_out (x : Nat) (h : x < 16 ∨ 64 ≤ x) : memGet bodyW x = memGet [(1, 16), (9, 1)] x :=
  memGet_memWrite_out _ 16 x _ rfl (by rw [leBytes_length]; omega)
theorem bodyW_table : (slotW st).layerOff 0 = 4096 ∧ (slotW st).layerLen 0 = 256 ∧ (slotW st).layerDig 0 = layerW := by
  refine ⟨?_, ?_, ?_⟩
  · show leNat (memRead bodyW 0 8) = 4096
    simp [memRead, bodyW_out]; decide
  · show leNat (memRead bodyW 8 8) = 256
    simp [memRead, bodyW_out]; decide
  · show BitVec.ofNat 384 (leNat (memRead bodyW 16 48)) = _
    rw [show memRead bodyW 16 48 = leBytes 48 layerW.toNat from memRead_memWrite [(1, 16), (9, 1)] 16 _ rfl]
    exact leNat_digest _
theorem test_good_layer (s : State) (st : SlotSt) : s.layerOk (slotW st) 0 = true := by
  obtain ⟨h0, h1, h2⟩ := bodyW_table (st := st)
  have hb : s.bodyRead (slotW st) 4096 256 = List.replicate 256 0 := by
    refine List.eq_replicate_iff.mpr ⟨by simp [State.bodyRead], fun x hx => ?_⟩
    simp only [State.bodyRead, List.mem_map, List.mem_range] at hx
    obtain ⟨i, _, rfl⟩ := hx
    have hk : (if 4096 + i < (slotW st).tableEnd then none else s.imageKey (slotW st)) = none := by
      rw [show s.imageKey (slotW st) = none from rfl]; exact ite_self _
    unfold State.bodyByte
    rw [hk]
    show memGet bodyW (4096 + i) = 0
    rw [bodyW_out _ (Or.inr (by omega))]
    have h1 : ¬ (1 : Nat) = 4096 + i := by omega
    have h9 : ¬ (9 : Nat) = 4096 + i := by omega
    simp [memGet, tget, h1, h9]
  have h3 : s.layerDigest (slotW st) 0 = layerW := by
    simp [State.layerDigest, h0, h1, ceilDiv, hb, zeros, layerW, List.range_succ]
  simp only [State.layerOk, h2, h3]
  simp [GSlot.readUnits, slotW, GSlot.reset]
/-- The image with a table `b` of wrong bits that spares unit 8 passes its checks. -/
theorem good_image (s : State) (st : SlotSt) (b : Tbl Nat) (h : (GSlot.readUnits { slotW st with badUnit := b } 4096 256).2 = []) :
    s.imageBad { slotW st with badUnit := b } = none := by
  have ht : (GSlot.tableOk { slotW st with badUnit := b }) = true := by
    show (Config.sha384 (memRead bodyW 0 64) == BitVec.ofNat 384 (natAt headW 48 48)) = true
    rw [show natAt headW 48 48 = leNat (leBytes 48 (Config.sha384 (memRead bodyW 0 64)).toNat) from rfl, leNat_digest]
    simp
  obtain ⟨h0, h1, _⟩ := bodyW_table (st := st)
  have hd := test_good_layer s st
  have hl : State.layerOk s { slotW st with badUnit := b } 0 = true := by
    simp only [State.layerOk, Bool.and_eq_true] at hd ⊢
    refine ⟨?_, hd.2⟩
    rw [show GSlot.layerOff { slotW st with badUnit := b } 0 = 4096 from h0, show GSlot.layerLen { slotW st with badUnit := b } 0 = 256 from h1, h]; rfl
  have hf : (List.range (GSlot.layers { slotW st with badUnit := b })).find? (fun l => !s.layerOk { slotW st with badUnit := b } l) = none := by
    show [0].find? (fun l => !s.layerOk { slotW st with badUnit := b } l) = none
    simp [hl]
  unfold State.imageBad
  rw [hf, ht]; rfl
theorem test_good_image (s : State) (st : SlotSt) : s.imageBad (slotW st) = none := good_image s st [] rfl
theorem test_weak_image (s : State) (st : SlotSt) : s.imageBad { slotW st with badUnit := [(1, 4)] } = none :=
  good_image s st [(1, 4)] (by show (GSlot.readUnits { GSlot.reset with badUnit := [(1, 4)] } 4096 256).2 = []; decide)

def sGal (op : Nat) (g : GSlot) : State := { sCmd op [] partOn with gal := { Gal.reset with slots := [(3, g)] } }
theorem test_witness_gallery_open :
    let s := sCmd 0x0401 [] partOn
    (s.slot 3).st = .empty ∧ s.freeExtents.length = 384 ∧ ceilDiv (384 * 67108864) 67108864 = 384 ∧
    ceilDiv (384 * 67108864 + 1) 67108864 = 385 ∧ ((sGal 0x0401 (slotW .open_)).slot 3).st ≠ .empty := by decide
theorem test_witness_gallery_write :
    let s := sGal 0x0402 { GSlot.reset with st := .open_, length := 67108864, extents := [7] }
    let d := zeros 512
    s.noPulse = false ∧ (s.slot 3).st = .open_ ∧ d.length = 512 ∧ 67108352 % 512 = 0 ∧
    67108352 + d.length ≤ ((s.slot 3).length + 511) / 512 * 512 ∧ (s.slot 3).progUnits = [] ∧ 7 = (s.slot 3).extents.getD (67108352 / 67108864) 0 ∧
    67108352 / 67108864 = (67108352 + d.length - 1) / 67108864 ∧ ((sGal 0x0402 (slotW .valid)).slot 3).st ≠ .open_ ∧
    ({ s with gal := { s.gal with suspend := true } }).noPulse = true := by decide
/-- A header of one layer of length 4,096 in an image of 8,192 bytes under key `k`, and a body whose table says so. -/
def headC (k : Nat) : List Byte :=
  leBytes 4 0x4C41474B ++ leBytes 2 1 ++ leBytes 2 1 ++ leBytes 8 8192 ++ zeros 16 ++ leBytes 4 k ++ zeros 476
def slotC : GSlot := { GSlot.reset with st := .open_, length := 8192, body := [(1, 16), (9, 16)] }
theorem test_witness_gallery_commit :
    headerBad slotC (headC 0) = false ∧ (sGal 0x0403 slotC).imageHeld { slotC with header := headC 0 } = true ∧
    headerBad slotC (headC 6) = false ∧ (sGal 0x0403 slotC).imageHeld { slotC with header := headC 6 } = false ∧
    headerBad slotC (zeros 512) = true := by decide
theorem test_witness_commit_verified :
    let s : State := { sWait 0x0403 partOn with gal := { Gal.reset with slots := [(3, { slotW .verifying with commitRef := some (rf 0) })] } }
    (s.slot 3).st = .verifying ∧ s.noPulse = false ∧ s.readsGated = false ∧ (s.slot 3).commitRef = some (rf 0) ∧
    Awaits s (rf 0) (accWait 0x0403) ∧ s.imageBad { s.slot 3 with header := (s.slot 3).pendHdr } = none :=
  ⟨rfl, rfl, by decide, rfl, by unfold Awaits; decide, test_good_image _ .verifying⟩
/-- A layer with an uncorrectable unit fails the verification (R306). -/
theorem test_witness_commit_fails : ∃ l, (sGal 0 GSlot.reset).imageBad { slotC with header := headC 0, badUnit := [(8, 9)] } = some l :=
  ⟨0, by rfl⟩
theorem test_witness_gallery_erase :
    (sGal 0x0404 { slotC with st := .valid }).slotUsed 3 = false ∧
    (let t : Task := { tRun with grefs := [{ digest := 0, first := 0, layers := 1, backed := false, slot := 3 }] }
     ({ sGal 0x0404 { slotC with st := .valid } with tasks := [t] }).slotUsed 3 = true) ∧
    (let g := { slotC with st := .erasing, eraseRef := some (rf 0), extents := [7] }
     let s : State := { sWait 0x0404 partOn with gal := { Gal.reset with slots := [(3, g)] } }
     (s.slot 3).st = .erasing ∧ (s.slot 3).eraseRef = some (rf 0) ∧ Awaits s (rf 0) (accWait 0x0404) ∧
     (s.part (s.slot 3).banner).teardown = false) := by unfold Awaits; decide
theorem test_witness_background_verify : ((sGal 0 (slotW .valid)).slot 3).st = .valid ∧ (sGal 0 (slotW .valid)).imageBad (slotW .valid) = none ∧
    (4 : Nat) ≤ 4 ∧ 4 < 5 ∧ (slotW .valid).badUnit = [] ∧ 15 * 512 < (slotW .valid).length ∧
    (sGal 0 (slotW .valid)).imageBad { slotW .valid with badUnit := [(1, 4)] } = none :=
  ⟨rfl, test_good_image _ _, by decide, by decide, rfl, by decide, test_weak_image _ .valid⟩

/-! ### Swaps -/

def gref3 : GRef := { digest := 0, first := 0, layers := 1, backed := true, slot := 3 }
def wSwap (go applying replace : Bool) : Swap :=
  { swapId := 1, ref := some (rf 0), gref := 0, slot := 4, oldSlot := 3, replace := replace, ready := [0], go := go,
    applying := applying, read := 0, copied := false, result := .ok, reports := [(0, .ok)], startAt := 0 }
def tSwap (st : TaskSt) (w : Option Swap) : Task :=
  { tRun with st := st, grefs := [gref3], swap := w,
              allocs := [{ core := 0, kind := 3, gref := 0, start := 0, length := 256, source := 0, blob := 0, layer := 0 }] }
/-- Slots 3 and 4 hold the old and the new image; member 0 of the members `l` is this module. -/
def sSwap (l : List (BitVec 10)) (st : TaskSt) (w : Option Swap) (now : Nat) : State :=
  { sWait 0x0406 partOn with
    gal := { Gal.reset with slots := [(3, slotW .valid), (4, slotW .valid)] }, tasks := [{ tSwap st w with members := l }],
    clk := { Clk.reset with treadCount := now }, fabAddr := some 0 }
theorem test_witness_swap_command :
    let s := { sSwap [] .running none 0 with accepted := [acc0 0x0406 []] }
    s.findTask 1 = some (tSwap .running none) ∧ s.findLoad 0 = some (tSwap .running none) ∧ CmdReady s (rf 0) 0x0406 (acc0 0x0406 []) ∧
    (tSwap .running none).members.length ≤ 1 ∧ (tSwap .running none).member = 0 ∧ (tSwap .running none).swapEarly = [] ∧
    (tSwap .running none).grefs[0]? = some gref3 ∧ s.swapCheck (tSwap .running none) 0 false 4 = none ∧
    (tSwap .running (some (wSwap false false false))).swap.isSome = true := by
  refine ⟨rfl, rfl, by unfold CmdReady; decide, by decide, rfl, rfl, rfl, ?_, rfl⟩
  have h3 : (({ sSwap [] .running none 0 with accepted := [acc0 0x0406 []] } : State).slot 3) = slotW .valid := rfl
  have h4 : (({ sSwap [] .running none 0 with accepted := [acc0 0x0406 []] } : State).slot 4) = slotW .valid := rfl
  have hg : (tSwap .running none).grefs[0]? = some gref3 := rfl
  have hi : State.imageHeld { sSwap [] .running none 0 with accepted := [acc0 0x0406 []] } (slotW .valid) = true := rfl
  simp only [State.swapCheck, hg, show gref3.slot = 3 from rfl, h3, h4, hi, bne_self_eq_false, beq_self_eq_true]
  rfl
theorem test_witness_swap_ready :
    let w := wSwap false false false
    let x := { tSwap .running (some w) with members := [0, 1] }
    let s := sSwap [0, 1] .running (some w) 10000000
    s.findTask 1 = some x ∧ x.live = true ∧ s.findLoad x.loadId = some x ∧ x.swap = some w ∧ s.isLead x = true ∧ w.go = false ∧
    (∀ k < max 1 x.members.length, k ≠ 1 → w.ready.contains k = true) ∧ w.ref = some (rf 0) ∧ Awaits s (rf 0) (accWait 0x0406) ∧
    w.startAt + 10000000 ≤ s.clk.treadCount := by unfold Awaits; decide
theorem test_witness_swap_apply :
    let w := wSwap true false true
    let x := tSwap .landing (some w)
    let s := sSwap [] .landing (some w) 0
    s.findTask 1 = some x ∧ x.swap = some w ∧ x.st = .landing ∧ x.releaseAt = none ∧ w.applying = false ∧ (s.isLead x = true → w.go = true) ∧
    s.oldInSlot x.banner w.oldSlot = false := by decide
theorem test_witness_swap_copy :
    let w := wSwap true true false
    let x := { tSwap .landing (some w) with members := [1, 0] }
    let s := { sSwap [1, 0] .landing (some w) 0 with fabAddr := some 1 }
    (s.findTask 1 = some x ∧ x.live = true ∧ x.swap = some w ∧ w.applying = true ∧ s.isLead x = false ∧ w.copied = false ∧
      x.refLayers w.gref = [0] ∧ x.allocs.length = 1 ∧ w.read = 0 ∧ s.copyStopped x = false ∧ s.slot w.slot = slotW .valid ∧
      (x.allocs.map fun y => (y.kind, y.gref, y.layer, y.source + y.length)) = [(3, w.gref, 0, 256)]) ∧
    (slotW .valid).layerLen 0 = 256 ∧ (∀ l ∈ x.refLayers w.gref, s.layerOk (s.slot w.slot) l = true) := by
  refine ⟨?_, bodyW_table.2.1, fun l hl => ?_⟩
  · exact ⟨by decide, by decide, by decide, by decide, by decide, by decide, by decide, by decide, by decide, by decide, rfl, by decide⟩
  have : l = 0 := by simpa [Task.refLayers, tSwap, gref3, wSwap] using hl
  subst this
  exact test_good_layer _ .valid
theorem test_witness_swap_reports :
    let w := wSwap true true false
    let x := { tSwap .landing (some w) with members := [0, 1] }
    let s := sSwap [0, 1] .landing (some w) 0
    s.isLead x = true ∧ x.decided = none ∧ (∃ k < max 1 x.members.length, k ≠ 0 ∧ w.reports.any (fun p => p.1 == k) = false) ∧
    (∀ k < max 1 x.members.length, k = 1 ∨ w.reports.any (fun p => p.1 == k) = true) ∧ w.copied = false ∧ w.read = 0 ∧ s.copyStopped x = false ∧ w.ref = some (rf 0) ∧
    Awaits s (rf 0) (accWait 0x0406) :=
  ⟨by decide, by decide, ⟨1, by decide⟩, by decide, by decide, by decide, by decide, by decide, by unfold Awaits; decide⟩

/-! ### Streams and the far tier -/

/-- STREAM.APPEND of one token in host memory to stream `sid`, with a seed of its own. -/
def appBytes (sid : Nat) : List Byte := leBytes 4 sid ++ [0, 0, 5, 0] ++ leBytes 4 1 ++ zeros 4 ++ leBytes 8 99 ++ zeros 40
def sApp (sid : Nat) (e : StreamEntry) : State := { sCmd 0x0501 (appBytes sid) partOn with strmLead := 1, streams := [(40960, e)] }
theorem test_witness_append_to_stream :
    let s := sApp 0x3A000 (eStr .ready)
    CmdReady s (rf 0) 0x0501 (acc0 0x0501 (appBytes 0x3A000)) ∧ appendBad (appBytes 0x3A000) = false ∧ natAt (appBytes 0x3A000) 8 4 = 1 ∧
    bitOf (natAt (appBytes 0x3A000) 6 1) 2 = true ∧ bitOf (natAt (appBytes 0x3A000) 6 1) 0 = true ∧ s.shutdown = false ∧
    BitVec.ofNat 32 (natAt (appBytes 0x3A000) 0 4) = (0x3A000 : Word) ∧ NamesStream s (acc0 0x0501 (appBytes 0x3A000)) 0x3A000 (eStr .ready) ∧
    s.heldCmds.any (fun h => h.sid == 0x3A000 && h.kind == .end_) = false ∧ mayAppend (eStr .ready) = true ∧
    s.appendShort 0 0x3A000 (eStr .ready) 1 = none ∧ mayAppend (eStr .parked) = false ∧ appendBad [] = true := by
  unfold CmdReady NamesStream; decide
/-- An append to a stream whose banner has free pages, and to one whose banner has none. -/
theorem test_witness_append_pages :
    let s := { sApp 0x3A000 (eStr .ready) with parts := [(0, { partOn with granules := [0] })] }
    (CmdReady s (rf 0) 0x0501 (acc0 0x0501 (appBytes 0x3A000)) ∧ NamesStream s (acc0 0x0501 (appBytes 0x3A000)) 0x3A000 (eStr .ready) ∧
      s.appendShort 0 0x3A000 (eStr .ready) 1 = none) ∧
    bufPagesFor (promptCount (eStr .ready) (s.heldTokens 0x3A000 + 1)) - (eStr .ready).bufPages.length = 1 ∧
    1 ≤ (s.freePages (eStr .ready).banner).length ∧ ((sApp 0x3A000 (eStr .ready)).freePages 0).length < 1 := by
  refine ⟨by unfold CmdReady NamesStream; decide, by decide, ?_, by decide⟩
  refine List.length_pos_of_mem (a := 0) ?_
  unfold State.freePages
  exact List.mem_filter.mpr ⟨List.mem_range.mpr (by decide), by decide⟩
theorem test_witness_append_short :
    let t : Task := { tRun with serving := some { (default : Serving) with role := 1, maxContext := 4 } }
    let s := { sApp 0x3A000 { eStr .ready with context := 4 } with tasks := [t] }
    s.appendShort 0 0x3A000 { eStr .ready with context := 4 } 1 = some 2 ∧ mayAppend { eStr .ready with context := 4 } = true := by decide
def sNew : State := { sCmd 0x0501 (appBytes 0xFFFFFFFF) partOn with strmLead := 1 }
theorem test_witness_new_stream :
    natAt (appBytes 0xFFFFFFFF) 0 4 = 0xFFFFFFFF ∧ sNew.oldestFree { partOn with rangeCount := 0 } = none ∧
    (let s := { sNew with parts := [(0, { partOn with granules := [0] })] }
     s.appendShort 0 (sidOf 40960 (s.stream 40960)) { s.stream 40960 with image := 0, model := (s.slot 0).model } 1 = none ∧
     0 ∈ (s.setStream 40960 { StreamEntry.reset with banner := 0 }).freePages 0) ∧ bufPagesFor 1 = 1 ∧ appendBad (appBytes 0xFFFFFFFF) = false ∧
    sNew.leads 0 = true := by
  refine ⟨by decide, by decide, ⟨by decide, ?_⟩, by decide, by decide, by decide⟩
  unfold State.freePages
  exact List.mem_filter.mpr ⟨List.mem_range.mpr (by decide), by decide⟩
/-- Of entries that became FREE together the first is the oldest. -/
theorem test_witness_oldest_free : sNew.oldestFree (sNew.part 0) = some 40960 := by
  have hf (l : List Nat) : l.foldl (fun (best : Option Nat) i => match best with
      | none => some i
      | some j => if (sNew.stream i).freedAt < (sNew.stream j).freedAt then some i else best) (some 40960) = some 40960 := by
    induction l with
    | nil => rfl
    | cons a l ih =>
      have h : ¬ (sNew.stream a).freedAt < (sNew.stream 40960).freedAt := fun h => absurd h (Nat.not_lt_zero 0)
      rw [List.foldl_cons]
      simp only [h, if_false]
      exact ih
  unfold State.oldestFree
  have hr : (sNew.part 0).rangeCount * 4096 = 8191 + 1 := rfl
  have hb : (sNew.part 0).rangeBase * 4096 + 0 = 40960 := rfl
  have hs : ((sNew.stream 40960).st == .free) = true := rfl
  rw [hr, List.range_succ_eq_map, List.map_cons]
  dsimp only
  rw [List.filter_cons_of_pos (by exact hs), List.foldl_cons]
  exact hf _
theorem test_witness_stream_commands :
    (∀ st ∈ [StreamSt.ready, .generating, .paused, .parked, .done, .faulted, .free],
      NamesStream (sStr 0x0502 (eStr st)) (acc0 0x0502 []) 0x3A000 (eStr st)) ∧
    (let m : MemStore := { banner := 0, attached := none, near := false }
     (({ sStr 0x0605 (eStr .ready) with stores := [(5, m)] }).store 0 5).isSome = true ∧ ((sStr 0x0605 (eStr .ready)).store 0 5).isSome = false) := by
  unfold NamesStream; decide

/-- A serving task at a landing, member `m` of the members `l`. -/
def tServe (m : Nat) (l : List (BitVec 10)) : Task :=
  { tRun with st := .landing, member := m, members := l, serving := some { (default : Serving) with role := 1, slots := 4 }, served := false }
def sServe (m : Nat) (l : List (BitVec 10)) : State :=
  { State.reset with tasks := [tServe m l], rst := { Rst.reset with scRunning := [0, 1, 2, 3, 4, 5] }, fabAddr := some 1, parts := [(0, partOn)],
                     sec := { Sec.reset with keys := [(0, { banner := 0, gallery := false, keyId := 4, key := 1, wr := true, expiry := 0 })] } }
theorem test_witness_serving_landing :
    ((sServe 1 [0, 1]).findTask 1 = some (tServe 1 [0, 1]) ∧ (tServe 1 [0, 1]).serving.isSome = true ∧ (tServe 1 [0, 1]).st = .landing ∧
      (tServe 1 [0, 1]).served = false ∧ (sServe 1 [0, 1]).rst.scRunning.contains 1 = true ∧ (sServe 1 [0, 1]).rst.blockStrm = false ∧
      (sServe 1 [0, 1]).aborting (tServe 1 [0, 1]) = false ∧ (sServe 1 [0, 1]).fwLands 0 = true ∧
      (sServe 0 []).aborting (tServe 0 []) = false ∧ (sServe 0 []).fwLands 0 = true ∧
      (sServe 1 [0, 1]).findLoad 0 = some (tServe 1 [0, 1]) ∧ (sServe 1 [0, 1]).isLead (tServe 1 [0, 1]) = false) ∧
    ((sServe 0 []).isLead (tServe 0 []) = true ∧ (sServe 0 []).streams = [] ∧ (sServe 0 []).heldCmds = [] ∧ (tServe 0 []).slots = []) ∧
    (({ sServe 0 [] with tasks := [{ tServe 0 [] with served := true }] }).findTask 1 = some { tServe 0 [] with served := true }) := by decide
/-- A stream with pages when a member has reported the loss of its near tier. -/
theorem test_witness_near_lost :
    let e := { eStr .ready with pages := [3] }
    let s := { sServe 0 [] with streams := [(40960, e)], parts := [(0, { partOn with lostMembers := [0] })] }
    s.isLead (tServe 0 []) = true ∧ s.streams = [(40960, e)] ∧ e.banner = (tServe 0 []).banner ∧ e.st = .ready ∧ e.pages ≠ [] ∧
    e.lost = none ∧ e.parkRun = false ∧ e.resumeRun = false ∧ s.heldCmds = [] ∧ (tServe 0 []).slots = [] ∧
    (s.part (tServe 0 []).banner).lostMembers = 0 :: [] ∧
    ((s.takeLosses 0).stream 40960).st = .faulted := by decide
def fPaused : StreamFields := { StreamEntry.reset.toStreamFields with gen := 3, st := .paused }
theorem test_witness_serving_change :
    let s := { sServe 1 [0, 1] with streams := [(40960, eStr .generating)] }
    fPaused.gen = (s.stream 40960).gen ∧ fPaused.st = .paused ∧ (s.stream 40960).st ≠ .parked ∧ s.findTask 1 = some (tServe 1 [0, 1]) ∧
    s.isLead (tServe 1 [0, 1]) = false ∧ ({ task := 1 } : ServingTurn).task = 1 := by decide
/-- A park of one page, with or without the wheel entries of its stack, and with the journal at `j` bytes. -/
def sPark (wheel : Bool) (j : Nat) : State :=
  { sServe 1 [0, 1] with
    tasks := [{ tServe 1 [0, 1] with serving := some { (default : Serving) with role := 1, slots := 4, kvBytes := 65536 } }],
    parts := [(0, { partOn with granules := [0] })], far := { Far.reset with journal := j },
    stackTbl := [(0, { Stack.reset with wheel := if wheel then [(0, some 0)] else [] })],
    streams := [(40960, { eStr .paused with parkRun := true, pages := [2], context := 2 })] }
theorem test_witness_park :
    let e := { eStr .paused with parkRun := true, pages := [2], context := 2 }
    (sPark true 0).liveStream 0x3A000 = some (40960, e) ∧ e.parkRun = true ∧ (sPark true 0).ownMember 0 = 1 ∧
    (0 : Nat) ≠ (sPark true 0).ownMember e.banner ∧ e.parking.contains 1 = false ∧ (sPark true 0).writeKeyOf e.banner = some 4 ∧
    (sPark true 0).parkPages e = [2] ∧ (sPark true 0).fwMoves e.banner [2] = true ∧ (sPark false 0).fwMoves e.banner [2] = false ∧
    (sPark true 0).far.room ([2].length + 1) = true ∧ (sPark true 268435456).far.room ([2].length + 1) = false := by decide
theorem test_witness_park_units (g : Nat) : ((sPark true 0).granule g).badUnit = [] := rfl
/-- A stream whose pages are being read back from object `o`. -/
def sResume (o : FarObj) : State :=
  { sServe 1 [0, 1] with streams := [(40960, { eStr .parked with resumeRun := true, pages := [2] })], far := { Far.reset with objs := [o] } }
def oPark (l : List FarRec) : FarObj :=
  { banner := 0, stream := true, owner := 0x3A000, keyId := 4, complete := true, index := 0, doneSeq := 9, context := 0, recs := l }
theorem test_witness_resume :
    let f := { eStr .parked with resumeRun := true, pages := [2] }
    (sResume (oPark [])).liveStream 0x3A000 = some (40960, f) ∧ f.resumeRun = true ∧ f.resuming.contains 1 = false ∧
    (sResume (oPark [])).ownMember f.banner = 1 ∧
    (sResume (oPark [])).fwMoves f.banner (f.pages ++ f.listPage.toList) = true ∧
    (sResume (oPark [])).farKeyHeld (oPark []).banner (oPark []).keyId = true ∧
    ({ sResume (oPark []) with sec := Sec.reset, strmLead := 1 }).farKeyHeld (oPark []).banner (oPark []).keyId = false ∧
    ({ sResume (oPark []) with sec := Sec.reset, strmLead := 1 }).leads f.banner = true := by decide
theorem test_witness_resume_records (l : List FarRec) : (sResume (oPark l)).parkedObj 0x3A000 = some (oPark l) := by
  simp [sResume, oPark, State.parkedObj]
theorem test_witness_resume_waits :
    ({ sResume (oPark []) with parts := [(0, { partOn with granules := [0] })] }).fwMoves 0 [2] = false := by decide
/-- A sealed record opens again; one with another tag does not. -/
theorem test_witness_record (s : State) (o : FarObj) (d : List Byte) :
    s.recOk o (s.seal o 1 2 d) = true ∧ s.recOk o { s.seal o 1 2 d with tag := (s.seal o 1 2 d).tag + 1 } = false := by
  refine ⟨beq_self_eq_true _, ?_⟩
  simp only [State.recOk, State.seal, beq_eq_false_iff_ne, ne_eq]
  intro h
  have h1 := congrArg BitVec.toNat h
  have h2 := (Config.gcmTag (s.farKey o) (Config.farNonce 2) (o.meta 1 2) d).isLt
  rw [BitVec.toNat_add] at h1
  generalize (Config.gcmTag (s.farKey o) (Config.farNonce 2) (o.meta 1 2) d).toNat = n at h1 h2
  have h3 : (1 : BitVec 128).toNat = 1 := rfl
  rw [h3] at h1
  omega
theorem test_witness_resume_bad_tag (r : FarRec) : (oPark [r]).recs = r :: [] := rfl

/-- Store 5 of banner 0 under write key 4. -/
def sStore (op : Nat) (a : Accepted) (far : Far) : State :=
  { sCmd op [] partOn with
    accepted := [a], stores := [(5, { banner := 0, attached := none, near := false })], far := far,
    sec := { Sec.reset with keys := [(0, { banner := 0, gallery := false, keyId := 4, key := 1, wr := true, expiry := 0 })] } }
def farOn : Far := { Far.reset with ready := true }
theorem test_witness_memory_writes :
    let s := sStore 0x0602 (acc0 0x0602 []) farOn
    s.shutdown = false ∧ s.store 0 6 = none ∧ (s.store 0 5).isSome = true ∧ (s.part 0).ns ≠ 0 ∧ (State.reset.part 0).ns = 0 ∧
    s.writeKeyOf 0 = some 4 ∧ State.reset.writeKeyOf 0 = none ∧ s.nsShort 0 5 0 2 = 0 ∧ s.far.waiting = [] ∧ s.far.room 2 = true ∧
    s.far.ready = true ∧ (sStore 0x0602 (acc0 0x0602 []) { farOn with journal := 268435456 }).far.room 1 = false := by decide
theorem test_witness_memory_entries :
    ([[1], [2]] : List (List Byte)) ≠ [] ∧ (∀ e ∈ ([[1], [2]] : List (List Byte)), e.length ≤ 65536) := by decide
theorem test_witness_memory_read :
    let o : FarObj := { banner := 0, stream := false, owner := 5, keyId := 4, complete := true, index := 9, doneSeq := 0, context := 0, recs := [] }
    let t := sStore 0x0603 (acc0 0x0603 []) { farOn with objs := [o] }
    (t.storeObjs 0 5).find? (fun x => x.index == 9 + 0) = some o ∧ t.farKeyHeld 0 o.keyId = true ∧ ∀ x ∈ o.recs, t.recOk o x = true := by
  refine ⟨rfl, by decide, fun x hx => nomatch hx⟩
theorem test_witness_journal_flush :
    let w := { farOn with journal := 268435456, waiting := [(rf 0, 5, 0, [[1]])] }
    let t := sStore 0x0602 (accWait 0x0602) w
    t.far.ready = true ∧ t.far.waiting = [(rf 0, 5, 0, [[1]])] ∧ t.far.journal - 65536 + [([1] : List Byte)].length * 65536 ≤ 268435456 ∧
    Awaits t (rf 0) (accWait 0x0602) ∧ (t.store 0 5).isSome = true ∧ t.writeKeyOf 0 = some 4 := by unfold Awaits; decide
theorem test_witness_store_attached :
    farOn.ready = true ∧ Far.reset.ready = false ∧ (({ sStore 0x0604 (acc0 0x0604 []) Far.reset with stores := [(5, { banner := 0, attached := some 1, near := false })] }).store 0 5) =
      some { banner := 0, attached := some 1, near := false } ∧ State.reset.readsGated = false ∧ ([[1], [2]] : List (List Byte))[1]? = some [2] := by decide

def sPat (b : Bool) : State :=
  { State.reset with stackTbl := [(1, { Stack.reset with trained := true })], granules := [(33, { Granule.reset with badUnit := [(7, b)] })] }
theorem test_witness_patrol (b : Bool) : ((sPat b).stack 1).trained = true ∧ 33 / 33 = 1 ∧ ((sPat b).granule 33).badUnit = [(7, b)] := ⟨rfl, rfl, rfl⟩
theorem test_witness_patrol_elsewhere (b : Bool) (x : Nat) (h : x ≠ 33) : ((sPat b).granule x).badUnit = [] := by
  simp [sPat, State.granule, tget, Ne.symm h, Granule.reset]
/-- A pennant record of task 1, and that task with one expected pennant of digest `d`. -/
def penBytes : List Byte := leBytes 4 1 ++ zeros 20 ++ leBytes 8 77
def sPen (d : BitVec 64) (n : Nat) (has : Bool) : State :=
  { State.reset with pensIn := [penBytes], pensTread := n, parts := [(0, { partOn with penTask := 1 })],
                     tasks := [{ tRun with hasExpected := has, expected := [{ round := 0, layer := 0, core := 0, acc := 0, digest := d, seen := false }] }] }
theorem test_witness_pennant_record (d : BitVec 64) (n : Nat) (h : Bool) :
    (sPen d n h).pensIn[0]? = some penBytes ∧ ((sPen d n h).findTask (BitVec.ofNat 32 (natAt penBytes 0 4))).isSome = true ∧
    ((sPen d n h).part 0).penTask = tRun.id ∧ (((sPen d n h).part 0).pen tRun.id).store = [] := ⟨rfl, rfl, rfl, rfl⟩
theorem test_witness_pennant_expected :
    Expected.meets penBytes { round := 0, layer := 0, core := 0, acc := 0, digest := 77, seen := false } = true ∧
    Expected.meets penBytes { round := 0, layer := 0, core := 0, acc := 0, digest := 78, seen := false } = true ∧
    natAt penBytes 24 8 = 77 := by decide
def logE (n : BitVec 32) : LogEntry := { (default : LogEntry) with seq := n }
theorem test_witness_log_flush (n : BitVec 32) :
    let s := { State.reset with diag := { Diag.reset with buf := [logE 3, logE n] } }
    s.diag.buf = [logE 3] ++ [logE n] ∧ s.rst.pend = none ∧ s.flashBusy = false ∧ s.diag.work.ready ≠ some 1 ∧
    ({ s with diag := { s.diag with work := { s.diag.work with ready := some 1 } } }).flashBusy = false ∧
    ({ s with diag := { s.diag with work := { s.diag.work with progUntil := 1 } } }).flashBusy = true := ⟨rfl, rfl, rfl, nofun, rfl, rfl⟩
theorem test_witness_log_positions : (logE 1023).seq.toNat % 1024 ≠ 0 ∧ (logE 1024).seq.toNat % 1024 = 0 := by decide

/-! ### The fabric, keys, the life cycle -/

/-- A manifest of one module: this one, at row 0, column 0 (Tables 13.2, 13.3). -/
def manBytes : List Byte := leBytes 4 0x4E4D464B ++ leBytes 2 1 ++ [1, 1] ++ zeros 56 ++ leBytes 16 1 ++ [1] ++ zeros 15
theorem test_witness_manifest :
    (State.reset.manifestCheck manBytes = some (manifestOf manBytes, 0)) ∧ State.reset.manifestCheck [] = none ∧
    State.reset.tasks.any Task.live = false ∧ ({ State.reset with tasks := [tRun] }).tasks.any Task.live = true := by decide
theorem test_witness_link_commands :
    ((sL (lk .active)).link 0).st ≠ .off ∧ ((sL (lk .off)).link 0).st = .off ∧ bitOf (1 : Word).toNat 0 = true ∧ bitOf (1 : Word).toNat 1 = false ∧
    bitOf (3 : Word).toNat 0 = true ∧ bitOf (3 : Word).toNat 1 = true ∧ bitOf (2 : Word).toNat 0 = false := by decide

/-- A key message (Table 18.6) and a module whose session 1 speaks for banner 0. -/
def keyBytes (op use force id exp key : Nat) : List Byte :=
  leBytes 1 op ++ [0] ++ leBytes 1 use ++ leBytes 1 force ++ leBytes 4 id ++ leBytes 8 exp ++ leBytes 32 (if op = 1 then key else 0) ++ zeros 16
def key0 (g : Bool) (id : BitVec 32) (key : BitVec 256) : KeySlot := { banner := 0, gallery := g, keyId := id, key := key, wr := false, expiry := 0 }
def sKeys (l : Tbl KeySlot) : State :=
  { State.reset with parts := [(0, { partOn with root := 77 })],
                     sec := { Sec.reset with keys := l, sessions := [(1, { session := 1, mutualAuth := true, rootDigest := 77 })] } }
theorem test_witness_key_session : ∀ op ∈ [1, 2, 3], ∀ use ∈ [1, 2],
    KeySession (sKeys []) 1 op (keyMsg (keyBytes op use 0 4 0 5)) := by unfold KeySession; decide
theorem test_witness_key_deliver :
    (keyMsg (keyBytes 1 1 0 4 0 5)).id ≠ 0 ∧ (keyMsg (keyBytes 1 1 0 4 0 5)).expiry = 0 ∧ (sKeys []).keySlot 0 false 4 = none ∧
    (sKeys []).freeSlots 0 ≠ 0 ∧ (sKeys ((List.range 16).map fun i => (i, key0 false 9 1))).freeSlots 0 = 0 ∧
    (sKeys ((List.range 16).map fun i => (i, key0 false 9 1))).keySlot 0 false 4 = none ∧
    (sKeys [(2, key0 false 4 5)]).keySlot 0 false 4 = some (2, key0 false 4 5) ∧ (sKeys []).keyLive (key0 false 4 5) = true ∧ (keyMsg (keyBytes 1 1 0 4 0 5)).key = 5 := by decide
/-- A rebuilt entry and its park-complete record under key 4 (R420). -/
def parkedFields : StreamFields := { StreamEntry.reset.toStreamFields with st := .paused, context := 7, seed := 9 }
def parkedRec : FarObj :=
  { banner := 0, stream := true, owner := 0x3A000, keyId := 4, complete := true, index := 8, doneSeq := 0, context := 7, recs := [],
    entry := some parkedFields }
def sRebuilt : State :=
  { sKeys [] with far := { Far.reset with objs := [parkedRec] }, streams := [(40960, { StreamEntry.reset with gen := 3, st := .parked })] }
theorem test_witness_key_rebuilt :
    (sRebuilt.stream (streamOf parkedRec.owner)).st = .parked ∧ (sRebuilt.stream (streamOf parkedRec.owner)).context = 0 ∧
    sidOf (streamOf parkedRec.owner) (sRebuilt.stream (streamOf parkedRec.owner)) = parkedRec.owner ∧
    sRebuilt.keySlot 0 false 4 = none ∧ sRebuilt.freeSlots 0 ≠ 0 ∧
    KeySession sRebuilt 1 1 (keyMsg (keyBytes 1 1 0 4 0 5)) := by unfold KeySession; decide
theorem test_key_restores_entry :
    ((xKeyDeliver 1 (keyBytes 1 1 0 4 0 5) sRebuilt).stream 40960).context = 7 := by decide
theorem test_witness_key_discard :
    let s := { sKeys [(2, key0 false 4 5), (3, key0 true 4 5)] with far := { Far.reset with objs :=
      [{ banner := 0, stream := false, owner := 5, keyId := 4, complete := true, index := 0, doneSeq := 0, context := 0, recs := [] }] } }
    let h : GSlot := { GSlot.reset with header := zeros 32 ++ [4] }
    let t : Task := { tRun with grefs := [{ digest := 0, first := 0, layers := 1, backed := false, slot := 3 }] }
    s.farRecords 0 4 ≠ 0 ∧ (sKeys [(2, key0 false 4 5)]).farRecords 0 4 = 0 ∧ (keyMsg (keyBytes 2 1 1 4 0 0)).force = true ∧
    (keyMsg (keyBytes 2 1 0 4 0 0)).force = false ∧ s.keySlot 0 true 4 = some (3, key0 true 4 5) ∧ s.galKeyUsed 0 4 = false ∧
    ({ s with gal := { Gal.reset with slots := [(3, h)] }, tasks := [t] }).galKeyUsed 0 4 = true ∧ s.keySlot 0 false 6 = none := by decide
theorem test_witness_key_other_session :
    (sKeys []).sec.sessions.any (fun x => x.1 == 1) = true ∧ ({ sKeys [] with parts := [] }).sessionFor 1 0 = false ∧
    (keyMsg (keyBytes 3 1 0 4 0 0)).op = 3 ∧ (keyMsg (keyBytes 3 1 0 4 0 0)).banner < 8 ∧ (keyMsg (keyBytes 3 1 0 4 0 0)).bad = false := by decide
theorem test_witness_key_expiry :
    let k (e : BitVec 64) := { key0 false 4 5 with expiry := e }
    let s (v : Bool) := { sKeys [(2, k 0x010107D0)] with clk := { Clk.reset with calValid := v } }
    (s true).sec.keys.find? (fun k => k.1 == 2) = some (2, k 0x010107D0) ∧ (k 0x010107D0).expiry ≠ 0 ∧ (s true).clk.calValid = true ∧
    expiryOrd 0x010107D0 = (s true).clk.secondNow ∧ (s true).clk.secondNow < expiryOrd 0x0100010107D0 ∧ (s false).clk.calValid = false := by
  decide
theorem test_witness_life_cycle :
    let prov := { sCmd 0x0803 [] partOn with sec := { Sec.reset with lcCells := ⟨1, 1, 1⟩, nonce := some 6 } }
    lcTransition (lcOf prov.sec.lcBits) 2 = some false ∧ prov.sec.nonce = some 6 ∧ prov.sec.nonce ≠ some 7 ∧
    lcTransition (lcOf State.reset.sec.lcBits) 2 = none ∧ lcTransition (lcOf State.reset.sec.lcBits) 3 = some true ∧
    lcTransition (lcOf State.reset.sec.lcBits) 4 = some true ∧ State.reset.tasks.any Task.live = false ∧ State.reset.sec.identityKey = true ∧
    ({ Sec.reset with identityKey := false }).identityKey = false := by decide
/-- The majority of the three cells of a state bit is read (R407). -/
theorem test_life_cycle_cells : (OtpCells.mk 1 2 3).read = 3 ∧ (OtpCells.mk 1 2 4).read = 0 ∧ ((OtpCells.mk 1 0 0).program 0).read = 1 := by decide
/-- The way to RETURNED needs a token, whose validity is the enclave's word (log 3). -/
theorem test_witness_token (tok : List Byte) (h : Config.tokenValid State.reset.otp.serial 3 6 tok = true) :
    lcTransition (lcOf State.reset.sec.lcBits) 3 = some true ∧ (true = true → Config.tokenValid State.reset.otp.serial 3 6 tok = true) :=
  ⟨rfl, fun _ => h⟩

/-! ### Power, heat and resets -/

theorem test_witness_avs :
    State.reset.rst.off = false ∧ State.reset.hallOn 19 = true ∧ -50 ≤ (State.reset.hall 19).fused + -50 ∧ (State.reset.hall 19).fused + 25 ≤ 25 := by
  decide
/-- Banner 0 with a budget of 10 W, and hall 0 at power `n`. -/
def sPow (n : BitVec 16) (hold : Bool) (beyond under : Nat) (l : List Task) : State :=
  { State.reset with parts := [(0, { partOn with budgetW := 10, promptHold := hold, overMs := beyond, underMs := under })],
                     halls := [(0, { Hall.reset with assigned := true, banner := 0, power := n })], tasks := l,
                     clk := { Clk.reset with treadCount := 1000 } }
theorem test_witness_budget :
    ((sPow 101 false 0 0 []).part 0).budgetW * 10 < (sPow 101 false 0 0 []).bannerPower 0 ∧
    ((sPow 101 false 0 0 []).part 0).stepAt + 1000 ≤ (sPow 101 false 0 0 []).clk.treadCount ∧ (sPow 101 false 0 0 []).toLower 0 = none ∧
    (sPow 84 true 0 99 []).toRaise 0 = none ∧ (sPow 84 true 0 99 []).bannerPower 0 * 10 < 85 * ((sPow 84 true 0 99 []).part 0).budgetW ∧ 99 ≤ ((sPow 84 true 0 99 []).part 0).underMs ∧
    ((sPow 101 true 1000 0 [tRun]).part 0).promptHold = true ∧ 1000 ≤ ((sPow 101 true 1000 0 [tRun]).part 0).overMs ∧
    ((sPow 101 true 999 0 []).part 0).overMs < 1000 ∧ ((sPow 101 true 1000 0 [tRun]).part 0).valid = true := by decide

def temps (h : Int) (near gal far plate : Int) : ThermalReadings :=
  { hall := [(3, h)], die := 300, gallery := gal, near := [(0, near)], farTier := far, plate := plate }
theorem test_witness_trips :
    tripOf (temps 1150 0 0 0 0) = some 1 ∧ tripOf (temps 0 1050 0 0 0) = some 2 ∧ tripOf (temps 0 0 1150 0 0) = some 8 ∧
    tripOf (temps 0 0 0 850 0) = some 9 ∧ tripOf (temps 0 0 0 0 800) = some 9 ∧ tripOf (temps 1149 1049 1149 849 799) = none := by decide
theorem test_witness_heat :
    tripOf (temps 1100 0 0 0 0) = none ∧ (hottest (temps 1100 0 0 0 0)).2 = 1100 ∧ State.reset.pwr.emergency = false ∧
    allBelow (temps 1049 0 0 0 0) 1050 = true ∧ tripOf (temps 1049 0 0 0 0) = none ∧ (3, 1050) ∈ (temps 1050 0 0 0 0).hall ∧
    tripOf (temps 1050 0 0 0 0) = none ∧ allCool (temps 849 849 849 849 799) = true ∧ tripOf (temps 849 849 849 849 799) = none := by decide
theorem test_witness_emergency :
    let s := { State.reset with pwr := { Pwr.reset with emergency := true, emergForce := true }, tasks := [{ tRun with minStep := 2 }] }
    s.pwr.emergForce = true ∧ s.hallOn 19 = true ∧ tRun.live = true ∧ 1 < ({ tRun with minStep := 2 } : Task).minStep.toNat ∧
    ({ Pwr.reset with emergency := true }).emergForce = false := by decide
theorem test_witness_throttle :
    let x := { tRun with step := 6, minStep := 1 }
    let s := { sPow 0 false 0 0 [x] with pwr := { Pwr.reset with throttle := true, hotHalls := [0], coolFrom := some 0 } }
    s.pwr.throttle = true ∧ s.pwr.hotHalls.contains 0 = true ∧ (s.hall 0).assigned = true ∧
    (s.lowerOrder (s.hall 0).banner).filter (fun t => decide (t.minStep.toNat < t.step.toNat)) = [x] ∧ s.isLead x = true ∧ s.clk.armAt = none ∧
    s.pwr.emergency = false ∧ 1 < x.step.toNat ∧ x.step.toNat ≤ maxStep s.otp.grade ∧
    (∀ g < 20, (s.hall g).stepCur.toNat ≤ maxStep s.otp.grade ∧ ((s.hall g).stepCur = 0 → s.hallRunning g = false)) := by decide
theorem test_witness_throttle_end :
    let s := { State.reset with pwr := { Pwr.reset with throttle := true, coolFrom := some 0 }, clk := { Clk.reset with treadCount := 1000000 } }
    s.pwr.coolFrom = some 0 ∧ 0 + 1000000 ≤ s.clk.treadCount ∧ s.pwr.throttle = true := by decide
theorem test_witness_coolant : ({ Pwr.reset with sensing := true }).sensing = true ∧ (159 : Nat) < 160 ∧ (450 : Int) < 451 ∧
    (180 : Nat) < 181 ∧ (429 : Int) < 430 ∧ (99 : Nat) < 100 ∧ (500 : Int) < 501 ∧ (100 : Nat) ≤ 100 := by decide
theorem test_witness_supply :
    let s (t : Bool) := { State.reset with rst := { Rst.reset with off := true, trapped := t } }
    (s true).rst.off = true ∧ (s true).rst.trapped = true ∧ (s false).rst.trapped = false ∧ State.reset.rst.off = false ∧ State.reset.rst.pend = none := by decide
/-- A reset of class `cls` for `cause` that waits until tread 2. -/
def sPend (cls : RstClass) (cause : BitVec 10) (now : Nat) (count : BitVec 4) : State :=
  { State.reset with clk := { Clk.reset with treadCount := now }, rst := { Rst.reset with
      count := count, isReady := true, step := 15,
      pend := some { cls := cls, causes := cause, sc := 0, ckfPll := false, borRail := false, held := false, at_ := some 2 } } }
/-- A sector of the log ring is being erased until tread 9. -/
def sErase : State := { State.reset with diag := { Diag.reset with work := { Diag.reset.work with erasing := some (7, 9) } } }
theorem test_witness_resets :
    State.reset.rst.pend = none ∧ (sPend .warm causeSwr 1 0).rst.pend.isSome = true ∧ (sPend .warm causeSwr 1 0).clk.treadCount < 2 ∧
    2 ≤ (sPend .warm causeSwr 2 6).clk.treadCount ∧ causeSwr.getLsbD 0 = false ∧ causeDbg.getLsbD 0 = false ∧
    (sPend .warm causeSwr 2 6).rst.count.toNat < 7 ∧ 7 ≤ (sPend .full causeDbg 2 7).rst.count.toNat ∧
    (sPend .warm causeSwr 2 6).rst.busy = false ∧ State.reset.rst.busy = true ∧ (sPend .full causeDbg 2 7).rst.off = false ∧
    (∃ p, (sPend .warm causeSwr 2 6).rst.pend = some p ∧ p.cls = .warm ∧ p.at_ ≠ none ∧ ({ p with at_ := none } : PendReset).at_ = none) ∧
    10000000 ≤ ({ Rst.reset with sinceTreads := 10000000 }).sinceTreads ∧ Rst.reset.sinceTreads < 10000000 ∧
    (sPend .warm causeSwr 2 6).pulsing = false ∧ ({ sPend .warm causeSwr 2 6 with gal := { Gal.reset with pulses := [some 3] } }).pulsing = true ∧
    (∃ n a, sErase.pulsing = true ∧ sErase.diag.work.erasing = some (n, a)) :=
  ⟨by decide, by decide, by decide, by decide, by decide, by decide, by decide, by decide, by decide, by decide, by decide,
   ⟨_, rfl, by decide⟩, by decide, by decide, by decide, by decide, ⟨7, 9, by decide⟩⟩

/-! ### Bring-up and the whole machine -/

/-- The fields of an option block of sequence `seq` (Table 19.5), and the copy with its CRC. -/
def optFields (seq : Nat) : List Byte :=
  leBytes 4 0x54504F4B ++ leBytes 2 1 ++ leBytes 2 0 ++ leBytes 4 seq ++ [0x0C, 0x0C, 0, 0, 0xD0, 0] ++ leBytes 2 500 ++ leBytes 2 2000 ++
    zeros 10 ++ leBytes 4 65536 ++ leBytes 4 65536 ++ leBytes 4 131072 ++ leBytes 4 65536 ++ leBytes 4 0x400000 ++ leBytes 4 0x400000 ++
    leBytes 4 0x800000 ++ leBytes 4 0x1000000 ++ leBytes 4 131072
def optBody (seq : Nat) : List Byte := optFields seq ++ zeros 4024
def optImage (seq : Nat) : List Byte := optBody seq ++ leBytes 4 (crc32 (optBody seq)).toNat
theorem optFields_length (seq : Nat) : (optFields seq).length = 68 := by simp [optFields, leBytes_length, zeros]
theorem optBody_length (seq : Nat) : (optBody seq).length = 4092 := by simp [optBody, optFields_length, zeros]
theorem test_option_crc (seq : Nat) : (crc32 ((optImage seq).take 4092)).toNat = natAt (optImage seq) 4092 4 := by
  have h : (optImage seq).take 4092 = optBody seq := by
    rw [optImage, List.take_left' (optBody_length seq)]
  have g : bytesAt (optImage seq) 4092 4 = leBytes 4 (crc32 (optBody seq)).toNat := by
    rw [bytesAt, optImage, List.drop_left' (optBody_length seq), List.take_of_length_le (Nat.le_of_eq (leBytes_length _ _))]
  rw [h, natAt, g, leNat_leBytes, Nat.mod_eq_of_lt (Nat.lt_of_lt_of_le (crc32 (optBody seq)).isLt (by decide))]
theorem test_option_rest (seq : Nat) : allZero (bytesAt (optImage seq) 68 4024) = true := by
  have g : bytesAt (optImage seq) 68 4024 = zeros 4024 := by
    rw [bytesAt, optImage, optBody, List.append_assoc, List.drop_left' (optFields_length seq), List.take_left' (by simp [zeros])]
  rw [g]; simp [allZero, zeros]
/-- Valid copies exist (R429). -/
theorem test_witness_option_copies : (∀ n ∈ [5, 6], optValid (optImage n) = true) ∧ optValid [] = false ∧ natAt (optImage 5) 8 4 ≤ natAt (optImage 6) 8 4 ∧
    natAt (optImage 5) 8 4 < natAt (optImage 6) 8 4 := by
  refine ⟨fun n hn => ?_, by decide⟩
  unfold optValid
  rw [test_option_crc, test_option_rest]
  simp only [beq_self_eq_true]
  revert n; decide
def sStep (n : BitVec 4) (cls : RstClass) (lock recovery : Bool) : State :=
  { State.reset with rst := { Rst.reset with step := n, cls := cls, recovery := recovery, stepUs := if n = 7 then [(7, 1)] else [] },
                     sec := { Sec.reset with lock := lock, rollback := 5 } }
theorem test_witness_bring_up_steps :
    (∀ n ∈ [(0 : BitVec 4), 1, 2, 3, 4, 5, 6, 7, 14], (sStep n .cold true false).rst.step = n ∧ (sStep n .cold true false).rst.off = false ∧
      (sStep n .cold true false).rst.isReady = false) ∧
    (sStep 2 .cold false false).fullBoot = true ∧ (sStep 2 .warm false false).fullBoot = false ∧
    (sStep 7 .cold true false).rst.stepUs.any (fun p => p.1 == 7) = true ∧ (sStep 6 .cold true false).rst.stepUs.any (fun p => p.1 == 7) = false ∧
    (sStep 3 .cold true true).rst.recovery = true ∧ (sStep 3 .cold false true).sec.lock = false := by decide
/-- The rails at 25 ms and a microsecond beyond (R431). -/
theorem test_rails : (xRails 25000 (sStep 0 .cold false false)).rst.off = false ∧ (xRails 25000 (sStep 0 .cold false false)).rst.step = 1 ∧
    (xRails 25001 (sStep 0 .cold false false)).rst.off = true := by decide
/-- A split port 0 is up as x8, and as x16 while the ROM waits for a host push (R366, R428). -/
theorem test_pcie_widths :
    let s (n : BitVec 4) := { sStep n .cold true false with opt := { Opt.reset with pcie0 := 0xD } }
    ((xPcieLinkUp 0 6 true (s 7)).fn 0).width = 8 ∧ ((xPcieLinkUp 0 6 true (s 7)).fn 1).present = true ∧
    ((xPcieLinkUp 0 6 true (s 14)).fn 0).width = 16 ∧ ((xPcieLinkUp 0 6 true (s 14)).fn 1).present = false := by decide
theorem test_witness_boot_images :
    let img (v : BitVec 16) : FwImage := { (default : FwImage) with secver := v }
    let enc (v : BitVec 16) : EnclaveImage := { ok := true, secver := v }
    (sStep 2 .cold false false).sec.rollback.toNat ≤ (enc 5).secver.toNat ∧ (enc 5).ok = true ∧
    (enc 4).secver.toNat < (sStep 2 .cold false false).sec.rollback.toNat ∧
    (sStep 2 .cold false false).sec.rollback.toNat ≤ (img 5).secver.toNat ∧ (img 4).secver.toNat < (sStep 2 .cold false false).sec.rollback.toNat := by
  decide
/-- A stream block reset, a known option copy and a waiting reset, before which a command of theirs changes nothing (R421, R425). -/
theorem test_witness_held_back :
    ({ State.reset with rst := { Rst.reset with blockStrm := true } }).rst.blockStrm = true ∧ State.reset.rst.blockStrm = false ∧
    (sPend .full causeDbg 2 7).rst.pend ≠ none ∧ State.reset.rst.optDefault = false ∧ ({ Rst.reset with blockFar := false }).blockFar = false := by
  decide
/-- The copies of the option block once the model knows them, and the window of a host push (R428, R429). -/
theorem test_witness_copies_known :
    ({ sStep 1 .cold true false with settings := { Settings.reset with optA := some [] } }).settings.optA.getD [1] = [] ∧
    Settings.reset.optA.getD [1] = [1] := by decide
theorem test_witness_push_window :
    let s := { sStep 14 .cold false false with fns := [(0, { HostFn.reset with present := true })] }
    s.rst.step = 14 ∧ (s.fn 0).present = true ∧ (xRegisterWrite (.host 0) 0x7FFFFC 4 1 s).rst.window.length = 1 := by decide
theorem test_witness_directory :
    (∀ p ∈ (sStep 3 .warm true false).parts, p.2.valid = true → p.2.teardown = false) ∧
    ({ GSlot.reset with st := .valid, badCopies := [1] }).damaged = true ∧
    ({ GSlot.reset with st := .valid, header := [1] }).headerDamaged = true ∧
    ({ GSlot.reset with st := .valid }).headerDamaged = false := by decide
/-- The settings hold a manifest with the module's own record and partitions without a teardown (R293, R393, R455). -/
theorem test_witness_settings :
    let s := { sStep 3 .cold true false with
      settings := { Settings.reset with manifest := some (manifestOf manBytes), parts := some [(0, partOn)], capModule := 1500, tripCause := 5 } }
    s.ownPosition (manifestOf manBytes) = some 0 ∧ (∀ p ∈ s.settings.parts.getD s.parts, p.2.valid = true → p.2.teardown = false) ∧
    s.rst.cls = .cold ∧ Settings.reset.manifest = none ∧ (xServiceCores ⟨1, true, []⟩ s).fabAddr = some 0 ∧
    (xServiceCores ⟨1, false, []⟩ s).manifest = none ∧ (xServiceCores ⟨1, true, []⟩ s).pwr.capModule = 1500 := by decide
theorem test_witness_calibration : ([0, 253, 1, 2, 3, 4] : List (BitVec 8)).length = 6 ∧
    ∀ i < 6, (([0, 253, 1, 2, 3, 4] : List (BitVec 8)).getD i 0).toNat < 254 := by decide
theorem test_witness_links_bring_up :
    ({ Opt.reset with linksDefer := true }).linksDefer = true ∧ Opt.reset.linksDefer = false ∧ State.reset.noPartner 0 = false ∧
    ({ State.reset with fabAddr := some 0, manifest := some { manAll with recs := [default, default] } }).noPartner 0 = true := by decide
theorem test_witness_every_step :
    ({ State.reset with pending := [.dbg] }).pending = .dbg :: [] ∧ LifeOk State.reset ∧
    step { State.reset with pending := [.dbg] } = .next (xDbg { State.reset with pending := [] }) :=
  ⟨rfl, by unfold LifeOk; intro i h; rcases i with _ | _ | _ | _ | i <;> simp_all [State.reset, Sec.reset, Sec.lcBits, OtpCells.read, BitVec.getLsbD], rfl⟩
/-- Leap years at the boundaries of R53. -/
theorem test_leap_years : leapYear 2000 = true ∧ leapYear 2004 = true ∧ leapYear 2100 = false ∧ leapYear 2399 = false := by decide

/-! ### Ill-formed commands are refused by each check -/

theorem test_ill_formed_setk :
    Instr.wf (.setkSet 0 { w0 with mod := 1 }) = false ∧ Instr.wf (.setkAdd 0 w0) = false ∧ Instr.wf (.setkCopy 0 w0) = false ∧
    Instr.wf (.setkLoad 0 w0) = false ∧ Instr.wf (.setkFlags 0 w0) = false ∧ Instr.wf (.setkFlagClear 0 w0) = false ∧
    Instr.wf (.setkFlagSet 0 w0) = false ∧ Instr.wf (.setkFlagSet 0 { w0 with mod := 6 }) = true := by decide
theorem test_ill_formed_pennant :
    Instr.wf (.sPennantClear 0 { w0 with mod := 1 }) = false ∧ Instr.wf (.sPennantStore 0 w0) = false ∧ Instr.wf (.sPennantFold 0 w0) = false ∧
    Instr.wf (.sPennantEmit 0 w0) = false ∧ Instr.wf (.sPennantEmit 0 { w0 with mod := 3 }) = true := by decide
theorem test_ill_formed_frames :
    Instr.wf (.frameReceipt 0 { frame0 true true 0 with data := [] }) = false ∧ Instr.wf (.frameReceipt 0 (frame0 true true 0)) = true ∧
    Instr.wf (.statusFrame 0 (rxOk none) { status0 false with ack := [] }) = false := by decide
theorem test_ill_formed_writes :
    Instr.wf (.registerWrite (.host 0) 0 3 0) = false ∧ Instr.wf (.registerWrite (.host 0) 2 4 0) = false ∧
    Instr.wf (.registerWrite (.host 0) 8 8 0) = true ∧ Instr.wf (.galleryCommit (rf 0) 0 []) = false := by decide
theorem test_ill_formed_lengths :
    Instr.wf (.commandFetch 0 0 (some (List.replicate 4097 0))) = false ∧ Instr.wf (.streamAppend (rf 0) (some (List.replicate 4097 0))) = false ∧
    Instr.wf (.optionReader [] [] 0) = false := by simp [Instr.wf]

end Sys2Proof.Tests
end

section
/-! SUPPORT. Laws of a halt: a core that halts takes back packets of its own puts at most, and its record says what
halted it (R191, R233, R162). -/

namespace Sys2Proof.Machine

open Sys2Proof.Safety

/-- Reading a table whose values are mapped by a function that keeps the default. -/
theorem tget_map {α : Type} (d : α) (f : α → α) (hd : f d = d) (t : Tbl α) (k : Nat) :
    tget d (t.map fun p => (p.1, f p.2)) k = f (tget d t k) := by
  induction t with
  | nil => exact hd.symm
  | cons p t ih =>
    simp only [List.map_cons, tget, ih]
    split <;> rfl

end Sys2Proof.Machine

namespace Sys2Proof.Safety

open Sys2Proof.Machine

theorem OnlyCoreHalt.refl (c : Nat) (s : State) : OnlyCoreHalt c s s :=
  ⟨rfl, fun _ _ => rfl, .refl _, fun _ hp _ => hp, fun _ => ⟨.refl _, rfl, fun _ hm _ => hm⟩⟩

theorem OnlyCoreHalt.globalAddr {c : Nat} {s t : State} (h : OnlyCoreHalt c s t) (d : Nat) :
    t.globalAddr d = s.globalAddr d := by
  rw [h.1]; rfl

theorem OnlyCoreHalt.trans {c : Nat} {s t u : State} (h : OnlyCoreHalt c s t) (g : OnlyCoreHalt c t u) :
    OnlyCoreHalt c s u := by
  have haddr := h.globalAddr c
  obtain ⟨hrest, hcores, hmesh, hkept, hlinks⟩ := h
  obtain ⟨grest, gcores, gmesh, gkept, glinks⟩ := g
  rw [haddr] at gkept
  refine ⟨by rw [grest, hrest], fun d hd => (gcores d hd).trans (hcores d hd), gmesh.trans hmesh,
    fun p hp hk => gkept p (hkept p hp hk) hk, fun l => ?_⟩
  obtain ⟨hsub, hlink, hsent⟩ := hlinks l
  obtain ⟨gsub, glink, gsent⟩ := glinks l
  rw [haddr] at gsent
  exact ⟨gsub.trans hsub, by rw [glink, hlink], fun m hm hk => gsent m (hsent m hm hk) hk⟩

theorem OnlyCore.toHalt {c : Nat} {s t : State} (h : OnlyCore c s t) : OnlyCoreHalt c s t := by
  obtain ⟨hrest, hcores⟩ := h
  have hmesh : t.mesh = s.mesh := by rw [hrest]
  have hlink : ∀ l, t.link l = s.link l := fun l => by rw [hrest]; rfl
  refine ⟨by rw [hrest], hcores, hmesh ▸ .refl _, fun p hp _ => by rwa [hmesh], fun l => ?_⟩
  rw [hlink]
  exact ⟨.refl _, rfl, fun _ hm _ => hm⟩

/-- The counter of free values and the tasks are outside what `OnlyCoreHalt` keeps. -/
theorem OnlyCoreHalt.of_fresh_tasks (c : Nat) (s : State) (n : Nat) (l : List Task) :
    OnlyCoreHalt c s { s with fresh := n, tasks := l } :=
  ⟨rfl, fun _ _ => rfl, .refl _, fun _ hp _ => hp, fun _ => ⟨.refl _, rfl, fun _ hm _ => hm⟩⟩

end Sys2Proof.Safety

namespace Sys2Proof.Machine

open Sys2Proof.Safety

theorem putPacket_own {s : State} {c : Nat} {i : StreamInstr} {q : BitVec 16} {p : Packet}
    (h : s.putPacket c i q p = true) : p.kind = 3 ∧ p.source = s.globalAddr c := by
  simp only [State.putPacket, Bool.and_eq_true, beq_iff_eq] at h
  obtain ⟨⟨⟨hown, -⟩, -⟩, -⟩ := h
  exact hown

theorem putMessage_own {s : State} {c : Nat} {i : StreamInstr} {q : BitVec 16} {m : TxMsg}
    (h : s.putMessage c i q m = true) : m.head.kind = 3 ∧ m.head.source = s.globalAddr c := by
  simp only [State.putMessage, Bool.and_eq_true, beq_iff_eq] at h
  obtain ⟨⟨⟨⟨⟨hown, -⟩, -⟩, -⟩, -⟩, -⟩ := h
  exact hown

/-- What belongs to none of the puts that a core has made is not taken back with discarded elements. -/
theorem not_discarded {es : List (StreamInstr × Elem)} {own : StreamInstr → BitVec 16 → Bool}
    (h : ∀ i q, ¬ own i q = true) : (!es.any fun x => x.2.wait.any (own x.1)) = true := by
  simp [h]

/-- A link of which some messages have been taken out of its queue. -/
theorem link_of_txQ_filter (s : State) (f : TxMsg → Bool) (l : Nat) :
    tget Link.reset (s.links.map fun x : Nat × Link => (x.1, { x.2 with txQ := x.2.txQ.filter f })) l =
      { s.link l with txQ := (s.link l).txQ.filter f } :=
  tget_map Link.reset (fun x => { x with txQ := x.txQ.filter f }) rfl s.links l

theorem takeBack_core (s : State) (c d : Nat) : (s.takeBack c).core d = s.core d := by
  unfold State.takeBack
  dsimp only
  split <;> rfl

/-- Discarded elements take back packets and messages of the core's own puts, and nothing else (R162). -/
theorem takeBack_onlyCoreHalt (s : State) (c : Nat) : OnlyCoreHalt c s (s.takeBack c) := by
  unfold State.takeBack
  dsimp only
  split
  · exact OnlyCoreHalt.refl c s
  · refine ⟨rfl, fun _ _ => rfl, List.filter_sublist, fun p hp hk => ?_, fun l => ?_⟩
    · refine List.mem_filter.mpr ⟨hp, ?_⟩
      refine not_discarded (own := fun i q => s.putPacket c i q p) fun i q hq => ?_
      obtain ⟨hkind, hsource⟩ := putPacket_own hq
      exact hk.elim (· hkind) (· hsource)
    · simp only [State.link]
      rw [link_of_txQ_filter]
      refine ⟨List.filter_sublist, rfl, fun m hm hk => List.mem_filter.mpr ⟨hm, ?_⟩⟩
      refine not_discarded (own := fun i q => s.putMessage c i q m) fun i q hq => ?_
      obtain ⟨hkind, hsource⟩ := putMessage_own hq
      exact hk.elim (· hkind) (· hsource)

/-- What a halt does: the core is as `Core.halted` gives with the record of the halt; the rest changes as `OnlyCoreHalt` allows
(R191, R233, R235). -/
theorem haltCore_spec (s : State) (c : Nat) (r : BitVec 8) (pc : BitVec 32) (e : FaultEngine) (aux : BitVec 64)
    (hrun : (s.core c).st ≠ .halted) :
    let t := s.haltCore c r pc e aux
    OnlyCoreHalt c s t ∧ ∃ (k : Core) (unsent : Elem → Bool), t.core c = k.halted (s.faultRec c r pc e aux) unsent := by
  intro t
  let k1 := if (s.core c).st = .running then (s.core c).haltTrace (traceOf s (s.core c) (s.taskOf c)) else s.core c
  let u := (s.takeBack c).setCore c (k1.halted (s.faultRec c r pc e aux) (s.unsent c))
  have hu : OnlyCoreHalt c s u := (takeBack_onlyCoreHalt s c).trans (OnlyCore.setCore _ _ _).toHalt
  have ht : ∃ n l, t = { u with fresh := n, tasks := l } := by
    simp only [t, State.haltCore, if_neg hrun]
    split
    · split
      · exact ⟨_, _, rfl⟩
      · exact ⟨_, _, rfl⟩
    · exact ⟨_, _, rfl⟩
  obtain ⟨n, l, ht⟩ := ht
  rw [ht]
  exact ⟨hu.trans (.of_fresh_tasks c u n l), k1, s.unsent c, State.core_setCore _ _ _⟩

theorem haltCore_onlyCoreHalt (s : State) (c : Nat) (r : BitVec 8) (pc : BitVec 32) (e : FaultEngine) (aux : BitVec 64) :
    OnlyCoreHalt c s (s.haltCore c r pc e aux) := by
  by_cases hrun : (s.core c).st = .halted
  · simp only [State.haltCore, if_pos hrun]
    exact OnlyCoreHalt.refl c s
  · exact (haltCore_spec s c r pc e aux hrun).1

/-- A core that was not HALTED is HALTED for the reason given, with the record of this halt (R191, R239). -/
theorem haltCore_haltedAt (s : State) (c : Nat) (r : BitVec 8) (pc : BitVec 32) (e : FaultEngine) (aux : BitVec 64)
    (hrun : (s.core c).st ≠ .halted) : HaltedAt (s.haltCore c r pc e aux) c r pc e aux := by
  obtain ⟨honly, k, unsent, hk⟩ := haltCore_spec s c r pc e aux hrun
  have hclk : (s.haltCore c r pc e aux).clk = s.clk := by rw [honly.1]
  unfold HaltedAt
  rw [hk, hclk]
  exact ⟨rfl, rfl, _, rfl, rfl, rfl, rfl, rfl, rfl, rfl⟩

end Sys2Proof.Machine
end

section
/-! SUPPORT. UNTIL (R29, R186): its three cases at issue, and what a boundary does to a core that waits in it. -/

namespace Sys2Proof.Machine

open Sys2Proof.Safety

/-- The wait and the issue order leave the core with its task. -/
theorem treadOf_take (s : State) (c : Nat) (w : IWord) :
    (s.setCore c ((s.core c).take w)).treadOf c = s.treadOf c := by
  have hload : ((s.core c).take w).loadId = (s.core c).loadId := by
    rw [take_issueOnly (s.core c) w]
  simp only [State.treadOf, State.taskOf, State.core_setCore, hload] <;> rfl

theorem constOrImm_take (k : Core) (w : IWord) (v : BitVec 16) : constOrImm (k.take w) w v = constOrImm k w v := by
  simp [constOrImm]

theorem Core.running_of_mayIssue {k : Core} (h : k.mayIssue = true) : k.st = .running := by
  simp only [Core.mayIssue, Bool.and_eq_true, beq_iff_eq] at h
  exact h.1

/-- The core that UNTIL leaves waiting for tread `n`: it has taken the word and stepped on. -/
def Core.awaitTread (k : Core) (w : IWord) (n : Nat) (g : Tag) : Core :=
  { k.take w with treadSt := .untilT n g }.advance

theorem awaitTread_issueOnly (k : Core) (w : IWord) (n : Nat) (g : Tag) : IssueOnly k (k.awaitTread w n g) := by
  have hwait : IssueOnly (k.take w) { k.take w with treadSt := .untilT n g } := rfl
  exact ((take_issueOnly k w).trans hwait).trans (advance_issueOnly _)

theorem awaitTread_pc (k : Core) (w : IWord) (n : Nat) (g : Tag) : (k.awaitTread w n g).pc = k.advance.pc := by
  refine (advance_congr _ _ ?_ ?_ ?_ ?_ ?_).1 <;> simp

@[simp] theorem awaitTread_frame (k : Core) (w : IWord) (n : Nat) (g : Tag) :
    (k.awaitTread w n g).k = k.k ∧ (k.awaitTread w n g).vflags = k.vflags ∧
    (k.awaitTread w n g).treadSt = .untilT n g ∧ (k.awaitTread w n g).cc = (k.take w).cc := by
  simp [Core.awaitTread]

section

variable {s : State} {c : Nat} {w : IWord} (hp : Presented s c 0x0A w)
  (hb : checkWord w 0 ([.sel [.konst, .imm], .unused, .unused, .unused] ++ immUse (isImm w.o0)) = none)
include hp hb

/-- UNTIL at the head, its checks passed, is decided by the tread it names and the current one (R29). -/
theorem xUntilTread_issues :
    xUntilTread c w s =
      if constOrImm (s.core c) w w.o0 < s.treadOf c then
        (s.setCore c ((s.core c).take w)).haltCore c 0x30 (s.core c).pc .none 0
      else if constOrImm (s.core c) w w.o0 = s.treadOf c then
        (s.setCore c ((s.core c).take w)).completeControl c (s.tagOf c w)
      else
        ((s.setCore c ((s.core c).take w)).updCore c fun k =>
          { k with treadSt := .untilT (constOrImm (s.core c) w w.o0) (s.tagOf c w) }).stepPc c := by
  unfold xUntilTread
  rw [present_issues (h := hp) (hb := hb) (hr := rfl)]
  simp only [State.core_setCore, constOrImm_take, treadOf_take] <;> rfl

/-- UNTIL of the current tread completes as a control instruction does. -/
theorem xUntilTread_current (hf : SignalFits (s.core c) w) (hn : constOrImm (s.core c) w w.o0 = s.treadOf c) :
    Issued s (xUntilTread c w s) c w ∧ NextInOrder (s.core c) ((xUntilTread c w s).core c) ∧
      SameConstants (s.core c) ((xUntilTread c w s).core c) := by
  have hissued := completeControl_issued s c w id hp hf fun k => ⟨k.k, k.vflags, rfl⟩
  rw [updCore_id] at hissued
  rw [xUntilTread_issues hp hb, if_neg (by omega), if_pos hn]
  obtain ⟨hi, hnext, hk, hv⟩ := hissued
  exact ⟨hi, hnext, by simpa using hk, by simpa using hv⟩

/-- UNTIL of a later tread steps on and leaves the core waiting; its signal is in the tag it keeps. -/
theorem xUntilTread_later (hn : s.treadOf c < constOrImm (s.core c) w w.o0) :
    OnlyCore c s (xUntilTread c w s) ∧
      (xUntilTread c w s).core c = (s.core c).awaitTread w (constOrImm (s.core c) w w.o0) (s.tagOf c w) := by
  rw [xUntilTread_issues hp hb, if_neg (by omega), if_neg (by omega)]
  refine ⟨((OnlyCore.setCore _ _ _).trans (OnlyCore.updCore _ _ _)).trans (OnlyCore.updCore _ _ _), ?_⟩
  simp [State.stepPc, Core.awaitTread]

/-- UNTIL of a tread that has passed halts its core. -/
theorem xUntilTread_passed (hn : constOrImm (s.core c) w w.o0 < s.treadOf c) :
    OnlyCoreHalt c s (xUntilTread c w s) ∧ HaltedAt (xUntilTread c w s) c 0x30 (s.core c).pc .none 0 := by
  have hrun : ((s.setCore c ((s.core c).take w)).core c).st ≠ .halted := by
    simp [Core.running_of_mayIssue hp.1]
  rw [xUntilTread_issues hp hb, if_pos hn]
  exact ⟨(OnlyCore.setCore _ _ _).toHalt.trans (haltCore_onlyCoreHalt _ _ _ _ _ _), haltCore_haltedAt _ _ _ _ _ _ hrun⟩

end

/-- A core that waits in UNTIL, once a boundary has traced the tread that it passed (R444). -/
def State.untilTraced (s : State) (c : Nat) (g : Tag) : Core :=
  { (s.core c).pushTrace (traceOf s { s.core c with pc := g.pc } (s.taskOf c)) with firstPc := none }

/-- A boundary within the round: UNTIL completes when the tread that opens is its own, and otherwise waits on (R29, R186). -/
theorem openTread_until (s : State) (c next n : Nat) (g : Tag) (hrun : (s.core c).st = .running)
    (hu : (s.core c).treadSt = .untilT n g) :
    s.openTread c next false =
      if n = next then
        (s.setCore c { s.untilTraced c g with treadSt := .open_ }).tick.signal c g .control
      else (s.setCore c (s.untilTraced c g)).tick := by
  simp only [State.openTread, hrun, hu] <;> rfl

theorem openTread_until_waits (s : State) (c next n : Nat) (g : Tag) (hrun : (s.core c).st = .running)
    (hu : (s.core c).treadSt = .untilT n g) (hn : n ≠ next) :
    (s.openTread c next false).core c = s.untilTraced c g := by
  rw [openTread_until s c next n g hrun hu, if_neg hn]
  simp

theorem openTread_until_completes (s : State) (c n : Nat) (g : Tag) (hrun : (s.core c).st = .running)
    (hu : (s.core c).treadSt = .untilT n g) (hg : TagFits (s.core c) g) :
    let k := (s.openTread c n false).core c
    k = { s.untilTraced c g with treadSt := .open_, cc := k.cc } ∧ Signalled (s.core c) k g := by
  have hcore : (s.setCore c { s.untilTraced c g with treadSt := .open_ }).tick.core c =
      { s.untilTraced c g with treadSt := .open_ } := by simp
  obtain ⟨-, hk, hcc⟩ := signal_fits (s.setCore c { s.untilTraced c g with treadSt := .open_ }).tick c g .control
    (by rw [hcore]; exact hg)
  rw [openTread_until s c n n g hrun hu, if_pos rfl]
  rw [hcore] at hk hcc
  exact ⟨hk, hcc⟩

end Sys2Proof.Machine

open Sys2Proof Sys2Proof.Machine Sys2Proof.Safety

/-- Settles O5: the word's three cases at issue, then the boundary's two. -/
theorem untilWaitsForItsTread : Obligations.UntilWaitsForItsTread := by
  unfold Obligations.UntilWaitsForItsTread
  intro s c w hf
  refine ⟨fun hp hb => ⟨fun hn => ?_, fun hn => ?_, fun hn => ?_⟩, fun n g next hrun hu => ⟨fun hn => ?_, fun hn hg => ?_⟩⟩
  · exact ⟨_, rfl, xUntilTread_current hp hb hf hn⟩
  · obtain ⟨honly, hk⟩ := xUntilTread_later hp hb hn
    refine ⟨_, rfl, honly, ?_⟩
    rw [hk]
    refine ⟨awaitTread_issueOnly _ _ _ _, by simp [SameConstants], awaitTread_pc _ _ _ _,
      ⟨s.tagOf c w, by simp, rfl⟩, fun i => ?_⟩
    rw [← take_cc _ _ hp.2.2.1]
    simp [ccVal]
  · exact ⟨_, rfl, xUntilTread_passed hp hb hn⟩
  · rw [openTread_until_waits s c next n g hrun hu hn]
    exact ⟨hu, rfl⟩
  · subst hn
    obtain ⟨hk, hsig⟩ := openTread_until_completes s c n g hrun hu hg
    exact ⟨by rw [hk], by rw [hk]; rfl, hsig⟩

/-- The two disjuncts of the model's test, as divisibility. -/
theorem leapYear_iff (y : Nat) : leapYear y = true ↔ (4 ∣ y ∧ ¬ 100 ∣ y) ∨ 400 ∣ y := by
  simp only [leapYear, Bool.or_eq_true, Bool.and_eq_true, beq_iff_eq, bne_iff_ne, Nat.dvd_iff_mod_eq_zero, ne_eq]

/-- Settles O60: a year that 400 divides is one that 4 divides, so the two disjuncts of `leapYear` are the rule of R53. -/
theorem leapYearsOfTheCalendar : Obligations.LeapYearsOfTheCalendar := by
  unfold Obligations.LeapYearsOfTheCalendar
  refine ⟨fun y => ?_, by decide, by decide, by decide, by decide⟩
  have h4 : 400 ∣ y → 4 ∣ y := Nat.dvd_trans (by decide)
  rw [leapYear_iff]
  constructor
  · rintro (⟨hfour, hcentury⟩ | h400)
    · exact ⟨hfour, fun h => absurd h hcentury⟩
    · exact ⟨h4 h400, fun _ => h400⟩
  · rintro ⟨hfour, hcentury⟩
    by_cases h100 : 100 ∣ y
    · exact .inr (hcentury h100)
    · exact .inl ⟨hfour, h100⟩
end

section
/-! SUPPORT. The redirects (R172, R184, R185): JUMP, CALL and RET leave one kind of core, which differs in its target and its
return stack, and the checks of R173 that halt them and EXIT. -/

namespace Sys2Proof.Machine

open Sys2Proof.Safety

/-! ### Redirects -/

/-- The core that a control instruction redirects to `pc`, with the return stack that it leaves. -/
def Core.redirectTo (k : Core) (pc : BitVec 32) (stack : List (BitVec 32)) : Core :=
  { k.keepLoops.redirect pc with retStack := stack }

theorem redirectTo_issueOnly (k : Core) (pc : BitVec 32) (stack : List (BitVec 32)) :
    IssueOnly k (k.redirectTo pc stack) := rfl

@[simp] theorem redirectTo_frame (k : Core) (pc : BitVec 32) (stack : List (BitVec 32)) :
    (k.redirectTo pc stack).pc = pc ∧ (k.redirectTo pc stack).retStack = stack ∧
    (k.redirectTo pc stack).lcs = k.lcs ∧ (k.redirectTo pc stack).k = k.k ∧
    (k.redirectTo pc stack).vflags = k.vflags ∧ (k.redirectTo pc stack).cc = k.cc :=
  ⟨rfl, rfl, rfl, rfl, rfl, rfl⟩

/-- Word `w` issues on core `c` as a redirect to `pc` and signals. -/
def State.redirected (s : State) (c : Nat) (w : IWord) (pc : BitVec 32) (stack : List (BitVec 32)) : State :=
  (s.setCore c (((s.core c).take w).redirectTo pc stack)).signal c (s.tagOf c w) .control

/-- A redirect is an issue that moves the program counter and sets the return stack; constants and loop counts stay. -/
theorem redirected_issued {op : Nat} {s : State} {c : Nat} {w : IWord} (hp : Presented s c op w)
    (hf : SignalFits (s.core c) w) (pc : BitVec 32) (stack : List (BitVec 32)) :
    let t := s.redirected c w pc stack
    Issued s t c w ∧ SameConstants (s.core c) (t.core c) ∧
      (t.core c).pc = pc ∧ (t.core c).retStack = stack ∧ (t.core c).lcs = (s.core c).lcs := by
  intro t
  obtain ⟨hissued, hcore⟩ := issued_of s c w (fun k => k.redirectTo pc stack) .control hp hf
    (redirectTo_issueOnly _ _ _) (by simp)
  refine ⟨hissued, ?_⟩
  have hcore : t.core c = { ((s.core c).take w).redirectTo pc stack with cc := (t.core c).cc } := hcore
  rw [hcore]
  simp [SameConstants]

/-! ### Halts at the checks -/

/-- A presented word whose check fails leaves its core HALTED with the reason of that check. -/
theorem present_bad_halted {op : Nat} {s : State} {c : Nat} {w : IWord} (hp : Presented s c op w)
    {checks : Core → Bad} {ready : Core → Bool} (act : State → Tag → State) {r : BitVec 8} {aux : BitVec 64}
    (hr : ready (s.core c) = true) (hb : checks (s.core c) = some (r, aux)) :
    HaltedAt (s.present c op w checks ready act) c r (s.core c).pc (.of (engineOf op)) aux := by
  rw [present_bad (h := hp) (hr := hr) (hb := hb)]
  exact haltCore_haltedAt _ _ _ _ _ _ (by simp [Core.running_of_mayIssue hp.1])

/-- An instruction that leaves its core HALTED at a check completes: it gives that state and that reason. -/
theorem gives_halted {i : Instr} {s t : State} {c : Nat} {r : BitVec 8} {pc : BitVec 32} {e : FaultEngine} {aux : BitVec 64}
    (hexec : exec i s = .next t) (h : HaltedAt t c r pc e aux) :
    Gives i s fun t => (t.core c).st = .halted ∧ (t.core c).reason = r := by
  obtain ⟨hst, hreason, -⟩ := h
  exact ⟨t, hexec, hst, hreason⟩

/-- A reserved bit that an instruction adds to those of its slots fails step 2 of R173. -/
theorem checkWord_more (w : IWord) (modMask : Nat) (uses : List SlotUse) :
    checkWord w modMask uses true = some (0x01, 0) := by
  simp [checkWord, firstBad, badIf]

section

variable {s : State} {c : Nat} {w : IWord}

/-! ### JUMP -/

theorem xJump_redirects (hp : Presented s c 0x03 w)
    (hb : checkWord w 0 (List.replicate 4 .unused ++ [.half, .half]) (pcRsv w) = none)
    (hj : jumpBad (s.core c) (wImm w) = false) :
    xJump c w s = s.redirected c w (wImm w) (s.core c).retStack := by
  unfold xJump
  rw [present_issues (h := hp) (hb := by simp only [hb]; simp [hj, firstBad, badIf]) (hr := rfl)]
  simp [State.updCore, setCore_setCore, State.redirected, Core.redirectTo, Core.redirect, Core.keepLoops]

theorem xJump_reserved (hp : Presented s c 0x03 w) (hrsv : pcRsv w = true) :
    HaltedAt (xJump c w s) c 0x01 (s.core c).pc (.of (engineOf 0x03)) 0 :=
  present_bad_halted hp _ rfl (by simp [hrsv, checkWord_more, firstBad])

/-! ### CALL -/

theorem xCall_redirects (hp : Presented s c 0x04 w)
    (hb : checkWord w 0 (List.replicate 4 .unused ++ [.half, .half]) (pcRsv w) = none)
    (hl : (s.core c).lastOfBody = false) (hroom : (s.core c).retStack.length < 8) :
    xCall c w s = s.redirected c w (wImm w) (((s.core c).pc + 16) :: (s.core c).retStack) := by
  unfold xCall
  rw [present_issues (h := hp) (hb := by simp only [hb]; simp [hl, Nat.not_le.mpr hroom, firstBad, badIf]) (hr := rfl)]
  simp [State.updCore, setCore_setCore, State.redirected, Core.redirectTo]

/-- CALL with eight addresses on the return stack. -/
theorem xCall_full (hp : Presented s c 0x04 w)
    (hb : checkWord w 0 (List.replicate 4 .unused ++ [.half, .half]) (pcRsv w) = none)
    (hl : (s.core c).lastOfBody = false) (hfull : 8 ≤ (s.core c).retStack.length) :
    HaltedAt (xCall c w s) c 0x04 (s.core c).pc (.of (engineOf 0x04)) 0 :=
  present_bad_halted hp _ rfl (by simp only [hb]; simp [hl, hfull, firstBad, badIf])

theorem xCall_reserved (hp : Presented s c 0x04 w) (hrsv : pcRsv w = true) :
    HaltedAt (xCall c w s) c 0x01 (s.core c).pc (.of (engineOf 0x04)) 0 :=
  present_bad_halted hp _ rfl (by simp [hrsv, checkWord_more, firstBad])

/-! ### RET -/

theorem xRet_redirects (hp : Presented s c 0x05 w) (hb : checkWord w 0 (List.replicate 6 .unused) = none)
    (hl : (s.core c).lastOfBody = false) (hi : (s.core c).innermost = none) {a : BitVec 32} {l : List (BitVec 32)}
    (hstack : (s.core c).retStack = a :: l) :
    xRet c w s = s.redirected c w a l := by
  unfold xRet
  rw [present_issues (h := hp) (hb := by simp only [hb]; simp [hl, hi, hstack, firstBad, badIf]) (hr := rfl)]
  simp [State.updCore, setCore_setCore, State.redirected, Core.redirectTo, hstack]

/-- RET with no address on the return stack. -/
theorem xRet_empty (hp : Presented s c 0x05 w) (hb : checkWord w 0 (List.replicate 6 .unused) = none)
    (hl : (s.core c).lastOfBody = false) (hi : (s.core c).innermost = none) (hstack : (s.core c).retStack = []) :
    HaltedAt (xRet c w s) c 0x04 (s.core c).pc (.of (engineOf 0x05)) 0 :=
  present_bad_halted hp _ rfl (by simp only [hb]; simp [hl, hi, hstack, firstBad, badIf])

/-! ### EXIT -/

/-- EXIT whose target has reserved bits, once the fetch unit holds the word after it. -/
theorem xExitRound_reserved (hp : Presented s c 0x0C w) (hnext : (s.core c).following ≠ none) (hrsv : pcRsv w = true) :
    HaltedAt (xExitRound c w s) c 0x01 (s.core c).pc (.of (engineOf 0x0C)) 0 := by
  unfold xExitRound
  rw [if_neg (by simpa using hnext)]
  exact present_bad_halted hp _ rfl (by simp [hrsv, checkWord_more, firstBad])

end

end Sys2Proof.Machine

open Sys2Proof Sys2Proof.Machine Sys2Proof.Safety

/-- Settles O3: JUMP, CALL and RET as redirects, the two halts at the limits of the return stack, and the three at the
reserved bits of a target. -/
theorem jumpCallReturnRedirect : Obligations.JumpCallReturnRedirect := by
  unfold Obligations.JumpCallReturnRedirect
  intro s c w hf
  refine ⟨fun hp hb hj => ⟨_, rfl, ?_⟩, fun hp hb hl hroom => ⟨_, rfl, ?_⟩,
    fun hp hb hl hi a l hstack => ⟨_, rfl, ?_⟩,
    fun hp hb hl hfull => gives_halted rfl (xCall_full hp hb hl hfull),
    fun hp hb hl hi hstack => gives_halted rfl (xRet_empty hp hb hl hi hstack),
    fun hrsv => ⟨fun hp => gives_halted rfl (xJump_reserved hp hrsv),
      fun hp => gives_halted rfl (xCall_reserved hp hrsv),
      fun hp hnext => gives_halted rfl (xExitRound_reserved hp hnext hrsv)⟩⟩
  · rw [xJump_redirects hp hb hj]
    exact redirected_issued hp hf _ _
  · rw [xCall_redirects hp hb hl hroom]
    exact redirected_issued hp hf _ _
  · rw [xRet_redirects hp hb hl hi hstack]
    exact redirected_issued hp hf _ _
end
